-- ==== Sys2Proof/Word.lean ====
section
/-!
DEFINITION. The word types of the Slaeri Izfel and the association list that holds sparse
state.
-/
namespace Sys2Proof

/-- One byte of memory. -/
abbrev Byte := BitVec 8
/-- A scalar register's value, Table 3.8. -/
abbrev Word := BitVec 64
/-- A vector register's bits, Table 3.8. -/
abbrev VBits := BitVec 2048
/-- A predicate register's bits, one per byte lane, Table 3.8. -/
abbrev PBits := BitVec 256
/-- An instruction word, R26. -/
abbrev IWord := BitVec 96

/-- Sparse data by number: pairs in rising order of their keys. -/
abbrev AMap (α : Type) := List (Nat × α)

end Sys2Proof
end

