-- ==== Sys2Proof/Machine/Bits.lean ====
section
/-!
DEFINITION. Bit fields, two's-complement reading, little-endian bytes (R2), elements of a vector register, and the
operations of association lists and lists.
-/
namespace Sys2Proof

/-- Bits [lo+len-1 : lo] of a number, as a number. -/
def bits (x lo len : Nat) : Nat := x / 2 ^ lo % 2 ^ len

/-- Bit i of a number. -/
def bit (x i : Nat) : Bool := bits x i 1 == 1

/-- The two's-complement value of the low w bits of x. -/
def signed (w x : Nat) : Int :=
  if x % 2 ^ w < 2 ^ (w - 1) then (x % 2 ^ w : Nat) else ((x % 2 ^ w : Nat) : Int) - 2 ^ w

/-- The low w bits of an integer, as a number. -/
def wrapTo (w : Nat) (x : Int) : Nat := (x % 2 ^ w).toNat

/-- An integer's low 64 bits, as a register holds them. -/
def toWord (x : Int) : Word := BitVec.ofInt 64 x

/-- A register's value read as two's complement. -/
def sval (x : Word) : Int := x.toInt

/-- Little-endian bytes of the low 8n bits of x (R2). -/
def toBytes : Nat → Nat → List Byte
  | 0, _ => []
  | n + 1, x => BitVec.ofNat 8 x :: toBytes n (x / 256)

/-- The number whose little-endian bytes are given (R2). -/
def ofBytes : List Byte → Nat
  | [] => 0
  | b :: bs => b.toNat + 256 * ofBytes bs

/-- Byte i of a vector register. -/
def vbyte (v : VBits) (i : Nat) : Byte := BitVec.ofNat 8 (v.toNat / 2 ^ (8 * i))

/-- Element i of width w bytes of a vector register, as a number (Table 4.2 gives w). -/
def velem (w : Nat) (v : VBits) (i : Nat) : Nat := bits v.toNat (8 * w * i) (8 * w)

/-- A register whose elements of width w bytes are f 0, f 1, … . -/
def vofElems (w : Nat) (f : Nat → Nat) : VBits :=
  BitVec.ofNat 2048
    ((List.range (256 / w)).foldr (fun i acc => acc + (f i % 2 ^ (8 * w)) * 2 ^ (8 * w * i)) 0)

/-- A register's bits from 256 bytes, byte 0 lowest. -/
def vofBytes (bs : List Byte) : VBits := BitVec.ofNat 2048 (ofBytes bs)

/-- The natural number ⌈a / b⌉. -/
def ceilDiv (a b : Nat) : Nat := (a + b - 1) / b

/-- The value at a key, or d where the map lists none. -/
def AMap.get {α : Type} (d : α) : AMap α → Nat → α
  | [], _ => d
  | (k, v) :: m, j => if j = k then v else AMap.get d m j

/-- The map with one key's value replaced, keys kept in rising order. -/
def AMap.put {α : Type} : AMap α → Nat → α → AMap α
  | [], j, x => [(j, x)]
  | (k, v) :: m, j, x =>
    if j = k then (k, x) :: m
    else if j < k then (j, x) :: (k, v) :: m
    else (k, v) :: AMap.put m j x

/-- The map without a key. -/
def AMap.del {α : Type} : AMap α → Nat → AMap α
  | [], _ => []
  | (k, v) :: m, j => if j = k then m else (k, v) :: AMap.del m j

/-- The value at a key, where the map lists one. -/
def AMap.find {α : Type} : AMap α → Nat → Option α
  | [], _ => none
  | (k, v) :: m, j => if j = k then some v else AMap.find m j

/-- Keys of a map strictly rise. -/
def AMap.wf {α : Type} : AMap α → Bool
  | [] => true
  | (k, _) :: m => (m.all fun e => k < e.1) && AMap.wf m

/-- The list with element i replaced, unchanged where i is out of range. -/
def listSet {α : Type} : List α → Nat → α → List α
  | [], _, _ => []
  | _ :: xs, 0, y => y :: xs
  | x :: xs, i + 1, y => x :: listSet xs i y

/-- The list without element i. -/
def listDel {α : Type} : List α → Nat → List α
  | [], _ => []
  | _ :: xs, 0 => xs
  | x :: xs, i + 1 => x :: listDel xs i

/-- The first index whose element satisfies a test, counting from i. -/
def listIdx {α : Type} (p : α → Bool) : List α → Nat → Option Nat
  | [], _ => none
  | x :: xs, i => if p x then some i else listIdx p xs (i + 1)

end Sys2Proof
end

