-- ==== Sys2Proof/Syntax.lean ====
section
/-!
DEFINITION. The abstract syntax: every row of the spec's table of operations and events is one constructor of
`Instr`. An instruction of the opcode map (R51) carries its decoded fields (`Ops`, or `Wide` for the wide forms of
R38); an event of the machine (a step of an engine, a gateway, a firmware core or the host) carries the numbers that
name what it acts on.
-/
namespace Sys2Proof

/-- Format tags, Table 3.7. -/
inductive Tag where
  | raw
  | i8
  | n8
  | i16
  | n16
  | i32
  | n32
  | i64
  | f16
  | bf16
  | f32
  | f64
  | e4m3
  | e5m2
  | mxf8e4
  | mxf8e5
  | mxf6e2
  | mxf6e3
  | mxf4
  | mxi8
  | lb8
  | lb5
  | lb3
  | t5
  | n64
  | freed
  | poison
  deriving DecidableEq, Repr

/-- The 5-bit code of a tag, Table 3.7. -/
def Tag.code : Tag → Nat
  | .raw => 0x00
  | .i8 => 0x01
  | .n8 => 0x02
  | .i16 => 0x03
  | .n16 => 0x04
  | .i32 => 0x05
  | .n32 => 0x06
  | .i64 => 0x07
  | .f16 => 0x08
  | .bf16 => 0x09
  | .f32 => 0x0A
  | .f64 => 0x0B
  | .e4m3 => 0x0C
  | .e5m2 => 0x0D
  | .mxf8e4 => 0x0E
  | .mxf8e5 => 0x0F
  | .mxf6e2 => 0x10
  | .mxf6e3 => 0x11
  | .mxf4 => 0x12
  | .mxi8 => 0x13
  | .lb8 => 0x14
  | .lb5 => 0x15
  | .lb3 => 0x16
  | .t5 => 0x17
  | .n64 => 0x18
  | .freed => 0x1E
  | .poison => 0x1F

/-- The tag of a code; 0x19 to 0x1D are unassigned (R46). -/
def Tag.ofCode : Nat → Option Tag
  | 0x00 => some .raw
  | 0x01 => some .i8
  | 0x02 => some .n8
  | 0x03 => some .i16
  | 0x04 => some .n16
  | 0x05 => some .i32
  | 0x06 => some .n32
  | 0x07 => some .i64
  | 0x08 => some .f16
  | 0x09 => some .bf16
  | 0x0A => some .f32
  | 0x0B => some .f64
  | 0x0C => some .e4m3
  | 0x0D => some .e5m2
  | 0x0E => some .mxf8e4
  | 0x0F => some .mxf8e5
  | 0x10 => some .mxf6e2
  | 0x11 => some .mxf6e3
  | 0x12 => some .mxf4
  | 0x13 => some .mxi8
  | 0x14 => some .lb8
  | 0x15 => some .lb5
  | 0x16 => some .lb3
  | 0x17 => some .t5
  | 0x18 => some .n64
  | 0x1E => some .freed
  | 0x1F => some .poison
  | _ => none

/-- Scopes, Table 3.5; code 111 is reserved. -/
inductive Scope where
  | none | fir | core | sq | die | dev | sys
  deriving DecidableEq, Repr

/-- Order field, Table 3.5. -/
inductive Order where
  | none | acq | rel | ar
  deriving DecidableEq, Repr

/-- Operand kinds, Table 3.4. -/
inductive Kind where
  | none | s | v | p | tile | q | special | imm
  deriving DecidableEq, Repr

/-- A decoded operand field, Table 3.4, with its last-use bit where the kind has one (R43). -/
inductive Operand where
  | none
  | s (n : Fin 64) (last : Bool)
  | v (n : Fin 64) (last : Bool)
  | p (n : Fin 16) (last : Bool)
  | tile (n : Fin 24)
  | q (n : Fin 16)
  | special (n : Fin 15)
  | imm (x : BitVec 20)
  deriving DecidableEq, Repr

/-- Guard and hints, Table 3.1 and Table 3.2. -/
structure Hdr where
  neg : Bool
  guard : Fin 16
  delay : Fin 16
  yield : Bool
  likely : Bool
  cache : Fin 4
  deriving DecidableEq, Repr

/-- Modifiers of field D, Table 3.5; the mode field is read in the sense its instruction names (R37). -/
structure Mods where
  ty : Option Tag
  scope : Scope
  mode : Fin 8
  order : Order
  deriving DecidableEq, Repr

/-- The decoded fields of an instruction that is not a wide form. -/
structure Ops where
  hdr : Hdr
  mods : Mods
  d : Operand
  a : Operand
  b : Operand
  deriving DecidableEq, Repr

/-- The decoded fields of a wide form (R38). -/
structure Wide where
  hdr : Hdr
  d : Operand
  imm : BitVec 46
  deriving DecidableEq, Repr

/-- The atomics that BAR2 completes (R432). -/
inductive HostAtomicOp where
  | fetchAdd | swap | cas
  deriving DecidableEq, Repr

/-- What an uncorrectable error strikes (R415, R167, R147). -/
inductive ErrTarget where
  | line (key : Nat)
  | slot (ep slot : Nat)
  | tile (ep tile : Nat)
  deriving DecidableEq, Repr

/-- A flit of a wavelength, by its sequence number there (R361, R378). -/
structure Flit where
  wl : Nat
  number : Nat
  deriving DecidableEq, Repr

/-- Every operation and event of the spec's table, one constructor a row. -/
inductive Instr where
  /-- `nop` (R64). Has no effect beyond its hints and its guard's wait. -/
  | nop (o : Ops)
  /-- `mov` (R65). Copies an s, v or p register, or a queue entry, to a destination of the same class. -/
  | mov (o : Ops)
  /-- `movi` (R66). Writes a sign-extended 20-bit immediate to a scalar register. -/
  | movi (o : Ops)
  /-- `ldiw` (R66). Writes a sign-extended 46-bit wide immediate to a scalar register. -/
  | ldiw (o : Wide)
  /-- `mkptr` (R62). Builds a pointer from an extent slot and a byte offset. -/
  | mkptr (o : Ops)
  /-- `ptrx` (R63). Steps a pointer by a scaled offset, keeping its slot and faulting on overflow. -/
  | ptrx (o : Ops)
  /-- `br` (R77). Branches by a word offset. -/
  | br (o : Wide)
  /-- `jr` (R78). Jumps to a byte pointer into slot 0. -/
  | jr (o : Ops)
  /-- `call` (R77). Writes the return byte pointer to s1 and branches by a word offset. -/
  | call (o : Wide)
  /-- `callr` (R78). Calls through a byte pointer, writing the return pointer to s1. -/
  | callr (o : Ops)
  /-- `ret` (R78). Returns to the byte pointer held in s1. -/
  | ret (o : Ops)
  /-- `done` (R79). Ends the firing, frees its slot once writes and sends are settled, and re-arms the actor. -/
  | done (o : Ops)
  /-- `loop` (R270). Pushes a hardware loop entry over the following body words, or skips the body for a count of 0. -/
  | loop (o : Wide)
  /-- `lexit` (R273). Pops n loop entries and continues after the end word of the outermost one. -/
  | lexit (o : Ops)
  /-- `add` (R109). Adds two integers at the type's width, wrapping or saturating. -/
  | add (o : Ops)
  /-- `sub` (R109). Subtracts two integers at the type's width, wrapping or saturating. -/
  | sub (o : Ops)
  /-- `addc` (R109). Returns the unsigned carry out of an addition. -/
  | addc (o : Ops)
  /-- `subb` (R109). Returns the unsigned borrow of a subtraction. -/
  | subb (o : Ops)
  /-- `mul` (R109). Multiplies two integers at the type's width, wrapping or saturating. -/
  | mul (o : Ops)
  /-- `mulh` (R109). Returns the high half of an integer product. -/
  | mulh (o : Ops)
  /-- `div` (R110). Divides with truncation, giving all ones and flag idiv or a trap on a zero divisor. -/
  | div (o : Ops)
  /-- `rem` (R110). Returns the remainder with the sign of the dividend, or the dividend on a zero divisor. -/
  | rem (o : Ops)
  /-- `neg` (R109). Negates an integer. -/
  | neg (o : Ops)
  /-- `abs` (R109). Returns the absolute value of an integer. -/
  | abs (o : Ops)
  /-- `min` (R109). Returns the smaller of two integers. -/
  | min (o : Ops)
  /-- `max` (R109). Returns the larger of two integers. -/
  | max (o : Ops)
  /-- `and` (R109). Bitwise AND over 64 bits. -/
  | andB (o : Ops)
  /-- `or` (R109). Bitwise OR over 64 bits. -/
  | orB (o : Ops)
  /-- `xor` (R109). Bitwise exclusive OR over 64 bits. -/
  | xorB (o : Ops)
  /-- `andn` (R109). Bitwise AND with the complement of the second operand. -/
  | andn (o : Ops)
  /-- `not` (R109). Bitwise complement over 64 bits. -/
  | notB (o : Ops)
  /-- `shl` (R109). Shifts left by the count modulo the width. -/
  | shl (o : Ops)
  /-- `shr` (R109). Shifts right logically. -/
  | shr (o : Ops)
  /-- `sar` (R109). Shifts right arithmetically. -/
  | sar (o : Ops)
  /-- `rol` (R109). Rotates left within the width. -/
  | rol (o : Ops)
  /-- `ror` (R109). Rotates right within the width. -/
  | ror (o : Ops)
  /-- `clz` (R109). Counts leading zero bits. -/
  | clz (o : Ops)
  /-- `ctz` (R109). Counts trailing zero bits. -/
  | ctz (o : Ops)
  /-- `popc` (R109). Counts one bits of a scalar or a predicate. -/
  | popc (o : Ops)
  /-- `bfx` (R111). Extracts a bit field. -/
  | bfx (o : Ops)
  /-- `bfi` (R111). Inserts a bit field into the destination. -/
  | bfi (o : Ops)
  /-- `sext` (R112). Sign-extends the low bits of a register. -/
  | sext (o : Ops)
  /-- `zext` (R112). Zero-extends the low bits of a register. -/
  | zext (o : Ops)
  /-- `cmp` (R113). Compares two integers and writes all ones or all zeros to a predicate. -/
  | cmp (o : Ops)
  /-- `sel` (R114). Selects between two values on the old destination being nonzero. -/
  | sel (o : Ops)
  /-- `pand` (R115). ANDs two predicates. -/
  | pand (o : Ops)
  /-- `por` (R115). ORs two predicates. -/
  | por (o : Ops)
  /-- `pxor` (R115). Exclusive-ORs two predicates. -/
  | pxor (o : Ops)
  /-- `pnot` (R115). Complements a predicate. -/
  | pnot (o : Ops)
  /-- `vadd` (R117). Adds vector integer elements. -/
  | vadd (o : Ops)
  /-- `vsub` (R117). Subtracts vector integer elements. -/
  | vsub (o : Ops)
  /-- `vmul` (R117). Multiplies vector integer elements. -/
  | vmul (o : Ops)
  /-- `vmulh` (R117). Returns the high half of each element product. -/
  | vmulh (o : Ops)
  /-- `vmad` (R122). Multiplies elements and accumulates into the destination. -/
  | vmad (o : Ops)
  /-- `vmin` (R117). Element-wise integer minimum. -/
  | vmin (o : Ops)
  /-- `vmax` (R117). Element-wise integer maximum. -/
  | vmax (o : Ops)
  /-- `vabs` (R117). Element-wise absolute value. -/
  | vabs (o : Ops)
  /-- `vneg` (R117). Element-wise negation. -/
  | vneg (o : Ops)
  /-- `vand` (R118). Bitwise AND over 2048 bits. -/
  | vand (o : Ops)
  /-- `vor` (R118). Bitwise OR over 2048 bits. -/
  | vor (o : Ops)
  /-- `vxor` (R118). Bitwise exclusive OR over 2048 bits. -/
  | vxor (o : Ops)
  /-- `vnot` (R118). Bitwise complement over 2048 bits. -/
  | vnot (o : Ops)
  /-- `vshl` (R117). Element-wise shift left. -/
  | vshl (o : Ops)
  /-- `vshr` (R117). Element-wise logical shift right. -/
  | vshr (o : Ops)
  /-- `vsar` (R117). Element-wise arithmetic shift right. -/
  | vsar (o : Ops)
  /-- `vcmp` (R120). Compares elements and writes a predicate of element-width runs. -/
  | vcmp (o : Ops)
  /-- `vsel` (R121). Selects elements on the old destination elements being nonzero. -/
  | vsel (o : Ops)
  /-- `vaddsub` (R122). Adds or subtracts each element by the sign of a selector element. -/
  | vaddsub (o : Ops)
  /-- `vdot4` (R122). Accumulates four-way dot products of narrow elements into wide elements. -/
  | vdot4 (o : Ops)
  /-- `vred` (R123). Reduces all elements by a fixed pairwise tree into a scalar. -/
  | vred (o : Ops)
  /-- `vpopc` (R119). Counts one bits per element. -/
  | vpopc (o : Ops)
  /-- `vclz` (R119). Counts leading zeros per element. -/
  | vclz (o : Ops)
  /-- `vbcast` (R124). Broadcasts a scalar to every element. -/
  | vbcast (o : Ops)
  /-- `vperm` (R124). Permutes elements by an index vector. -/
  | vperm (o : Ops)
  /-- `vslide` (R124). Slides elements by a signed count, filling with zero. -/
  | vslide (o : Ops)
  /-- `vextr` (R124). Extracts one element into a scalar register. -/
  | vextr (o : Ops)
  /-- `vins` (R124). Inserts a scalar into one element. -/
  | vins (o : Ops)
  /-- `vcompress` (R124). Packs the predicated elements to the low positions. -/
  | vcompress (o : Ops)
  /-- `vexpand` (R124). Spreads low elements to the predicated positions. -/
  | vexpand (o : Ops)
  /-- `vtrit` (R125). Decodes one part of packed ternary bytes into i8 weights. -/
  | vtrit (o : Ops)
  /-- `vcvt` (R99). Converts elements between formats of equal width. -/
  | vcvt (o : Ops)
  /-- `vpack` (R101). Narrows elements into a part of the destination, or encodes f32 into MX or lb blocks. -/
  | vpack (o : Ops)
  /-- `vunpk` (R100). Widens one part of the source elements. -/
  | vunpk (o : Ops)
  /-- `vscale` (R104). Decodes eight MX or lb blocks with their scales into four f32 registers. -/
  | vscale (o : Ops)
  /-- `vtag` (R105). Copies elements unchanged and sets the destination tag. -/
  | vtag (o : Ops)
  /-- `vfadd` (R128). Adds float elements, rounded once. -/
  | vfadd (o : Ops)
  /-- `vfsub` (R128). Subtracts float elements, rounded once. -/
  | vfsub (o : Ops)
  /-- `vfmul` (R128). Multiplies float elements, rounded once. -/
  | vfmul (o : Ops)
  /-- `vffma` (R128). Fused multiply-add of float elements into the destination. -/
  | vffma (o : Ops)
  /-- `vfmin` (R129). Float minimum with NaN and signed-zero rules. -/
  | vfmin (o : Ops)
  /-- `vfmax` (R129). Float maximum with NaN and signed-zero rules. -/
  | vfmax (o : Ops)
  /-- `vfabs` (R130). Clears the sign bit of each element. -/
  | vfabs (o : Ops)
  /-- `vfneg` (R130). Inverts the sign bit of each element. -/
  | vfneg (o : Ops)
  /-- `vfdiv` (R128). Divides float elements, correctly rounded. -/
  | vfdiv (o : Ops)
  /-- `vfsqrt` (R128). Square root of float elements, correctly rounded. -/
  | vfsqrt (o : Ops)
  /-- `vfrcp` (R128). Reciprocal of float elements, correctly rounded. -/
  | vfrcp (o : Ops)
  /-- `vfrsq` (R128). Reciprocal square root, correctly rounded. -/
  | vfrsq (o : Ops)
  /-- `vfexp2` (R128). Base-2 exponential, correctly rounded. -/
  | vfexp2 (o : Ops)
  /-- `vflog2` (R128). Base-2 logarithm, correctly rounded. -/
  | vflog2 (o : Ops)
  /-- `vfcmp` (R131). Compares float elements into a predicate. -/
  | vfcmp (o : Ops)
  /-- `vfred` (R133). Reduces float elements by a pairwise tree. -/
  | vfred (o : Ops)
  /-- `vfclass` (R132). Writes a one-hot class mask per element. -/
  | vfclass (o : Ops)
  /-- `vfred.seq` (R133). Reduces float elements sequentially in lane order. -/
  | vfredSeq (o : Ops)
  /-- `tclaim` (R145). Claims an A or W slot for the firing's holder, waiting until it is free. -/
  | tclaim (o : Ops)
  /-- `trel` (R145). Releases a claimed slot. -/
  | trel (o : Ops)
  /-- `tfill` (R146). Queues a copy of L-store bytes into a slot and sets its tag at issue. -/
  | tfill (o : Ops)
  /-- `tdrain` (R147). Queues a copy of a slot or tile into the L store. -/
  | tdrain (o : Ops)
  /-- `tzero` (R150). Queues zeroing of a C tile and tags it f32. -/
  | tzero (o : Ops)
  /-- `mma` (R155). Queues a block-summed multiply-accumulate of an A slot by a W slot into a C tile. -/
  | mma (o : Ops)
  /-- `mmaj` (R157). Contributes this core's part of a joint square matrix operation. -/
  | mmaj (o : Ops)
  /-- `mcmd` (R165). Sends a matrix command word under a capability to another core. -/
  | mcmd (o : Ops)
  /-- `mcap` (R164). Mints a matrix capability with a tile mask in a free capability-table entry. -/
  | mcapMint (o : Ops)
  /-- `mcap` (R164). Revokes a live matrix capability of this core. -/
  | mcapRevoke (o : Ops)
  /-- `tmov` (R151). Queues a tile copy, slot copy or narrowing of a tile into a slot. -/
  | tmov (o : Ops)
  /-- `ttr` (R152). Queues a transpose of a tile or byte slot. -/
  | ttr (o : Ops)
  /-- `ttrit` (R153). Queues decoding of one fifth of a t5 slot into an i8 slot. -/
  | ttrit (o : Ops)
  /-- `tscale` (R148). Queues a copy of 512 L-store bytes into an MX slot's side-area. -/
  | tscale (o : Ops)
  /-- `mstat` (R161). Returns slot, tile or core matrix status, optionally clearing matrix flags. -/
  | mstat (o : Ops)
  /-- `mwait` (R162). Waits for issued matrix operations on a tile or slot to finish and raises deferred faults. -/
  | mwait (o : Ops)
  /-- `ld` (R68). Loads a scalar through an extent pointer after the access checks. -/
  | ld (o : Ops)
  /-- `st` (R68). Stores a scalar through an extent pointer after the access checks. -/
  | st (o : Ops)
  /-- `ldl` (R75). Loads a scalar from the L store. -/
  | ldl (o : Ops)
  /-- `stl` (R75). Stores a scalar to the L store. -/
  | stl (o : Ops)
  /-- `ldv` (R69). Loads 256 bytes through an extent into a vector register and tags it. -/
  | ldv (o : Ops)
  /-- `stv` (R69). Stores the active elements of a vector through an extent. -/
  | stv (o : Ops)
  /-- `ldlv` (R75). Loads 256 bytes from the L store into a vector register. -/
  | ldlv (o : Ops)
  /-- `stlv` (R75). Stores the active elements of a vector to the L store. -/
  | stlv (o : Ops)
  /-- `STACK_GROWTH` (R67). Memory core commits and zero-fills 64 KiB steps of a G extent and the access reissues. -/
  | stackGrowth (ep slot : Nat)
  /-- `amo.add` (R204). Atomic add at the location's home. -/
  | amoAdd (o : Ops)
  /-- `amo.and` (R204). Atomic AND at the location's home. -/
  | amoAnd (o : Ops)
  /-- `amo.or` (R204). Atomic OR at the location's home. -/
  | amoOr (o : Ops)
  /-- `amo.xor` (R204). Atomic exclusive OR at the location's home. -/
  | amoXor (o : Ops)
  /-- `amo.min` (R204). Atomic minimum at the location's home. -/
  | amoMin (o : Ops)
  /-- `amo.max` (R204). Atomic maximum at the location's home. -/
  | amoMax (o : Ops)
  /-- `amo.swap` (R204). Atomic swap at the location's home. -/
  | amoSwap (o : Ops)
  /-- `amo.cas` (R204). Atomic compare-and-swap at the location's home. -/
  | amoCas (o : Ops)
  /-- `amo.fadd` (R204). Atomic floating-point add rounded under RNE. -/
  | amoFadd (o : Ops)
  /-- `amo.inc` (R204). Atomic wrapping increment against a bound. -/
  | amoInc (o : Ops)
  /-- `fence` (R208). Waits until earlier stores reach the scope's point and marks them fenced. -/
  | fence (o : Ops)
  /-- `fence.eng` (R209). Waits for the firing's engine and gateway requests to finish at a scope. -/
  | fenceEng (o : Ops)
  /-- `pappend` (R212). Links a porter entry to the end of a channel's chain. -/
  | pappend (o : Ops)
  /-- `pgo` (R213). Releases the appended entries of a channel to the porter, or restarts a halted channel. -/
  | pgo (o : Ops)
  /-- `pseq` (R216). Returns a porter channel's state. -/
  | pseq (o : Ops)
  /-- `pdeal` (R217). Sets a channel's pending deal pattern. -/
  | pdeal (o : Ops)
  /-- `qpub` (R218). Releases a packet trailer and rings the Parser's doorbell. -/
  | qpub (o : Ops)
  /-- `rld` (R221). Sends a remote load request with a reply. -/
  | rld (o : Ops)
  /-- `rst` (R221). Sends a remote store request with a reply. -/
  | rst (o : Ops)
  /-- `ramo` (R221). Sends a remote atomic request with a reply. -/
  | ramo (o : Ops)
  /-- `amsg` (R224). Sends an active message to a handler on another core. -/
  | amsg (o : Ops)
  /-- `amsgc` (R225). Sends an active message carrying inline code words. -/
  | amsgc (o : Ops)
  /-- `red` (R222). Reduces into a reduction-window extent as combining atomic entries. -/
  | red (o : Ops)
  /-- `rcopy` (R223). Copies bytes between extents across chips with a reply. -/
  | rcopy (o : Ops)
  /-- `send` (R275). Appends a four-word message to the slot's send stream. -/
  | send (o : Ops)
  /-- `recv` (R278). Removes one message from a mailbox, waiting for one if needed. -/
  | recv (o : Ops)
  /-- `recv.w` (R278). Removes one message or ends the firing when the mailbox is empty. -/
  | recvW (o : Ops)
  /-- `pop` (R280). Takes one entry from a work queue or reports empty or closed. -/
  | pop (o : Ops)
  /-- `pop.w` (R280). Takes one work-queue entry or ends the firing and registers the actor as a waiter. -/
  | popW (o : Ops)
  /-- `push` (R281). Appends an entry to a work queue or hands it to the oldest waiter. -/
  | push (o : Ops)
  /-- `qclose` (R282). Closes a work queue and wakes its waiters. -/
  | qclose (o : Ops)
  /-- `fork` (R283). Pushes a task record onto the bottom of the core's deque. -/
  | fork (o : Ops)
  /-- `join` (R284). Decrements a join counter and starts the continuation at zero. -/
  | join (o : Ops)
  /-- `spawn` (R285). Hands a job card to a ready pool on this or another chip. -/
  | spawn (o : Ops)
  /-- `ph.reg` (R288). Creates a phaser, joins one, or changes a member's mode. -/
  | phReg (o : Ops)
  /-- `ph.drop` (R292). Ends the actor's phaser membership. -/
  | phDrop (o : Ops)
  /-- `ph.sig` (R289). Records an arrival for the member's signal phase as a release. -/
  | phSig (o : Ops)
  /-- `ph.wait` (R290). Waits for the member's awaited phase to complete, as an acquire. -/
  | phWait (o : Ops)
  /-- `ph.sw` (R290). Signals and then waits on one phaser as one instruction. -/
  | phSw (o : Ops)
  /-- `ph.twait` (R291). Waits for phase completion up to a cycle limit. -/
  | phTwait (o : Ops)
  /-- `ph.stat` (R293). Returns a phaser's status. -/
  | phStat (o : Ops)
  /-- `qstat` (R298). Returns the status of a work queue, mailbox, q register, counter or term. -/
  | qstat (o : Ops)
  /-- `evcfg` (R295). Configures an event-crossbar counter or term. -/
  | evcfg (o : Ops)
  /-- `evarm` (R297). Sets a term's armed count and tests it. -/
  | evarm (o : Ops)
  /-- `evpulse` (R297). Gives a counter one pulse once the store buffer is empty. -/
  | evpulse (o : Ops)
  /-- `stage` (R299). Registers or removes a stage ring for the governor. -/
  | stage (o : Ops)
  /-- `budget` (R300). Returns the remaining budget and optionally lowers it. -/
  | budget (o : Ops)
  /-- `cemit` (R350). Submits a child capsule image for admission. -/
  | cemit (o : Ops)
  /-- `xderive` (R348). Makes a derived extent slot as a narrowed window, or drops it. -/
  | xderive (o : Ops)
  /-- `xinfo` (R347). Returns one piece of an extent descriptor. -/
  | xinfo (o : Ops)
  /-- `xgrow` (R349). Commits a G extent ahead of need. -/
  | xgrow (o : Ops)
  /-- `lease` (R353). Requests wavelengths toward a peer chip. -/
  | lease (o : Ops)
  /-- `lrel` (R354). Ends a lease or withdraws a pending request. -/
  | lrel (o : Ops)
  /-- `lstat` (R355). Returns a lease's status. -/
  | lstat (o : Ops)
  /-- `sysrd` (R341). Reads a special register or a system selector. -/
  | sysrd (o : Ops)
  /-- `syswr` (R341). Writes a writable special register. -/
  | syswr (o : Ops)
  /-- `syswr` (R345). Selector 0x20: asks the Parser to register a device-side command queue. -/
  | syswrRegisterQueue (o : Ops)
  /-- `syswr` (R345). Selector 0x22: unregisters a queue the capsule registered. -/
  | syswrUnregisterQueue (o : Ops)
  /-- `attest` (R356). Asks the Security core to sign an attestation report for the capsule. -/
  | attest (o : Ops)
  /-- `trap` (R397). Raises a software trap fault. -/
  | trap (o : Ops)
  /-- `tret` (R398). Ends the trap handler by retrying, resuming after, or ending the firing. -/
  | tret (o : Ops)
  /-- `fltrd` (R399). Reads a word of the current trap record. -/
  | fltrd (o : Ops)
  /-- `fltack` (R401). Acknowledges fault records up to a sequence. -/
  | fltack (o : Ops)
  /-- `ckpt` (R400). Writes the actor's 16-byte progress entry as a release. -/
  | ckpt (o : Ops)
  /-- `poisck` (R402). Reports poison, freed state and tag of an operand without faulting. -/
  | poisck (o : Ops)
  /-- `sigacc` (R403). Folds an operand into the slot's CRC-64 signature. -/
  | sigacc (o : Ops)
  /-- `ISSUE_QUEUE_PERFORM` (R184). An access, release, acquire, send or engine request waiting in IQ(F) is performed once its conditions of R179-R184 hold. -/
  | issueQueuePerform (idx pick : Nat)
  /-- `REMOTE_REPLY_RECEIVE` (R370). A reply from a home gateway arrives at the issuing side, is confirmed, and frees an outstanding request. -/
  | remoteReplyReceive (idx : Nat)
  /-- `WARM_REBOOT_END` (R425). A warm reboot ends within 25 ms: re-adoption completes, dispatch resumes and waiting firmware requests are taken up. -/
  | warmRebootEnd (chip : Nat)
  /-- `DISPATCH` (R252). The dispatch arbiter fills a free slot with the earliest-deadline or aged ready firing. -/
  | dispatch (ep : Nat)
  /-- `STEAL` (R260). An idle core takes the top task record of the fullest deque in its square. -/
  | steal (ep : Nat)
  /-- `HAWKER_BALANCE` (R261). Every 4,096 ticks the hawker ships surplus task records to the least-loaded neighbouring square. -/
  | hawkerBalance (chip die square : Nat)
  /-- `GOVERNOR_MOVE` (R265). Every 65,536 ticks the governor moves one core between stage pools. -/
  | governorMove (chip die : Nat)
  /-- `READY_POOL_NODE` (R262). The ready pool takes a job card, chooses a core, copies its tiles and makes the node ready. -/
  | readyPoolNode (chip die : Nat)
  /-- `SEND_STREAM_DELIVER` (R276). A send-stream entry leaves for its mailbox once ordering and room allow. -/
  | sendStreamDeliver (ep slot idx : Nat)
  /-- `HELD_MESSAGE_PLACE` (R277). A message held at its source is placed once its full mailbox has room. -/
  | heldMessagePlace (idx : Nat)
  /-- `PORTER_ENTRY` (R214). The porter reads, checks and copies one chain entry, then writes completion and posts its message. -/
  | porterEntry (ep ch : Nat)
  /-- `DEAL_ENTRY` (R217). The dealer splits a deal-mode entry block-cyclically into cores' L stores or slots. -/
  | dealEntry (ep ch : Nat)
  /-- `HELD_SLOT_WRITE` (R139). A held porter or dealer slot write is performed whole when the slot's count reaches 0. -/
  | heldSlotWrite (ep idx : Nat)
  /-- `MATRIX_OP_START` (R142). A queued matrix operation starts on its pipe once earlier conflicting operations finish. -/
  | matrixOpStart (ep idx : Nat)
  /-- `MATRIX_OP_FINISH` (R142). A matrix operation finishes, writes its result, lowers counts and releases waits. -/
  | matrixOpFinish (ep idx : Nat)
  /-- `MATRIX_COMMAND_ACCEPT` (R166). A target core checks a matrix command and accepts it into its matrix queue. -/
  | matrixCommandAccept (ep : Nat)
  /-- `PHASER_ARBITER_STEP` (R287). The phaser arbiter takes one arrival, registration or drop. -/
  | phaserArbiterStep (ep idx : Nat)
  /-- `PHASER_COMPLETION_NOTICE` (R290). A member's core learns of a phase completion and its waiting slot returns. -/
  | phaserCompletionNotice (ep home phaser : Nat)
  /-- `PH_TWAIT_EXPIRY` (R291). A timed phaser wait's limit expires and it returns 1. -/
  | phTwaitExpiry (ep slot : Nat)
  /-- `ENTRY_MOVE` (R176). An abstract-machine entry moves to the next place on its path. -/
  | entryMove (idx : Nat)
  /-- `ATOMIC_PERFORM` (R186). An atomic read-modify-write is performed at M in one step. -/
  | atomicPerform (idx : Nat) (early : Bool)
  /-- `SPC_COMMIT` (R187). A speculative atomic is revalidated at commit and placed or replayed. -/
  | spcCommit (idx : Nat)
  /-- `GATEWAY_MERGE` (R189). Two combinable operation entries in a gateway queue are merged. -/
  | gatewayMerge (i j : Nat)
  /-- `REMOTE_REQUEST_PERFORM` (R221). The home gateway performs a remote request once and posts its reply. -/
  | remoteRequestPerform (idx : Nat)
  /-- `REDUCTION_WAIT_EXPIRY` (R372). A reduction entry without a partner for 256 gateway cycles is applied at M. -/
  | reductionWaitExpiry (idx : Nat)
  /-- `FABRIC_BARRIER_ARRIVAL` (R376). A barrier counter's gateway counts an arrival and multicasts the release at n. -/
  | fabricBarrierArrival (idx : Nat)
  /-- `AMSG_ACCEPT` (R224). A target core accepts or discards an active message and starts a message firing. -/
  | amsgAccept (idx : Nat)
  /-- `RETRAIN_END` (R378). A retraining wavelength rejoins its set. -/
  | retrainEnd (chip wl : Nat)
  /-- `RETIREMENT_BUCKET_DECAY` (R379). Each 2^30 good flits take 1 from a wavelength's retirement bucket. -/
  | retirementBucketDecay (chip wl : Nat)
  /-- `LEASE_GRANT` (R363). The lease arbiter grants the head request once at least its minimum can be taken. -/
  | leaseGrant (chip : Nat)
  /-- `LEASE_REVOKE` (R366). After 2^20 gateway cycles at the head, the oldest granted lease is revoked. -/
  | leaseRevoke (chip : Nat)
  /-- `RECEIVE_REVOKE_REQUEST` (R366). A receive arbiter refusing for 2^20 cycles asks the sender of its longest inbound lease to revoke it. -/
  | receiveRevokeRequest (chip : Nat)
  /-- `LEASE_WAVELENGTH_RETURN` (R365). A lease's wavelength returns to base sets or the spare pool at its packet boundary. -/
  | leaseWavelengthReturn (chip wl : Nat)
  /-- `QUEUE_DOORBELL` (R233). A doorbell or completion makes the Parser look at a queue and take published packets. -/
  | queueDoorbell (chip queue : Nat)
  /-- `PACKET_START` (R234). A taken packet starts when its class allows and does its work. -/
  | packetStart (chip queue idx : Nat)
  /-- `PACKET_COMPLETE` (R236). A packet completes: release, completion signal atomic and error word. -/
  | packetComplete (chip queue idx : Nat)
  /-- `BARRIER_CHECK` (R237). Periodic check, every 4,096 firmware cycles, of each started barrier's signals. -/
  | barrierCheck (chip : Nat)
  /-- `CAPSULE_ADMISSION` (R21). Firmware checks, places and starts a capsule, or refuses it with a refusal record. -/
  | capsuleAdmission (chip : Nat)
  /-- `CAPSULE_COMPLETION` (R23). A capsule whose work has all ended completes, clears its cores and admits successors. -/
  | capsuleCompletion (cap : Nat)
  /-- `QUEUE_REGISTRATION_ANSWER` (R345). The Parser answers a device-side queue registration. -/
  | queueRegistrationAnswer (chip : Nat)
  /-- `ATTEST_REPORT_DONE` (R356). The Security core writes a signed report and posts its message. -/
  | attestReportDone (chip : Nat)
  /-- `FAULT_RECORD_DELIVERY` (R389). The Errors core writes a fault record and posts the fault message. -/
  | faultRecordDelivery (cap : Nat)
  /-- `PARK` (R392). After firings run out, the capsule is saved and its continuation image written. -/
  | park (cap : Nat)
  /-- `PREEMPT_SAVE` (R405). A vacating core, once idle, is saved, cleared and handed over. -/
  | preemptSave (ep : Nat)
  /-- `PREEMPT_INSTALL` (R406). Moved actors are installed on kept cores and dispatch resumes. -/
  | preemptInstall (cap : Nat)
  /-- `REGISTER_QUEUE` (R228). Host command 0x01 registers a command queue. -/
  | registerQueue (chip tag : Nat) (desc : Nat)
  /-- `UNREGISTER_QUEUE` (R345). Host command 0x02 unregisters a queue. -/
  | unregisterQueue (chip tag queue : Nat)
  /-- `ASSIGN_REGION` (R323). Host command 0x03 assigns an address region to an owner tag. -/
  | assignRegion (chip tag owner base length : Nat)
  /-- `PRE_EMPT` (R404). Host command 0x04 takes cores from a named capsule. -/
  | preEmpt (chip tag cap cores : Nat)
  /-- `READ_TELEMETRY` (R419). Host command 0x05 reads lifetime counters. -/
  | readTelemetry (chip tag buffer : Nat)
  /-- `HOST_ATTEST` (R339). Host command 0x06 obtains an attestation report. -/
  | hostAttest (chip tag nonce buffer : Nat)
  /-- `STAGE_FIRMWARE` (R422). Host command 0x07 writes and checks a firmware image in the inactive slot. -/
  | stageFirmware (chip tag image length : Nat)
  /-- `ACTIVATE_FIRMWARE` (R430). Host command 0x08 switches firmware slot and warm reboots, or defers. -/
  | activateFirmware (chip tag : Nat)
  /-- `INSTALL_CONFIGURATION` (R424). Host command 0x09 checks and stores a configuration record. -/
  | installConfiguration (chip tag record length : Nat)
  /-- `LIST_CONTINUATIONS` (R430). Host command 0x0A returns the continuation list. -/
  | listContinuations (chip tag buffer : Nat)
  /-- `DROP_CONTINUATION` (R430). Host command 0x0B removes a continuation from the list. -/
  | dropContinuation (chip tag hash : Nat)
  /-- `BAR0_REGISTER_WRITE` (R429). Host write to a BAR0 register without a row of its own. -/
  | bar0RegisterWrite (chip offset value : Nat)
  /-- `HOST_BAR2_WRITE` (R432). A host write through BAR2 enters Q(pod). -/
  | hostBar2Write (chip offset : Nat) (data : List Byte)
  /-- `HOST_BAR2_READ` (R432). A host read through BAR2 reads along Q(pod)'s path. -/
  | hostBar2Read (chip offset count : Nat)
  /-- `HOST_ATOMIC` (R432). A host FetchAdd, Swap or CAS through BAR2 is performed at M. -/
  | hostAtomic (chip offset : Nat) (op : HostAtomicOp) (width : Nat) (operand compare : Word)
  /-- `COLD_BOOT` (R423). Power-on, module reset or thermal shutdown runs the cold-boot steps. -/
  | coldBoot (chip : Nat) (failure : Option Nat)
  /-- `WATCHDOG_EXPIRY` (R425). A firmware core's 100 ms watchdog expires. -/
  | watchdogExpiry (chip core : Nat)
  /-- `FUNCTION_LEVEL_RESET` (R427). A host FLR warm reboots, unregisters host queues and clears the command ring. -/
  | functionLevelReset (chip : Nat)
  /-- `KERNEL_PANIC` (R425). A firmware kernel panic starts a warm reboot. -/
  | kernelPanic (chip : Nat)
  /-- `THERMAL_THROTTLE` (R434). At 105 °C the hottest cores' clocks are lowered. -/
  | thermalThrottle (chip die ep : Nat)
  /-- `THERMAL_SHUTDOWN` (R434). At 115 °C the module shuts down. -/
  | thermalShutdown (chip : Nat)
  /-- `CLOCK_BOOST` (R267). The power manager raises or lowers core clocks. -/
  | clockBoost (ep mhz : Nat)
  /-- `TELEMETRY_SAVE` (R419). Every 60 s the lifetime counters are written to NVMe. -/
  | telemetrySave (chip : Nat)
  /-- `UNCORRECTABLE_ERROR` (R415). An uncorrectable error arises in an HBM line, slot or tile, marking it poisoned and producing a RAS report. -/
  | uncorrectableError (target : ErrTarget)
  /-- `CORRECTED_ERROR` (R415). A corrected error in an HBM row is counted and, past 64 in the row's lifetime, its page is retired. -/
  | correctedError (chip row : Nat)
  /-- `ORDERLY_SHUTDOWN` (R419). At orderly shutdown the Telemetry core writes the lifetime counters to the boot drive. -/
  | orderlyShutdown (chip : Nat)
  /-- `REMOTE_RESEND` (R370). The issuing gateway re-sends a request on another wavelength after retraining, retirement or a 2^16-cycle silence. -/
  | remoteResend (idx : Nat)
  /-- `PEER_UNREACHABLE` (R371). The Link core declares a peer unreachable and gives outstanding requests an unknown outcome. -/
  | peerUnreachable (chip peer : Nat)
  /-- `EPOCH_OPEN` (R371). A peer reachable again opens a new epoch with empty windows. -/
  | epochOpen (chip peer : Nat)
  /-- `FLIT_CRC_FAIL` (R378). A flit failing its CRC is replayed on its wavelength. -/
  | flitCrcFail (chip : Nat) (flit : Flit)
  /-- `PACKET_HEADER_FLIT` (R381). A packet's header flit fixes its wavelength set. -/
  | packetHeaderFlit (chip peer cap flits : Nat)
  /-- `BUDGET_EXHAUSTED` (R255). A firing's budget reaches 0 and it raises Budget-exhausted and leaves its slot. -/
  | budgetExhausted (ep slot : Nat)
  deriving DecidableEq, Repr

end Sys2Proof
end

