-- ==== Sys2Proof/Machine/OpMap.lean ====
section
/-!
DEFINITION. The operand forms of every instruction: which kinds each field takes, which fields are sources and
which modifier codes are allowed (Tables 4.1, 5.10, 6.1, 6.3, 6.5, 7.3, 10.1, 10.5, 10.11, 14.1, 18.1, 21.4).
-/
namespace Sys2Proof

/-- What a field's accepted kinds may depend on: field D's kind and number, the type code, the mode code. -/
structure Shape where
  dKind : Kind
  dNum : Nat
  ty : Nat
  mode : Nat
  deriving DecidableEq, Repr

/-- The type modifier's rule: unused, optional among codes, required among codes. -/
inductive TyRule where
  | unused
  | optional (codes : List Nat)
  | required (codes : List Nat)
  deriving DecidableEq, Repr

/-- The form of an instruction. -/
structure Row where
  dK : Shape → List Kind
  aK : Shape → List Kind
  bK : Shape → List Kind
  /-- field D is read as a source -/
  dSrc : Shape → Bool
  /-- field A is a destination (pseq alone) -/
  aDst : Bool
  ty : TyRule
  /-- mode codes accepted, and codes reserved in the sense the instruction reads; both empty when the field is unused -/
  modes : List Nat
  modesReserved : List Nat
  scopes : List Scope
  orders : List Order
  /-- further checks of step 7b: the failing field -/
  extra : Ops → Option Nat

namespace Row

def k0 : Shape → List Kind := fun _ => [.none]
def kS : Shape → List Kind := fun _ => [.s, .q]
def kS1 : Shape → List Kind := fun _ => [.s]
def kSI : Shape → List Kind := fun _ => [.s, .q, .imm]
def kV : Shape → List Kind := fun _ => [.v, .q]
def kVS : Shape → List Kind := fun _ => [.v, .s, .q]
def kVSI : Shape → List Kind := fun _ => [.v, .s, .q, .imm]
def kP : Shape → List Kind := fun _ => [.p]
def kI : Shape → List Kind := fun _ => [.imm]
def kT : Shape → List Kind := fun _ => [.tile]

/-- Integer type codes (R107). -/
def tInt : List Nat := [1, 2, 3, 4, 5, 6, 7, 0x18]
/-- Scalar types of Table 4.2's first four rows (R60). -/
def tScalar : List Nat := [1, 2, 3, 4, 5, 6, 7, 8, 9, 0x0A, 0x0B, 0x18]
/-- Codes 0x01 to 0x18. -/
def tAny : List Nat := (List.range 0x18).map (· + 1)
def tFloat : List Nat := [8, 9, 0x0A, 0x0B]
def tAmo : List Nat := [5, 6, 7, 0x18]
/-- MX and lb type codes. -/
def tBlock : List Nat := [0x0E, 0x0F, 0x10, 0x11, 0x12, 0x13, 0x14, 0x15, 0x16]

/-- A form with no modifier. -/
def base (d a b : Shape → List Kind) : Row :=
  { dK := d, aK := a, bK := b, dSrc := fun _ => false, aDst := false, ty := .unused,
    modes := [], modesReserved := [], scopes := [], orders := [], extra := fun _ => none }

def src (r : Row) : Row := { r with dSrc := fun _ => true }
def opt (r : Row) (c : List Nat) : Row := { r with ty := .optional c }
def req (r : Row) (c : List Nat) : Row := { r with ty := .required c }
/-- The overflow sense of the mode field (R107). -/
def ovf (r : Row) : Row := { r with modes := [0, 1], modesReserved := [2, 3, 4, 5, 6, 7] }
/-- The rounding sense without stochastic rounding (R126). -/
def rnd (r : Row) : Row := { r with modes := [0, 1, 2, 3, 4, 5], modesReserved := [7] }
/-- The condition sense for integers (R113). -/
def cond (r : Row) : Row := { r with modes := [0, 1, 2, 3, 4, 5] }
def chk (r : Row) (f : Ops → Option Nat) : Row := { r with extra := f }

/-- A field-D failure when a condition does not hold. -/
def needD (ok : Bool) : Option Nat := if ok then none else some 0

/-! Common instructions, Table 4.1. -/

def nop : Row := base k0 k0 k0

/-- Class of a mov operand: 1 for s, 2 for v, 3 for p (R59). -/
def movClass : Kind → Nat → Nat
  | .p, _ => 3
  | .v, _ => 2
  | .q, n => if n < 12 then 1 else 2
  | _, _ => 1

def movA (sh : Shape) : List Kind :=
  match movClass sh.dKind sh.dNum with
  | 3 => [.p]
  | 2 => [.v, .q]
  | _ => [.s, .q]

def mov : Row :=
  { base (fun _ => [.s, .v, .p, .q]) movA k0 with
    extra := fun o => match o.d, o.a with
      | .q m, .q n => if (m.val < 12) = (n.val < 12) then none else some 1
      | .s _ _, .q n => if n.val < 12 then none else some 1
      | .v _ _, .q n => if n.val < 12 then some 1 else none
      | _, _ => none }

def movi : Row := base kS kI k0
/-- Extent slots beyond 63 fail step 7b (R33). -/
def slotOk : Operand → Bool
  | .imm x => decide (0 ≤ x.toInt ∧ x.toInt ≤ 63)
  | _ => true
def mkptr : Row := (base kS kSI kSI).chk fun o => if slotOk o.a then none else some 1
def ptrx : Row := (base kS kS kSI).opt tScalar
def jump : Row := (base kS k0 k0).src
def wide0 : Row := base k0 k0 k0
def ldiw : Row := base kS k0 k0
def loop : Row := (base kSI k0 k0).src

/-- Order and scope are allowed only together (R59). -/
def orderScope (o : Ops) : Option Nat := needD ((o.mods.order = .none) = (o.mods.scope = .none))
def scopesAll : List Scope := [.none, .fir, .core, .sq, .die, .dev, .sys]
def ld : Row :=
  { (base kS kS kSI).req tScalar with scopes := scopesAll, orders := [.none, .acq], extra := orderScope }
def st : Row :=
  { ((base kS kSI kS).req tScalar).src with scopes := scopesAll, orders := [.none, .rel], extra := orderScope }
def ldl : Row := (base kS kS kSI).req tScalar
def stl : Row := ((base kS kSI kS).req tScalar).src
def ldv : Row :=
  { (base kV kS kSI).opt tAny with scopes := scopesAll, orders := [.none, .acq], extra := orderScope }
def stv : Row :=
  { ((base kS kSI kV).opt tAny).src with scopes := scopesAll, orders := [.none, .rel], extra := orderScope }
def ldlv : Row := (base kV kS kSI).opt tAny
def stlv : Row := ((base kS kSI kV).opt tAny).src

/-! Scalar integer and predicate, Table 6.1. -/

def alu3o : Row := ((base kS kS kSI).opt tInt).ovf
def alu3 : Row := (base kS kS kSI).opt tInt
def alu2o : Row := ((base kS kS k0).opt tInt).ovf
def alu2 : Row := (base kS kS k0).opt tInt
def logic3 : Row := base kS kS kSI
def logic2 : Row := base kS kS k0
def popc : Row :=
  ((base kS (fun _ => [.s, .q, .p]) k0).opt tInt).chk fun o => match o.a, o.mods.ty with
    | .p _ _, some _ => some 0
    | _, _ => none
def bfx : Row := (base kS kS kSI).opt [7, 0x18]
def bfi : Row := (base kS kS kSI).src
def sext : Row := (base kS kS k0).req [1, 3, 5]
def zext : Row := (base kS kS k0).req [2, 4, 6]
def cmp : Row := ((base kP kS kSI).req tInt).cond
def pred3 : Row := base kP kP kP
def pred2 : Row := base kP kP k0

/-! Vector integer and lane, Table 6.3. -/

def v3o : Row := ((base kV kV kVSI).opt tInt).ovf
def v3 : Row := (base kV kV kVSI).opt tInt
def vmad : Row := v3o.src
def v2o : Row := ((base kV kV k0).opt tInt).ovf
def v2 : Row := (base kV kV k0).opt tInt
def vlogic3 : Row := base kV kV kVSI
def vlogic2 : Row := base kV kV k0
def vcmp : Row := ((base kP kV kVSI).opt tInt).cond
def vsel : Row := ((base kV kV kVSI).opt tAny).src
def vaddsub : Row := (((base kV kV kV).opt tInt).ovf).src
def vdot4 : Row := (((base kV kV kV).opt tAmo).ovf).src
def vred : Row := ((base kS kV kI).opt tInt).ovf
def vbcast : Row := (base kV kSI k0).opt tAny
def vperm : Row := base kV kV kV
def vslide : Row := base kV kV kSI
def vextr : Row := base kS kV kSI
def vins : Row := (base kV kS kSI).src
def vcompress : Row := base kV kV kP
def vtrit : Row := base kV kV kI

/-! Conversions, Table 5.10, and vector float, Table 6.5. -/

def vcvt : Row := ((base kV kV k0).req [1, 2, 3, 4, 5, 6, 7, 8, 9, 0x0A, 0x0B, 0x0C, 0x0D, 0x18]).rnd
/-- A register group's first number (R97): a v register whose number the group size divides. -/
def group (n : Nat) : Operand → Bool
  | .v r _ => r.val % n == 0
  | _ => false
def isBlock (ty : Option Tag) : Bool := match ty with
  | some t => tBlock.contains t.code
  | none => false
def vpack : Row :=
  { base kV kV (fun sh => if tBlock.contains sh.ty then [.none] else [.imm]) with
    ty := .required ((List.range 0x16).map (· + 1) ++ [0x18])
    modes := [0, 1, 2, 3, 4, 5, 6], modesReserved := [7]
    extra := fun o =>
      if isBlock o.mods.ty then
        if !group 2 o.d then some 0 else if !group 4 o.a then some 1 else none
      else none }
/-- DESIGN CHOICE (log 49). A mode code of 001 to 110 on `vunpk`, `vscale` or `vtag`, which Table 5.10 and R97 list with "000
only", is refused as a field not used (step 7a, 0x03); the spec does not say whether it is one, or a code not accepted
(step 7b). -/
def vunpk : Row := (base kV kV kI).req [3, 4, 5, 6, 7, 8, 9, 0x0A, 0x0B, 0x18]
def vscale : Row := ((base kV kV kV).req [0x0A]).chk fun o => needD (group 4 o.d)
def vtag : Row := (base kV kV k0).opt tAny

def vf3 : Row := ((base kV kV kVS).opt tFloat).rnd
def vffma : Row := vf3.src
def vf3n : Row := (base kV kV kVS).opt tFloat
def vf2n : Row := (base kV kV k0).opt tFloat
def vf2 : Row := ((base kV kV k0).opt tFloat).rnd
def vfcmp : Row := { (base kP kV kVS).opt tFloat with modes := [0, 1, 2, 3, 4, 5, 6, 7] }
def vfred : Row := ((base kS kV kI).opt tFloat).rnd

/-! Matrix, Table 7.3. -/

def tile1 : Row := base kT k0 k0
def tfill : Row := (base kT kS kSI).opt [1, 2, 8, 9, 0x0C, 0x0D, 0x0E, 0x0F, 0x10, 0x11, 0x12, 0x13, 0x14, 0x15, 0x16, 0x17]
def tdrain : Row := (base kS kSI kT).src
def mma : Row := base kT kT kT
def mcmd : Row := (base kS kS k0).src
def mcap : Row := base kS kSI kI
def tmov : Row :=
  (((base kT kT (fun _ => [.none, .imm])).opt [1, 8, 9, 0x0C, 0x0D]).rnd).chk fun o =>
    needD (o.mods.ty.isSome || o.mods.mode == 0)
def ttr : Row := base kT kT k0
def ttrit : Row := base kT kT kI
def tscale : Row := base kT kS kSI
def mstat : Row := base kS (fun _ => [.tile, .imm]) k0
def mwait : Row := base (fun _ => [.none, .tile]) k0 k0

/-! Atomics, fences, porters, publication, remote: Tables 10.1, 10.5, 10.11. -/

def amoCheck (o : Ops) : Option Nat :=
  needD ((o.mods.order = .none ∨ o.mods.mode = 0) ∧ (o.mods.order = .none ∨ o.mods.scope ≠ .none))
/-- An atomic whose field D follows its use (R205). -/
def amoU (tys : List Nat) (b : Shape → List Kind) : Row :=
  { base (fun sh => if sh.mode = 2 then [.none] else [.s]) kS b with
    ty := .required tys, modes := [0, 1, 2, 3, 4, 5], modesReserved := [6, 7]
    dSrc := fun sh => sh.mode == 4
    scopes := scopesAll, orders := [.none, .acq, .rel, .ar], extra := amoCheck }
def amo : Row := amoU tAmo kSI
def amoFadd : Row := amoU [0x0A, 0x0B] kS
/-- Swap and inc take no .com and no .qnt (R205). -/
def amoX : Row :=
  { amo with
    dK := kS, dSrc := fun _ => false
    extra := fun o => if o.mods.mode = 2 ∨ o.mods.mode = 4 then some 0 else amoCheck o }
def amoCas : Row := amoX.src
def fence : Row :=
  { base k0 k0 k0 with scopes := [.fir, .core, .sq, .die, .dev, .sys] }
def fenceEng : Row := { base k0 kI k0 with scopes := scopesAll }
def pappend : Row := base kI kS k0
def pgo : Row := base kI k0 k0
def pseq : Row := { base kI kS k0 with aDst := true }
def qpub : Row := { (base kS1 (fun _ => [.imm, .s]) kS1).src with scopes := [.dev, .sys] }
def rld : Row := ((base kS kS k0).req tScalar).src
def rst : Row := ((base kS kS kSI).req tScalar).src
def ramo : Row := ((base kS kS kSI).req [5, 6, 7, 0x18, 0x0A, 0x0B]).src
def amsg : Row := (base kS kS kS).src
def red : Row := ((base kS kVS kI).req [5, 6, 7, 0x18, 0x0A, 0x0B]).src

/-! Control, mailbox, task, phaser, event: Table 14.1. -/

def lexit : Row := base (fun _ => [.none, .imm]) k0 k0
def send : Row := (base kS kS1 k0).src
def recv : Row := base kS1 kI k0
def pop : Row := base kS1 kSI k0
def push : Row := base kS kS1 kSI
def qclose : Row := (base kSI k0 k0).src
def sS : Row := base kS kS k0
def sSS : Row := base kS kS kS
def phReg : Row := base kS kSI kI
def srcD : Row := (base kS k0 k0).src
def phTwait : Row := base kS kS kSI
def qstat : Row := base kS kSI k0
def evarm : Row := base kI kSI k0
def evcfg : Row := base kI kS k0
def stage : Row := base kS kI kS

/-! Capsule, extent, lease, system, trap: Tables 18.1, 21.4. -/

def xderive : Row := (base kI kS kS).chk fun o => needD (slotOk o.d)
def xinfo : Row := (base kS kSI kI).chk fun o => if slotOk o.a then none else some 1
def lease : Row := base kS kSI kS
def sysrd : Row := base kS (fun _ => [.special, .imm]) k0
def syswr : Row := base (fun _ => [.special, .imm]) kSI k0
def attest : Row := (base kS kS kS).src
def fltrd : Row := base kS kI k0
def ckpt : Row := (base kS1 k0 k0).src
def poisck : Row := base kS1 (fun _ => [.s, .v, .p, .tile]) k0
def sigacc : Row := base (fun _ => [.none, .s, .q]) (fun _ => [.s, .v]) k0

end Row
end Sys2Proof
end

