-- ==== Sys2Proof/WellFormed.lean ====
section
/-!
DEFINITION. When the decoded fields of an instruction are ones its form allows: the checks of steps 6, 7a and 7b of
Table 3.10, said of the typed fields.
-/
namespace Sys2Proof

def Operand.kind : Operand → Kind
  | .none => .none
  | .s _ _ => .s
  | .v _ _ => .v
  | .p _ _ => .p
  | .tile _ => .tile
  | .q _ => .q
  | .special _ => .special
  | .imm _ => .imm

/-- The register number a field's value bits [5:0] hold. -/
def Operand.num : Operand → Nat
  | .s n _ => n.val
  | .v n _ => n.val
  | .p n _ => n.val
  | .tile n => n.val
  | .q n => n.val
  | .special n => n.val
  | _ => 0

def Operand.last : Operand → Bool
  | .s _ l => l
  | .v _ l => l
  | .p _ l => l
  | _ => false

/-- The code of the type modifier, 0 for none (Table 3.5). -/
def Mods.tyCode (m : Mods) : Nat :=
  match m.ty with
  | none => 0
  | some t => t.code

def Ops.shape (o : Ops) : Shape :=
  { dKind := o.d.kind, dNum := o.d.num, ty := o.mods.tyCode, mode := o.mods.mode.val }

/-- No modifier written. -/
def Mods.plain : Mods := { ty := none, scope := .none, mode := 0, order := .none }

namespace Row

/-- Step 6: each field's kind is one its instruction accepts; the first that is not. -/
def kindFail (r : Row) (sh : Shape) (a b : Kind) : Option Nat :=
  if !(r.dK sh).contains sh.dKind then some 0
  else if !(r.aK sh).contains a then some 1
  else if !(r.bK sh).contains b then some 2
  else none

/-- Step 7b for a queue register: q0 to q11 stand only for a scalar, q12 to q15 only for a vector (R49). -/
def queueOk (ks : List Kind) : Operand → Bool
  | .q n => if n.val < 12 then ks.contains .s else ks.contains .v
  | _ => true

def tyFail (r : Row) (m : Mods) : Bool :=
  match r.ty with
  | .unused => false
  | .optional c => !(m.tyCode == 0 || c.contains m.tyCode)
  | .required c => !c.contains m.tyCode

/-- Step 7b: register classes, modifier codes defined but not accepted, the instruction's own form (R97, R205). -/
def fail7b (r : Row) (o : Ops) : Option Nat :=
  let sh := o.shape
  if !queueOk (r.dK sh) o.d then some 0
  else if o.d.kind != .imm && (r.tyFail o.mods
      || !(r.modes.isEmpty || r.modes.contains o.mods.mode.val || r.modesReserved.contains o.mods.mode.val)
      || !(r.scopes.isEmpty || r.scopes.contains o.mods.scope)
      || !(r.orders.isEmpty || r.orders.contains o.mods.order)) then some 0
  else if !queueOk (r.aK sh) o.a then some 1
  else if !queueOk (r.bK sh) o.b then some 2
  else r.extra o

/-- Step 7a of the typed fields: unused modifier fields are zero, no reserved mode code stands, and a last-use bit
stands only on a source register (R43). -/
def fieldsOk (r : Row) (o : Ops) : Bool :=
  (r.ty != .unused || o.mods.ty == none)
    && (if r.modes.isEmpty then o.mods.mode == 0 else !r.modesReserved.contains o.mods.mode.val)
    && (!r.scopes.isEmpty || o.mods.scope == .none)
    && (!r.orders.isEmpty || o.mods.order == .none)
    && (!o.d.last || r.dSrc o.shape)
    && (!o.a.last || !r.aDst)
    && (o.d.kind != .imm || o.mods == Mods.plain)
    && (match o.mods.ty with | some t => t != .freed && t != .poison && t != .raw | none => true)

/-- The fields are ones the form allows. -/
def wellFormed (r : Row) (o : Ops) : Bool :=
  (r.kindFail o.shape o.a.kind o.b.kind).isNone && r.fieldsOk o && (r.fail7b o).isNone

/-- A wide form's field D is one the form allows (R38). -/
def wideOk (r : Row) (o : Wide) : Bool :=
  let sh : Shape := { dKind := o.d.kind, dNum := o.d.num, ty := 0, mode := 0 }
  (r.dK sh).contains o.d.kind && queueOk (r.dK sh) o.d && (!o.d.last || r.dSrc sh)

end Row
end Sys2Proof
end

