-- ==== Sys2Proof/Decode.lean ====
section
/-!
DEFINITION. Decoding: steps 3 to 7 of Table 3.10 as one total function from a 96-bit word to an instruction or a
rejection by name, and the encoder written from the same tables (Tables 3.1, 3.3, 3.4, 3.5, R38).
-/
namespace Sys2Proof

/-- Why a word is no instruction: steps 3 to 7b of Table 3.10, with the detail Table 21.1 gives each fault. -/
inductive DecodeFault where
  /-- fewer than 12 bytes -/
  | short
  /-- step 3 -/
  | zeroWord
  /-- step 5 -/
  | illegalOpcode
  /-- step 4: the pool marker -/
  | dataWord
  /-- steps 6 and 7b: 0 for field D, 1 for A, 2 for B -/
  | operandKind (field : Nat)
  /-- step 7a: the lowest failing word bit -/
  | reservedField (bit : Nat)
  deriving DecidableEq, Repr

/-- The form of each assigned opcode (Table 3.9). -/
def rowOf : Nat → Option Row
  | 0x001 => some Row.nop
  | 0x002 => some Row.mov
  | 0x003 => some Row.movi
  | 0x004 => some Row.ldiw
  | 0x005 => some Row.mkptr
  | 0x006 => some Row.ptrx
  | 0x007 => some Row.wide0
  | 0x008 => some Row.jump
  | 0x009 => some Row.wide0
  | 0x00A => some Row.jump
  | 0x00B => some Row.nop
  | 0x00C => some Row.nop
  | 0x00D => some Row.loop
  | 0x00E => some Row.lexit
  | 0x080 => some Row.alu3o
  | 0x081 => some Row.alu3o
  | 0x082 => some Row.alu3
  | 0x083 => some Row.alu3
  | 0x084 => some Row.alu3o
  | 0x085 => some Row.alu3
  | 0x086 => some Row.alu3
  | 0x087 => some Row.alu3
  | 0x088 => some Row.alu2o
  | 0x089 => some Row.alu2o
  | 0x08A => some Row.alu3
  | 0x08B => some Row.alu3
  | 0x08C => some Row.logic3
  | 0x08D => some Row.logic3
  | 0x08E => some Row.logic3
  | 0x08F => some Row.logic3
  | 0x090 => some Row.logic2
  | 0x091 => some Row.alu3
  | 0x092 => some Row.alu3
  | 0x093 => some Row.alu3
  | 0x094 => some Row.alu3
  | 0x095 => some Row.alu3
  | 0x096 => some Row.alu2
  | 0x097 => some Row.alu2
  | 0x098 => some Row.popc
  | 0x099 => some Row.bfx
  | 0x09A => some Row.bfi
  | 0x09B => some Row.sext
  | 0x09C => some Row.zext
  | 0x09D => some Row.cmp
  | 0x09E => some Row.bfi
  | 0x09F => some Row.pred3
  | 0x0A0 => some Row.pred3
  | 0x0A1 => some Row.pred3
  | 0x0A2 => some Row.pred2
  | 0x100 => some Row.v3o
  | 0x101 => some Row.v3o
  | 0x102 => some Row.v3o
  | 0x103 => some Row.v3
  | 0x104 => some Row.vmad
  | 0x105 => some Row.v3
  | 0x106 => some Row.v3
  | 0x107 => some Row.v2o
  | 0x108 => some Row.v2o
  | 0x109 => some Row.vlogic3
  | 0x10A => some Row.vlogic3
  | 0x10B => some Row.vlogic3
  | 0x10C => some Row.vlogic2
  | 0x10D => some Row.v3
  | 0x10E => some Row.v3
  | 0x10F => some Row.v3
  | 0x110 => some Row.vcmp
  | 0x111 => some Row.vsel
  | 0x112 => some Row.vaddsub
  | 0x113 => some Row.vdot4
  | 0x114 => some Row.vred
  | 0x115 => some Row.v2
  | 0x116 => some Row.v2
  | 0x120 => some Row.vbcast
  | 0x121 => some Row.vperm
  | 0x122 => some Row.vslide
  | 0x123 => some Row.vextr
  | 0x124 => some Row.vins
  | 0x125 => some Row.vcompress
  | 0x126 => some Row.vcompress
  | 0x127 => some Row.vtrit
  | 0x140 => some Row.vcvt
  | 0x141 => some Row.vpack
  | 0x142 => some Row.vunpk
  | 0x143 => some Row.vscale
  | 0x144 => some Row.vtag
  | 0x180 => some Row.vf3
  | 0x181 => some Row.vf3
  | 0x182 => some Row.vf3
  | 0x183 => some Row.vffma
  | 0x184 => some Row.vf3n
  | 0x185 => some Row.vf3n
  | 0x186 => some Row.vf2n
  | 0x187 => some Row.vf2n
  | 0x188 => some Row.vf3
  | 0x189 => some Row.vf2
  | 0x18A => some Row.vf2
  | 0x18B => some Row.vf2
  | 0x18C => some Row.vf2
  | 0x18D => some Row.vf2
  | 0x18E => some Row.vfcmp
  | 0x18F => some Row.vfred
  | 0x190 => some Row.vf2n
  | 0x191 => some Row.vfred
  | 0x200 => some Row.tile1
  | 0x201 => some Row.tile1
  | 0x202 => some Row.tfill
  | 0x203 => some Row.tdrain
  | 0x204 => some Row.tile1
  | 0x205 => some Row.mma
  | 0x206 => some Row.mma
  | 0x207 => some Row.mcmd
  | 0x208 => some Row.mcap
  | 0x209 => some Row.tmov
  | 0x20A => some Row.ttr
  | 0x20B => some Row.ttrit
  | 0x20C => some Row.tscale
  | 0x20D => some Row.mstat
  | 0x20E => some Row.mwait
  | 0x240 => some Row.ld
  | 0x241 => some Row.st
  | 0x242 => some Row.ldl
  | 0x243 => some Row.stl
  | 0x244 => some Row.ldv
  | 0x245 => some Row.stv
  | 0x246 => some Row.ldlv
  | 0x247 => some Row.stlv
  | 0x280 => some Row.amo
  | 0x281 => some Row.amo
  | 0x282 => some Row.amo
  | 0x283 => some Row.amo
  | 0x284 => some Row.amo
  | 0x285 => some Row.amo
  | 0x286 => some Row.amoX
  | 0x287 => some Row.amoCas
  | 0x288 => some Row.amoFadd
  | 0x289 => some Row.amoX
  | 0x290 => some Row.fence
  | 0x291 => some Row.fenceEng
  | 0x298 => some Row.pappend
  | 0x299 => some Row.pgo
  | 0x29A => some Row.pseq
  | 0x29B => some Row.pappend
  | 0x2A0 => some Row.qpub
  | 0x2C0 => some Row.rld
  | 0x2C1 => some Row.rst
  | 0x2C2 => some Row.ramo
  | 0x2C3 => some Row.amsg
  | 0x2C4 => some Row.amsg
  | 0x2C5 => some Row.red
  | 0x2C6 => some Row.amsg
  | 0x300 => some Row.send
  | 0x301 => some Row.recv
  | 0x302 => some Row.recv
  | 0x303 => some Row.pop
  | 0x304 => some Row.pop
  | 0x305 => some Row.push
  | 0x306 => some Row.qclose
  | 0x307 => some Row.sS
  | 0x308 => some Row.sSS
  | 0x309 => some Row.sS
  | 0x310 => some Row.phReg
  | 0x311 => some Row.srcD
  | 0x312 => some Row.srcD
  | 0x313 => some Row.srcD
  | 0x314 => some Row.srcD
  | 0x315 => some Row.phTwait
  | 0x316 => some Row.sS
  | 0x318 => some Row.qstat
  | 0x320 => some Row.evcfg
  | 0x321 => some Row.evarm
  | 0x322 => some Row.pgo
  | 0x328 => some Row.stage
  | 0x329 => some Row.qstat
  | 0x340 => some Row.sSS
  | 0x341 => some Row.xderive
  | 0x342 => some Row.xinfo
  | 0x343 => some Row.sS
  | 0x348 => some Row.lease
  | 0x349 => some Row.sS
  | 0x34A => some Row.sS
  | 0x350 => some Row.sysrd
  | 0x351 => some Row.syswr
  | 0x352 => some Row.attest
  | 0x360 => some Row.pgo
  | 0x361 => some Row.pgo
  | 0x362 => some Row.fltrd
  | 0x363 => some Row.qstat
  | 0x364 => some Row.ckpt
  | 0x365 => some Row.poisck
  | 0x366 => some Row.sigacc
  | _ => none

/-- The instruction of an opcode that is not a wide form. The `mcap` word with immediate 1 in field B revokes (R164);
`syswr` of selectors 0x20 and 0x22 speaks to the Parser (R345). -/
def mkOps (op : Nat) (o : Ops) : Option Instr :=
  match op with
  | 0x001 => some (.nop o)
  | 0x002 => some (.mov o)
  | 0x003 => some (.movi o)
  | 0x005 => some (.mkptr o)
  | 0x006 => some (.ptrx o)
  | 0x008 => some (.jr o)
  | 0x00A => some (.callr o)
  | 0x00B => some (.ret o)
  | 0x00C => some (.done o)
  | 0x00E => some (.lexit o)
  | 0x080 => some (.add o)
  | 0x081 => some (.sub o)
  | 0x082 => some (.addc o)
  | 0x083 => some (.subb o)
  | 0x084 => some (.mul o)
  | 0x085 => some (.mulh o)
  | 0x086 => some (.div o)
  | 0x087 => some (.rem o)
  | 0x088 => some (.neg o)
  | 0x089 => some (.abs o)
  | 0x08A => some (.min o)
  | 0x08B => some (.max o)
  | 0x08C => some (.andB o)
  | 0x08D => some (.orB o)
  | 0x08E => some (.xorB o)
  | 0x08F => some (.andn o)
  | 0x090 => some (.notB o)
  | 0x091 => some (.shl o)
  | 0x092 => some (.shr o)
  | 0x093 => some (.sar o)
  | 0x094 => some (.rol o)
  | 0x095 => some (.ror o)
  | 0x096 => some (.clz o)
  | 0x097 => some (.ctz o)
  | 0x098 => some (.popc o)
  | 0x099 => some (.bfx o)
  | 0x09A => some (.bfi o)
  | 0x09B => some (.sext o)
  | 0x09C => some (.zext o)
  | 0x09D => some (.cmp o)
  | 0x09E => some (.sel o)
  | 0x09F => some (.pand o)
  | 0x0A0 => some (.por o)
  | 0x0A1 => some (.pxor o)
  | 0x0A2 => some (.pnot o)
  | 0x100 => some (.vadd o)
  | 0x101 => some (.vsub o)
  | 0x102 => some (.vmul o)
  | 0x103 => some (.vmulh o)
  | 0x104 => some (.vmad o)
  | 0x105 => some (.vmin o)
  | 0x106 => some (.vmax o)
  | 0x107 => some (.vabs o)
  | 0x108 => some (.vneg o)
  | 0x109 => some (.vand o)
  | 0x10A => some (.vor o)
  | 0x10B => some (.vxor o)
  | 0x10C => some (.vnot o)
  | 0x10D => some (.vshl o)
  | 0x10E => some (.vshr o)
  | 0x10F => some (.vsar o)
  | 0x110 => some (.vcmp o)
  | 0x111 => some (.vsel o)
  | 0x112 => some (.vaddsub o)
  | 0x113 => some (.vdot4 o)
  | 0x114 => some (.vred o)
  | 0x115 => some (.vpopc o)
  | 0x116 => some (.vclz o)
  | 0x120 => some (.vbcast o)
  | 0x121 => some (.vperm o)
  | 0x122 => some (.vslide o)
  | 0x123 => some (.vextr o)
  | 0x124 => some (.vins o)
  | 0x125 => some (.vcompress o)
  | 0x126 => some (.vexpand o)
  | 0x127 => some (.vtrit o)
  | 0x140 => some (.vcvt o)
  | 0x141 => some (.vpack o)
  | 0x142 => some (.vunpk o)
  | 0x143 => some (.vscale o)
  | 0x144 => some (.vtag o)
  | 0x180 => some (.vfadd o)
  | 0x181 => some (.vfsub o)
  | 0x182 => some (.vfmul o)
  | 0x183 => some (.vffma o)
  | 0x184 => some (.vfmin o)
  | 0x185 => some (.vfmax o)
  | 0x186 => some (.vfabs o)
  | 0x187 => some (.vfneg o)
  | 0x188 => some (.vfdiv o)
  | 0x189 => some (.vfsqrt o)
  | 0x18A => some (.vfrcp o)
  | 0x18B => some (.vfrsq o)
  | 0x18C => some (.vfexp2 o)
  | 0x18D => some (.vflog2 o)
  | 0x18E => some (.vfcmp o)
  | 0x18F => some (.vfred o)
  | 0x190 => some (.vfclass o)
  | 0x191 => some (.vfredSeq o)
  | 0x200 => some (.tclaim o)
  | 0x201 => some (.trel o)
  | 0x202 => some (.tfill o)
  | 0x203 => some (.tdrain o)
  | 0x204 => some (.tzero o)
  | 0x205 => some (.mma o)
  | 0x206 => some (.mmaj o)
  | 0x207 => some (.mcmd o)
  | 0x208 => some (if o.b = .imm 1 then .mcapRevoke o else .mcapMint o)
  | 0x209 => some (.tmov o)
  | 0x20A => some (.ttr o)
  | 0x20B => some (.ttrit o)
  | 0x20C => some (.tscale o)
  | 0x20D => some (.mstat o)
  | 0x20E => some (.mwait o)
  | 0x240 => some (.ld o)
  | 0x241 => some (.st o)
  | 0x242 => some (.ldl o)
  | 0x243 => some (.stl o)
  | 0x244 => some (.ldv o)
  | 0x245 => some (.stv o)
  | 0x246 => some (.ldlv o)
  | 0x247 => some (.stlv o)
  | 0x280 => some (.amoAdd o)
  | 0x281 => some (.amoAnd o)
  | 0x282 => some (.amoOr o)
  | 0x283 => some (.amoXor o)
  | 0x284 => some (.amoMin o)
  | 0x285 => some (.amoMax o)
  | 0x286 => some (.amoSwap o)
  | 0x287 => some (.amoCas o)
  | 0x288 => some (.amoFadd o)
  | 0x289 => some (.amoInc o)
  | 0x290 => some (.fence o)
  | 0x291 => some (.fenceEng o)
  | 0x298 => some (.pappend o)
  | 0x299 => some (.pgo o)
  | 0x29A => some (.pseq o)
  | 0x29B => some (.pdeal o)
  | 0x2A0 => some (.qpub o)
  | 0x2C0 => some (.rld o)
  | 0x2C1 => some (.rst o)
  | 0x2C2 => some (.ramo o)
  | 0x2C3 => some (.amsg o)
  | 0x2C4 => some (.amsgc o)
  | 0x2C5 => some (.red o)
  | 0x2C6 => some (.rcopy o)
  | 0x300 => some (.send o)
  | 0x301 => some (.recv o)
  | 0x302 => some (.recvW o)
  | 0x303 => some (.pop o)
  | 0x304 => some (.popW o)
  | 0x305 => some (.push o)
  | 0x306 => some (.qclose o)
  | 0x307 => some (.fork o)
  | 0x308 => some (.join o)
  | 0x309 => some (.spawn o)
  | 0x310 => some (.phReg o)
  | 0x311 => some (.phDrop o)
  | 0x312 => some (.phSig o)
  | 0x313 => some (.phWait o)
  | 0x314 => some (.phSw o)
  | 0x315 => some (.phTwait o)
  | 0x316 => some (.phStat o)
  | 0x318 => some (.qstat o)
  | 0x320 => some (.evcfg o)
  | 0x321 => some (.evarm o)
  | 0x322 => some (.evpulse o)
  | 0x328 => some (.stage o)
  | 0x329 => some (.budget o)
  | 0x340 => some (.cemit o)
  | 0x341 => some (.xderive o)
  | 0x342 => some (.xinfo o)
  | 0x343 => some (.xgrow o)
  | 0x348 => some (.lease o)
  | 0x349 => some (.lrel o)
  | 0x34A => some (.lstat o)
  | 0x350 => some (.sysrd o)
  | 0x351 => some (if o.d = .imm 0x20 then .syswrRegisterQueue o else if o.d = .imm 0x22 then .syswrUnregisterQueue o else .syswr o)
  | 0x352 => some (.attest o)
  | 0x360 => some (.trap o)
  | 0x361 => some (.tret o)
  | 0x362 => some (.fltrd o)
  | 0x363 => some (.fltack o)
  | 0x364 => some (.ckpt o)
  | 0x365 => some (.poisck o)
  | 0x366 => some (.sigacc o)
  | _ => none

/-- The instruction of a wide form's opcode (R38). -/
def mkWide (op : Nat) (o : Wide) : Option Instr :=
  match op with
  | 0x004 => some (.ldiw o)
  | 0x007 => some (.br o)
  | 0x009 => some (.call o)
  | 0x00D => some (.loop o)
  | _ => none

/-- The opcodes of the wide forms (R38). -/
def isWideOp (op : Nat) : Bool := op == 0x004 || op == 0x007 || op == 0x009 || op == 0x00D

/-- Operand kind of a field's bits [22:20] (Table 3.4). -/
def kindOf : Nat → Kind
  | 0 => .none
  | 1 => .s
  | 2 => .v
  | 3 => .p
  | 4 => .tile
  | 5 => .q
  | 6 => .special
  | _ => .imm

def kindCode : Kind → Nat
  | .none => 0
  | .s => 1
  | .v => 2
  | .p => 3
  | .tile => 4
  | .q => 5
  | .special => 6
  | .imm => 7

/-- The operand of a 23-bit field; nothing where the number lies beyond its file (Table 3.4). -/
def operandOf (f : Nat) : Option Operand :=
  let n := bits f 0 6
  let last := bit f 19
  match kindOf (bits f 20 3) with
  | .none => some .none
  | .s => some (.s (Fin.ofNat 64 n) last)
  | .v => some (.v (Fin.ofNat 64 n) last)
  | .p => if n < 16 then some (.p (Fin.ofNat 16 n) last) else none
  | .tile => if n < 24 then some (.tile (Fin.ofNat 24 n)) else none
  | .q => if n < 16 then some (.q (Fin.ofNat 16 n)) else none
  | .special => if n < 15 then some (.special (Fin.ofNat 15 n)) else none
  | .imm => some (.imm (BitVec.ofNat 20 f))

def scopeOf : Nat → Option Scope
  | 0 => some .none
  | 1 => some .fir
  | 2 => some .core
  | 3 => some .sq
  | 4 => some .die
  | 5 => some .dev
  | 6 => some .sys
  | _ => none

def scopeCode : Scope → Nat
  | .none => 0
  | .fir => 1
  | .core => 2
  | .sq => 3
  | .die => 4
  | .dev => 5
  | .sys => 6

def orderOf : Nat → Order
  | 0 => .none
  | 1 => .acq
  | 2 => .rel
  | _ => .ar

def orderCode : Order → Nat
  | .none => 0
  | .acq => 1
  | .rel => 2
  | .ar => 3

/-- The guard and hint bits (Table 3.1). -/
def hdrOf (w : Nat) : Hdr :=
  { neg := bit w 85, guard := Fin.ofNat 16 (bits w 81 4), delay := Fin.ofNat 16 (bits w 77 4),
    yield := bit w 76, likely := bit w 75, cache := Fin.ofNat 4 (bits w 73 2) }

/-- The modifiers of field D's bits (Table 3.5); none stand beside an immediate (R34). A reserved type or scope code
reads as none here: step 7a has refused it. -/
def modsOf (d : Nat) : Mods :=
  if kindOf (bits d 20 3) = .imm then Mods.plain
  else
    { ty := if bits d 14 5 = 0 then none else Tag.ofCode (bits d 14 5)
      scope := (scopeOf (bits d 11 3)).getD .none
      mode := Fin.ofNat 8 (bits d 8 3)
      order := orderOf (bits d 6 2) }

/-- The positions of the one bits among bits [lo+len-1 : lo]. -/
def oneBits (x lo len : Nat) : List Nat :=
  (List.range len).filterMap fun i => if bit x (lo + i) then some (lo + i) else none

/-- Step 7a of one field at word bit `base`: value bits that must be zero and a misplaced last-use bit. -/
def fieldBad (base f : Nat) (isD src : Bool) : List Nat :=
  let hi := if isD then [] else oneBits f 6 13
  (match kindOf (bits f 20 3) with
    | .imm => []
    | .none => oneBits f 0 6 ++ hi ++ oneBits f 19 1
    | .s | .v | .p => hi ++ (if src then [] else oneBits f 19 1)
    | .tile | .q | .special => hi ++ oneBits f 19 1).map (· + base)

/-- Step 7a of the modifier fields: an unused field's one bits, and the lowest bit of a field with a reserved code. -/
def modsBad (r : Row) (d : Nat) : List Nat :=
  if kindOf (bits d 20 3) = .imm then []
  else
    ((if r.ty = .unused then oneBits d 14 5 else if bits d 14 5 ≥ 0x19 then [14] else [])
      ++ (if r.scopes.isEmpty then oneBits d 11 3 else if bits d 11 3 = 7 then [11] else [])
      ++ (if r.modes.isEmpty then oneBits d 8 3 else if r.modesReserved.contains (bits d 8 3) then [8] else [])
      ++ (if r.orders.isEmpty then oneBits d 6 2 else [])).map (· + 46)

/-- The least number of a list. -/
def leastOf : List Nat → Option Nat
  | [] => none
  | x :: xs => some (xs.foldl min x)

/-- The shape of a word's field D. -/
def shapeOf (d : Nat) : Shape :=
  let imm := kindOf (bits d 20 3) = .imm
  { dKind := kindOf (bits d 20 3), dNum := bits d 0 6
    ty := if imm then 0 else bits d 14 5, mode := if imm then 0 else bits d 8 3 }

/-- Steps 6, 7a and 7b of a word that is not a wide form. -/
def decodeOps (r : Row) (op w : Nat) : Except DecodeFault Instr :=
  let d := bits w 46 23
  let a := bits w 23 23
  let b := bits w 0 23
  let sh := shapeOf d
  match r.kindFail sh (kindOf (bits a 20 3)) (kindOf (bits b 20 3)) with
  | some f => .error (.operandKind f)
  | none =>
    match leastOf (oneBits w 69 4 ++ fieldBad 46 d true (r.dSrc sh) ++ modsBad r d
        ++ fieldBad 23 a false (!r.aDst) ++ fieldBad 0 b false true) with
    | some i => .error (.reservedField i)
    | none =>
      let o : Ops := { hdr := hdrOf w, mods := modsOf d, d := (operandOf d).getD .none
                       a := (operandOf a).getD .none, b := (operandOf b).getD .none }
      match leastOf ((if (operandOf d).isNone then [0] else []) ++ (r.fail7b o).toList
          ++ (if (operandOf a).isNone then [1] else []) ++ (if (operandOf b).isNone then [2] else [])) with
      | some f => .error (.operandKind f)
      | none => match mkOps op o with
        | some i => .ok i
        | none => .error .illegalOpcode

/-- Steps 6 and 7 of a wide form: only field D and the fixed fields are looked at (R52). -/
def decodeWide (r : Row) (op w : Nat) : Except DecodeFault Instr :=
  let d := bits w 46 23
  let sh := shapeOf d
  if !(r.dK sh).contains sh.dKind then .error (.operandKind 0)
  else
    match leastOf (oneBits w 69 4 ++ fieldBad 46 d true (r.dSrc sh) ++ modsBad r d) with
    | some i => .error (.reservedField i)
    | none => match operandOf d with
      | none => .error (.operandKind 0)
      | some x =>
        if !Row.queueOk (r.dK sh) x then .error (.operandKind 0)
        else match mkWide op { hdr := hdrOf w, d := x, imm := BitVec.ofNat 46 w } with
          | some i => .ok i
          | none => .error .illegalOpcode

/-- Steps 3 to 7b of Table 3.10. -/
def decodeWord (w : Nat) : Except DecodeFault Instr :=
  let op := bits w 86 10
  if op = 0 then .error .zeroWord
  else if op = 0x3FF then .error .dataWord
  else match rowOf op with
    | none => .error .illegalOpcode
    | some r => if isWideOp op then decodeWide r op w else decodeOps r op w

/-- Decoding of the bytes at the program counter, little-endian (R27), with the bytes left over. -/
def decode (bs : List Byte) : Except DecodeFault (Instr × List Byte) :=
  if bs.length < 12 then .error .short
  else match decodeWord (ofBytes (bs.take 12)) with
    | .ok i => .ok (i, bs.drop 12)
    | .error e => .error e

/-- What an instruction's word is made of. -/
inductive Form where
  | word (op : Nat) (o : Ops)
  | wide (op : Nat) (o : Wide)
  /-- a step of the machine that no word stands for -/
  | event
  deriving DecidableEq, Repr

def Instr.form : Instr → Form
  | .nop o => .word 0x001 o
  | .mov o => .word 0x002 o
  | .movi o => .word 0x003 o
  | .ldiw o => .wide 0x004 o
  | .mkptr o => .word 0x005 o
  | .ptrx o => .word 0x006 o
  | .br o => .wide 0x007 o
  | .jr o => .word 0x008 o
  | .call o => .wide 0x009 o
  | .callr o => .word 0x00A o
  | .ret o => .word 0x00B o
  | .done o => .word 0x00C o
  | .loop o => .wide 0x00D o
  | .lexit o => .word 0x00E o
  | .add o => .word 0x080 o
  | .sub o => .word 0x081 o
  | .addc o => .word 0x082 o
  | .subb o => .word 0x083 o
  | .mul o => .word 0x084 o
  | .mulh o => .word 0x085 o
  | .div o => .word 0x086 o
  | .rem o => .word 0x087 o
  | .neg o => .word 0x088 o
  | .abs o => .word 0x089 o
  | .min o => .word 0x08A o
  | .max o => .word 0x08B o
  | .andB o => .word 0x08C o
  | .orB o => .word 0x08D o
  | .xorB o => .word 0x08E o
  | .andn o => .word 0x08F o
  | .notB o => .word 0x090 o
  | .shl o => .word 0x091 o
  | .shr o => .word 0x092 o
  | .sar o => .word 0x093 o
  | .rol o => .word 0x094 o
  | .ror o => .word 0x095 o
  | .clz o => .word 0x096 o
  | .ctz o => .word 0x097 o
  | .popc o => .word 0x098 o
  | .bfx o => .word 0x099 o
  | .bfi o => .word 0x09A o
  | .sext o => .word 0x09B o
  | .zext o => .word 0x09C o
  | .cmp o => .word 0x09D o
  | .sel o => .word 0x09E o
  | .pand o => .word 0x09F o
  | .por o => .word 0x0A0 o
  | .pxor o => .word 0x0A1 o
  | .pnot o => .word 0x0A2 o
  | .vadd o => .word 0x100 o
  | .vsub o => .word 0x101 o
  | .vmul o => .word 0x102 o
  | .vmulh o => .word 0x103 o
  | .vmad o => .word 0x104 o
  | .vmin o => .word 0x105 o
  | .vmax o => .word 0x106 o
  | .vabs o => .word 0x107 o
  | .vneg o => .word 0x108 o
  | .vand o => .word 0x109 o
  | .vor o => .word 0x10A o
  | .vxor o => .word 0x10B o
  | .vnot o => .word 0x10C o
  | .vshl o => .word 0x10D o
  | .vshr o => .word 0x10E o
  | .vsar o => .word 0x10F o
  | .vcmp o => .word 0x110 o
  | .vsel o => .word 0x111 o
  | .vaddsub o => .word 0x112 o
  | .vdot4 o => .word 0x113 o
  | .vred o => .word 0x114 o
  | .vpopc o => .word 0x115 o
  | .vclz o => .word 0x116 o
  | .vbcast o => .word 0x120 o
  | .vperm o => .word 0x121 o
  | .vslide o => .word 0x122 o
  | .vextr o => .word 0x123 o
  | .vins o => .word 0x124 o
  | .vcompress o => .word 0x125 o
  | .vexpand o => .word 0x126 o
  | .vtrit o => .word 0x127 o
  | .vcvt o => .word 0x140 o
  | .vpack o => .word 0x141 o
  | .vunpk o => .word 0x142 o
  | .vscale o => .word 0x143 o
  | .vtag o => .word 0x144 o
  | .vfadd o => .word 0x180 o
  | .vfsub o => .word 0x181 o
  | .vfmul o => .word 0x182 o
  | .vffma o => .word 0x183 o
  | .vfmin o => .word 0x184 o
  | .vfmax o => .word 0x185 o
  | .vfabs o => .word 0x186 o
  | .vfneg o => .word 0x187 o
  | .vfdiv o => .word 0x188 o
  | .vfsqrt o => .word 0x189 o
  | .vfrcp o => .word 0x18A o
  | .vfrsq o => .word 0x18B o
  | .vfexp2 o => .word 0x18C o
  | .vflog2 o => .word 0x18D o
  | .vfcmp o => .word 0x18E o
  | .vfred o => .word 0x18F o
  | .vfclass o => .word 0x190 o
  | .vfredSeq o => .word 0x191 o
  | .tclaim o => .word 0x200 o
  | .trel o => .word 0x201 o
  | .tfill o => .word 0x202 o
  | .tdrain o => .word 0x203 o
  | .tzero o => .word 0x204 o
  | .mma o => .word 0x205 o
  | .mmaj o => .word 0x206 o
  | .mcmd o => .word 0x207 o
  | .mcapMint o => .word 0x208 o
  | .mcapRevoke o => .word 0x208 o
  | .tmov o => .word 0x209 o
  | .ttr o => .word 0x20A o
  | .ttrit o => .word 0x20B o
  | .tscale o => .word 0x20C o
  | .mstat o => .word 0x20D o
  | .mwait o => .word 0x20E o
  | .ld o => .word 0x240 o
  | .st o => .word 0x241 o
  | .ldl o => .word 0x242 o
  | .stl o => .word 0x243 o
  | .ldv o => .word 0x244 o
  | .stv o => .word 0x245 o
  | .ldlv o => .word 0x246 o
  | .stlv o => .word 0x247 o
  | .stackGrowth _ _ => .event
  | .amoAdd o => .word 0x280 o
  | .amoAnd o => .word 0x281 o
  | .amoOr o => .word 0x282 o
  | .amoXor o => .word 0x283 o
  | .amoMin o => .word 0x284 o
  | .amoMax o => .word 0x285 o
  | .amoSwap o => .word 0x286 o
  | .amoCas o => .word 0x287 o
  | .amoFadd o => .word 0x288 o
  | .amoInc o => .word 0x289 o
  | .fence o => .word 0x290 o
  | .fenceEng o => .word 0x291 o
  | .pappend o => .word 0x298 o
  | .pgo o => .word 0x299 o
  | .pseq o => .word 0x29A o
  | .pdeal o => .word 0x29B o
  | .qpub o => .word 0x2A0 o
  | .rld o => .word 0x2C0 o
  | .rst o => .word 0x2C1 o
  | .ramo o => .word 0x2C2 o
  | .amsg o => .word 0x2C3 o
  | .amsgc o => .word 0x2C4 o
  | .red o => .word 0x2C5 o
  | .rcopy o => .word 0x2C6 o
  | .send o => .word 0x300 o
  | .recv o => .word 0x301 o
  | .recvW o => .word 0x302 o
  | .pop o => .word 0x303 o
  | .popW o => .word 0x304 o
  | .push o => .word 0x305 o
  | .qclose o => .word 0x306 o
  | .fork o => .word 0x307 o
  | .join o => .word 0x308 o
  | .spawn o => .word 0x309 o
  | .phReg o => .word 0x310 o
  | .phDrop o => .word 0x311 o
  | .phSig o => .word 0x312 o
  | .phWait o => .word 0x313 o
  | .phSw o => .word 0x314 o
  | .phTwait o => .word 0x315 o
  | .phStat o => .word 0x316 o
  | .qstat o => .word 0x318 o
  | .evcfg o => .word 0x320 o
  | .evarm o => .word 0x321 o
  | .evpulse o => .word 0x322 o
  | .stage o => .word 0x328 o
  | .budget o => .word 0x329 o
  | .cemit o => .word 0x340 o
  | .xderive o => .word 0x341 o
  | .xinfo o => .word 0x342 o
  | .xgrow o => .word 0x343 o
  | .lease o => .word 0x348 o
  | .lrel o => .word 0x349 o
  | .lstat o => .word 0x34A o
  | .sysrd o => .word 0x350 o
  | .syswr o => .word 0x351 o
  | .syswrRegisterQueue o => .word 0x351 o
  | .syswrUnregisterQueue o => .word 0x351 o
  | .attest o => .word 0x352 o
  | .trap o => .word 0x360 o
  | .tret o => .word 0x361 o
  | .fltrd o => .word 0x362 o
  | .fltack o => .word 0x363 o
  | .ckpt o => .word 0x364 o
  | .poisck o => .word 0x365 o
  | .sigacc o => .word 0x366 o
  | .budgetExhausted _ _ => .event
  | .dispatch _ => .event
  | .steal _ => .event
  | .hawkerBalance _ _ _ => .event
  | .governorMove _ _ => .event
  | .readyPoolNode _ _ => .event
  | .sendStreamDeliver _ _ _ => .event
  | .heldMessagePlace _ => .event
  | .porterEntry _ _ => .event
  | .dealEntry _ _ => .event
  | .heldSlotWrite _ _ => .event
  | .matrixOpStart _ _ => .event
  | .matrixOpFinish _ _ => .event
  | .matrixCommandAccept _ => .event
  | .phaserArbiterStep _ _ => .event
  | .phaserCompletionNotice _ _ _ => .event
  | .phTwaitExpiry _ _ => .event
  | .entryMove _ => .event
  | .atomicPerform _ _ => .event
  | .spcCommit _ => .event
  | .gatewayMerge _ _ => .event
  | .remoteRequestPerform _ => .event
  | .remoteResend _ => .event
  | .peerUnreachable _ _ => .event
  | .epochOpen _ _ => .event
  | .reductionWaitExpiry _ => .event
  | .fabricBarrierArrival _ => .event
  | .amsgAccept _ => .event
  | .flitCrcFail _ _ => .event
  | .retrainEnd _ _ => .event
  | .retirementBucketDecay _ _ => .event
  | .packetHeaderFlit _ _ _ _ => .event
  | .leaseGrant _ => .event
  | .leaseRevoke _ => .event
  | .receiveRevokeRequest _ => .event
  | .leaseWavelengthReturn _ _ => .event
  | .queueDoorbell _ _ => .event
  | .packetStart _ _ _ => .event
  | .packetComplete _ _ _ => .event
  | .barrierCheck _ => .event
  | .capsuleAdmission _ => .event
  | .capsuleCompletion _ => .event
  | .queueRegistrationAnswer _ => .event
  | .attestReportDone _ => .event
  | .faultRecordDelivery _ => .event
  | .park _ => .event
  | .preemptSave _ => .event
  | .preemptInstall _ => .event
  | .registerQueue _ _ _ => .event
  | .unregisterQueue _ _ _ => .event
  | .assignRegion _ _ _ _ _ => .event
  | .preEmpt _ _ _ _ => .event
  | .readTelemetry _ _ _ => .event
  | .hostAttest _ _ _ _ => .event
  | .stageFirmware _ _ _ _ => .event
  | .activateFirmware _ _ => .event
  | .installConfiguration _ _ _ _ => .event
  | .listContinuations _ _ _ => .event
  | .dropContinuation _ _ _ => .event
  | .bar0RegisterWrite _ _ _ => .event
  | .hostBar2Write _ _ _ => .event
  | .hostBar2Read _ _ _ => .event
  | .hostAtomic _ _ _ _ _ _ => .event
  | .coldBoot _ _ => .event
  | .watchdogExpiry _ _ => .event
  | .functionLevelReset _ => .event
  | .kernelPanic _ => .event
  | .thermalThrottle _ _ _ => .event
  | .thermalShutdown _ => .event
  | .clockBoost _ _ => .event
  | .telemetrySave _ => .event
  | .issueQueuePerform _ _ => .event
  | .remoteReplyReceive _ => .event
  | .uncorrectableError _ => .event
  | .correctedError _ _ => .event
  | .orderlyShutdown _ => .event
  | .warmRebootEnd _ => .event

def encodeHdr (h : Hdr) : Nat :=
  h.neg.toNat * 2 ^ 85 + h.guard.val * 2 ^ 81 + h.delay.val * 2 ^ 77 + h.yield.toNat * 2 ^ 76
    + h.likely.toNat * 2 ^ 75 + h.cache.val * 2 ^ 73

/-- A field's 23 bits without modifiers (Table 3.3). -/
def encodeOperand (x : Operand) : Nat :=
  kindCode x.kind * 2 ^ 20 + x.last.toNat * 2 ^ 19 + (match x with | .imm v => v.toNat | _ => x.num)

/-- Bits [18:6] of field D (Table 3.5). -/
def encodeMods (m : Mods) : Nat :=
  m.tyCode * 2 ^ 14 + scopeCode m.scope * 2 ^ 11 + m.mode.val * 2 ^ 8 + orderCode m.order * 2 ^ 6

/-- The word of an instruction (Table 3.1); 0 for an event, which has none. -/
def encode (i : Instr) : Nat :=
  match i.form with
  | .word op o =>
    op * 2 ^ 86 + encodeHdr o.hdr + (encodeOperand o.d + encodeMods o.mods) * 2 ^ 46
      + encodeOperand o.a * 2 ^ 23 + encodeOperand o.b
  | .wide op o => op * 2 ^ 86 + encodeHdr o.hdr + encodeOperand o.d * 2 ^ 46 + o.imm.toNat
  | .event => 0

/-- The encoded bytes, lowest address first. -/
def encodeBytes (i : Instr) : List Byte := toBytes 12 (encode i)

/-- The instruction is one a word can stand for: its fields are ones its form allows and its constructor is the one
its opcode and operands select. An event is no word's. -/
def Instr.wellFormed (i : Instr) : Bool :=
  match i.form with
  | .word op o => (match rowOf op with | some r => r.wellFormed o | none => false) && mkOps op o == some i
  | .wide op o => (match rowOf op with | some r => r.wideOk o | none => false) && mkWide op o == some i
  | .event => false

/-- The instruction a word of the host's table names: one 96-bit word, bit 0 the least. -/
def decodeTableWord (nbits w : Nat) : Option Instr :=
  if nbits ≤ 96 then (decodeWord (w % 2 ^ nbits)).toOption else none

end Sys2Proof
end

