-- ==== Sys2Proof/Config.lean ====
section
/-!
DEFINITION. What is fixed for the machine (Table 0.1, R1) and the values the spec leaves open: each free value is a
constant with no body, so nothing can be proved of what it is.
-/
namespace Sys2Proof.Config

/-- Bytes of a core's L store (Table 2.2). -/
def lBytes : Nat := 0x80000
/-- Firing slots of a core (Table 0.1). -/
def slotCount : Nat := 4
/-- Mailboxes of a core's inbox and messages of a mailbox (R14). -/
def mailboxDepth : Nat := 8
/-- Phasers of a core and member records of its bell (Table 0.1, R286). -/
def phaserCount : Nat := 96
def memberCount : Nat := 192
/-- Records of a deque (R260), nodes of a ready pool (R262), entries of a work queue (R263). -/
def dequeDepth : Nat := 256
def poolDepth : Nat := 1024
def workQueueDepth : Nat := 256
/-- Pending successor tallies of a chip (R335). -/
def tallyCount : Nat := 4096
/-- Hardware work queues of a die (Table 2.3). -/
def hardQueues : Nat := 256
/-- Entries of a matrix queue (R140) and of a command input (R166), and messages of a completion buffer (R277). -/
def matrixQueueDepth : Nat := 16
def commandInputDepth : Nat := 4
def completionBufferDepth : Nat := 8
/-- The first physical address of the reserved firmware region (R423). -/
def firmwareBase : Nat := 0x85DC468000
/-- The first physical address beyond HBM (R423). -/
def hbmTop : Nat := 0x861C468000
/-- Transmit wavelengths of a chip (Table 0.1). -/
def wavelengths : Nat := 256

/-- DESIGN CHOICE (log 3). Which of the firing's own earlier register values a default-mode read of a freed register
returns (R44), by a counter: its place in the list of them, and zero for a place past the end. -/
opaque freedPick : Nat → Nat
/-- DESIGN CHOICE (log 4). The device identity's signature over a message (R338, R339, R412): the private key is the
module's own and the spec gives no value of it. -/
opaque deviceSign : Nat → List Byte → List Byte
/-- DESIGN CHOICE (log 4). The device identity's public modulus and exponent (R338), by module. -/
opaque deviceModulus : Nat → Nat
opaque deviceExponent : Nat → Nat
/-- DESIGN CHOICE (log 4). The device certificate (R338): an X.509 v3 certificate of this public key, by module. -/
opaque deviceCertificate : Nat → List Byte → List Byte
/-- DESIGN CHOICE (log 4). The Virmus firmware key of the boot ROM (R422). -/
opaque firmwareModulus : Nat
opaque firmwareExponent : Nat
/-- DESIGN CHOICE (log 4). The version of a firmware image (R422), by its bytes: the spec says that an image carries it and
not where. -/
opaque firmwareVersion : List Byte → Nat
/-- DESIGN CHOICE (log 16). The number of a boot failure's cause beside its step (R423), and the bytes of a 16-byte
completion (R429) from its tag, status and result words: the spec says what they hold and not how. -/
opaque bootCause : Nat → Nat → Nat
opaque completionBits : Nat → Nat → Word → Word → BitVec 128
/-- DESIGN CHOICE (log 16). The bytes of a host buffer from the numbers that the spec says it holds (R419, R430). -/
opaque bufferBytes : List Nat → List Byte
/-- DESIGN CHOICE (log 19). The 5 °C band, 30 °C being the first, in which a core stands in a second (R419), by core and
second; 16 and more for none. -/
opaque thermalBand : Nat → Nat → Nat
/-- DESIGN CHOICE (log 44). Where a warm reboot finds the writer of a registry block (R428): steps done, and bytes of the next. -/
opaque stopStep : Nat → Nat
opaque stopByte : Nat → Nat
/-- DESIGN CHOICE (log 46). Whether the completer of a PCI Express AtomicOp answers it with Unsupported Request or
Completer Abort (R206, R432): the spec says what follows and not when, so it is a free value of the request's number. -/
opaque completerRefuses : Nat → Bool
/-- DESIGN CHOICE (log 46). Bytes 0 to 3 of a flit, from its sequence number and its kind (R361): the spec says that they
hold the two and not how. -/
opaque flitHead : Nat → Nat → Nat
/-- DESIGN CHOICE (log 5, log 8). A number the spec leaves open, by a counter: where a child's stack lies, the handler of an
active message that a park saved, and the seconds from the last telemetry save to a shutdown. -/
opaque freeNat : Nat → Nat

end Sys2Proof.Config
end

