-- ==== Sys2Proof/Machine/CoreState.lean ====
section
/-!
DEFINITION. The state of one core: registers, firing slots, stores, matrix unit, porter channels, event crossbar,
deque and ready set (Tables 2.2, 3.8, 7.5, 7.6, 10.8, 14.11, 18.3).
-/
namespace Sys2Proof.Machine

/-- Sparse bytes: addresses strictly rising, no entry equal to zero, which is what an unlisted address reads as. -/
abbrev Mem := List Host.Cell

/-- A scalar register (Table 3.8); `pend` names the request whose result it waits for (R257). -/
structure SReg where
  val : Word := 0
  freed : Bool := false
  poison : Bool := false
  pend : Option Nat := none
  deriving DecidableEq, Repr

/-- A vector register, with its format tag (R46). -/
structure VReg where
  bits : VBits := 0
  tag : Tag := .raw
  pend : Option Nat := none
  deriving DecidableEq, Repr

/-- A predicate register. -/
structure PReg where
  bits : PBits := 0
  freed : Bool := false
  deriving DecidableEq, Repr

/-- An entry of q0 to q11: a value and its poison flag; `pend` while its value is not yet computed (R50). It belongs to the
firing that pushed it, `fir`, and goes with it (R249). -/
structure QEnt where
  val : Word
  poison : Bool
  pend : Option Nat
  fir : Nat := 0
  deriving DecidableEq, Repr

/-- An entry of q12 to q15, with its tag. -/
structure VQEnt where
  bits : VBits
  tag : Tag
  pend : Option Nat
  fir : Nat := 0
  deriving DecidableEq, Repr

/-- A fault's code and its first two detail words. -/
structure FaultInfo where
  code : Nat
  i0 : Word
  i1 : Word
  deriving DecidableEq, Repr

/-- Where a result goes. -/
inductive Dst where
  | none
  | s (n : Nat)
  | v (n : Nat)
  | q (n : Nat)
  deriving DecidableEq, Repr

/-- A fault record (Table 21.2); its action field is the action applied. -/
structure FaultRec where
  code : Nat
  cls : Nat
  action : Nat
  nested : Bool
  word : Nat
  cap : Nat
  ep : Nat
  actor : Nat
  slot : Nat
  fkind : Nat
  seq : Nat
  stamp : Nat
  info0 : Word
  info1 : Word
  info2 : Word
  info3 : Word
  deriving DecidableEq, Repr

/-- The trap state of a slot (R393): the record, the return word, and how `tret #1` resumes. -/
structure TrapState where
  record : FaultRec
  retWord : Int
  /-- the fault was precise, deferred or a software trap: `tret #1` resumes after the word -/
  resumeNext : Bool
  budget : Bool
  deriving DecidableEq, Repr

/-- The four kinds of firing (R249). -/
inductive FKind where
  | actor | message | task | node
  deriving DecidableEq, Repr

/-- A loop entry (R270). -/
structure LoopEnt where
  start : Int
  last : Int
  count : Word
  deriving DecidableEq, Repr

/-- A message of a mailbox (R247, R250); active messages carry a handler or an inline-code buffer (R224, R225). -/
structure Msg where
  w0 : Word
  w1 : Word
  w2 : Word
  w3 : Word
  stamp : Nat
  reserved : Bool := false
  handler : Nat := 0
  inline : Option Nat := none
  deriving DecidableEq, Repr

/-- An outcome-unknown fault waiting to be raised before the firing's next instruction (R226). -/
structure Unknown where
  word : Int
  ptr : Word
  opcode : Nat
  raw : Nat
  deriving DecidableEq, Repr

/-- The shadow of a redundant firing (R416): its core, its signature, and where it stands (R417). -/
structure Shadow where
  ep : Nat
  sig : Word
  pc : Int := 0
  loops : List LoopEnt := []
  deriving DecidableEq, Repr

/-- A firing (R249). -/
structure Firing where
  /-- unique number: the firing's store buffer and issue queue are named by it -/
  id : Nat
  cap : Nat
  kind : FKind
  /-- manifest index; 0xFFFF for a task or node -/
  actor : Nat
  stage : Nat
  stamp : Nat
  pc : Int
  /-- `coord` at dispatch (Table 18.4, R342) -/
  coord : Word := 0
  /-- cycles remaining, and at dispatch (R254) -/
  budget : Nat
  budget0 : Nat
  produced : Nat := 0
  /-- the code image as it stood at dispatch (R200), or the words of an inline-code buffer (R225) -/
  code : List Byte
  inline : Option Nat := none
  loops : List LoopEnt := []
  trap : Option TrapState := none
  /-- messages removed so far, with their mailbox: a park puts the reserved ones back (R392) -/
  taken : List (Nat × Msg) := []
  unknown : List Unknown := []
  sig : Word := 0
  shadow : Option Shadow := none
  deriving DecidableEq, Repr

/-- What a slot waits for besides a retry at issue. -/
inductive Wait where
  | none
  /-- `done`, `recv.w`, `pop.w`: register writes are settled before the slot is free (R79); the die and queue of a
  `pop.w` -/
  | ending (popw : Option (Nat × Nat))
  /-- a growth request of the Memory core (R67): slot x, byte reached, and the Extent-bound fault of the instruction where
  it cannot be backed -/
  | growth (x : Nat) (upto : Int) (f : FaultInfo)
  /-- `fence`, `fence.eng`, `ph.sw`, `ph.twait` and every instruction that holds its slot until its request is
  performed -/
  | item (id : Nat)
  /-- `mwait`, issued: the operations awaited, and the tile named (none for every one) (R162) -/
  | mwait (ids : List Nat) (name : Option Nat)
  deriving DecidableEq, Repr

/-- A `send`, `amsg` or `amsgc` in a slot's stream (R276). `after` orders it behind the firing's earlier requests. -/
structure SendEnt where
  fir : Nat
  cap : Nat
  after : Nat
  /-- mailbox address for a send; none for an active message -/
  addr : Option Nat
  endpoint : Nat
  handler : Nat
  /-- inline code words of `amsgc` -/
  code : List (BitVec 96)
  w0 : Word
  w1 : Word
  w2 : Word
  w3 : Word
  stamp : Nat
  /-- word index, raw word and opcode of the sender, for R226 -/
  word : Int
  raw : Nat
  opcode : Nat
  deriving DecidableEq, Repr

/-- A firing slot (Tables 3.8, 18.3). -/
structure Slot where
  sregs : AMap SReg := []
  vregs : AMap VReg := []
  pregs : AMap PReg := []
  /-- values that registers held earlier in the firing, latest first: what a freed register may read as (R44) -/
  pastS : List Word := []
  pastV : List VBits := []
  pastP : List PBits := []
  /-- `fctl` (Table 5.7), `fstat` (Table 5.8), `srseed` (R95), `dline` (R250) -/
  fctl : BitVec 5 := 0
  fstat : BitVec 8 := 0
  srseed : Word := 0
  dline : BitVec 32 := 0
  fltinfo0 : Word := 0
  fltinfo1 : Word := 0
  fltinfo2 : Word := 0
  fltinfo3 : Word := 0
  firing : Option Firing := none
  wait : Wait := .none
  /-- cycles before the slot may issue again (R31) -/
  delay : Nat := 0
  /-- the cycle of its last dispatch or yield (R259), doubled: a yield of the cycle of a dispatch is the younger of the two -/
  age : Nat := 0
  /-- the cycle of its last issue -/
  issuedAt : Nat := 0
  stream : List SendEnt := []
  /-- the Parser's answer to the slot's latest registration (selector 0x21, Table 18.8) -/
  regResult : Word := 0
  /-- the latest registration of the slot, whose answer that is -/
  regLatest : Nat := 0
  deriving DecidableEq, Repr

/-- Who holds a claim (R137). -/
inductive Claim where
  | free
  | actor (i : Nat)
  | firing (id : Nat)
  deriving DecidableEq, Repr

/-- A slot of the A-bank (0 to 7) or W-bank (8 to 15) (R135). -/
structure Bank where
  data : BitVec 131072 := 0
  side : BitVec 4096 := 0
  tag : Tag := .raw
  claim : Claim := .free
  count : Nat := 0
  deriving DecidableEq, Repr

/-- A tile of the C store (R135): element (i, j) at bit 32(128i + j). -/
structure Tile where
  data : BitVec 524288 := 0
  tag : Tag := .raw
  deriving DecidableEq, Repr

/-- The operations of the matrix queue (R140). Numbers are tile values of Table 3.4; L offsets are in bytes. -/
inductive MatKind where
  | tfill (x off : Nat) (ty : Tag)
  | tdrain (y off : Nat)
  | tscale (x off : Nat)
  | tzero (c : Nat)
  | mma (c a w : Nat)
  | mmaj (a w : Nat) (seq : Nat)
  | tmov (d a : Nat)
  | tnarrow (d c part : Nat) (ty : Tag) (mode : Nat)
  | ttr (d a : Nat)
  | ttrit (d a part : Nat)
  deriving DecidableEq, Repr

/-- A commanded operation's return address (R165, R166). -/
structure CmdInfo where
  /-- its place among the commands of its firing: those are accepted in issue order (R165) -/
  seq : Nat
  cap : Nat
  fir : Nat
  handle : Word
  word : Word
  stamp : Nat
  deriving DecidableEq, Repr

/-- An operation that holds an entry of the matrix queue. -/
structure MatOp where
  id : Nat
  fir : Nat
  op : MatKind
  opcode : Nat
  /-- the tag its destination takes at issue (R141) -/
  wtag : Tag
  /-- trit-strict at issue (R153) -/
  strict : Bool
  /-- of a joint operation, the tags its A and W slots had at issue (R158) -/
  atag : Tag := .raw
  btag : Tag := .raw
  started : Bool := false
  cmd : Option CmdInfo := none
  deriving DecidableEq, Repr

/-- A deferred fault (R163). -/
structure Deferred where
  code : Nat
  info0 : Word
  info1 : Word
  names : List Nat
  opcode : Nat
  deriving DecidableEq, Repr

/-- An entry of the capability table (R164). -/
structure CapEnt where
  gen : Nat
  mask : Nat
  cap : Nat
  live : Bool
  deriving DecidableEq, Repr

/-- A request of a porter channel (R213): entries left and what it carries. `next` names the next entry, or once an
entry is finished (`begun`) that entry, whose next field names it. -/
structure PReq where
  left : Nat
  next : Word
  begun : Bool := false
  deal : Word
  stamp : Nat
  fir : Nat
  cap : Nat
  /-- the firing slot whose view of slot 1 the entry uses (R309) -/
  view : Nat
  deriving DecidableEq, Repr

/-- Where a porter copies from or to. -/
inductive PEnd where
  | ext (key : Nat) (kind : Nat)
  | l (off : Nat)
  | slot (x : Nat)
  /-- a deal to L stores or slots: receiving endpoints in order, block size -/
  | dealL (off : Nat) (eps : List Nat) (block : Nat)
  | dealSlot (x : Nat) (eps : List Nat) (block : Nat)
  deriving DecidableEq, Repr

/-- The entry a channel is performing (R214, R215, R217): its fields as read, the bytes copied so far, and what its
completion waits for (R190, R139). A failed check is an entry with a status and nothing left to copy. -/
structure PWork where
  ptr : Word
  /-- location of the entry, and its extent's kind -/
  key : Nat
  kind : Nat
  seqNo : Nat
  dest : Word := 0
  length : Nat := 0
  control : Nat := 0xFFFF
  src : PEnd := .l 0
  dst : PEnd := .l 0
  done : Nat := 0
  status : Nat := 0
  /-- offset of the first poisoned word, and whether the slot being gathered has one -/
  poisonAt : Option Nat := none
  bad : Bool := false
  /-- bytes of a slot not yet whole -/
  buf : List Byte := []
  /-- ids of the entries written -/
  writes : List Nat := []
  /-- slot writes held under R139: core and id -/
  held : List (Nat × Nat) := []
  deriving DecidableEq, Repr

/-- A porter channel (R210 to R217). -/
structure Chan where
  first : Option Word := none
  last : Option Word := none
  count : Nat := 0
  deal : Word := 0
  seqNo : Nat := 0
  doneSeq : Nat := 0
  status : Nat := 0
  halted : Bool := false
  reqs : List PReq := []
  work : Option PWork := none
  deriving DecidableEq, Repr

/-- Who waits for a held slot write. -/
inductive HeldBy where
  | porter (ep ch : Nat)
  | pool
  deriving DecidableEq, Repr

/-- A porter or dealer write to a slot whose count is above 0 (R139). -/
structure HeldWrite where
  id : Nat
  slot : Nat
  data : BitVec 131072
  side : BitVec 4096
  tag : Tag
  src : HeldBy
  deriving DecidableEq, Repr

/-- A counter of the event crossbar (R294); at reset every field of its configuration is 0 (Table 14.9). -/
structure Counter where
  c : Nat := 0
  t : Nat := 0
  ovf : Bool := false
  threshold : Nat := 0
  source : Nat := 0
  deriving DecidableEq, Repr

/-- A term of the event crossbar (R294, Table 14.10). -/
structure Term where
  mask : Nat := 0
  isOr : Bool := false
  action : Nat := 0
  arg : Nat := 0
  armed : Nat := 0
  actions : Nat := 0
  /-- what the latest `evarm` leaves for the action: stamp, firing, view -/
  stamp : Nat := 0
  fir : Nat := 0
  view : Nat := 0
  deriving DecidableEq, Repr

/-- A task record (Table 13.3). -/
structure Task where
  entry : Nat
  stamp : Nat
  budget : Nat
  join : Word
  a0 : Word
  a1 : Word
  a2 : Word
  a3 : Word
  deriving DecidableEq, Repr

/-- What a ready firing starts. -/
inductive Job where
  | actor (i : Nat)
  | message (i : Nat)
  | task (t : Task)
  | node (t : Task)
  deriving DecidableEq, Repr

/-- A member of the ready set (R251): `passed` counts younger firings dispatched before it (R252). -/
structure Ready where
  job : Job
  cap : Nat
  stamp : Nat
  passed : Nat := 0
  /-- of a node: its card, the card's pointer, and the core and slot that spawned it -/
  card : List Byte := []
  ptr : Word := 0
  src : Nat := 0
  view : Nat := 0
  deriving DecidableEq, Repr

/-- An issued `ph.sw` or `ph.twait` whose wait half is under way (R290, R291): the phaser, the last cycle that counts
(none for `ph.sw`), and where the result goes. -/
structure PhWait where
  id : Nat
  fir : Nat
  cap : Nat
  actor : Nat
  slot : Nat
  key : Nat
  gen : Nat
  limit : Option Nat
  dst : Dst
  deriving DecidableEq, Repr

/-- A core. -/
structure Core where
  /-- the capsule it is granted to, its logical number, and its primary where it is a shadow (R416) -/
  cap : Option Nat := none
  logical : Nat := 0
  shadowOf : Option Nat := none
  vacating : Bool := false
  /-- step 4 of Table 21.5 has begun: this save is finished, whatever comes (R409, R420) -/
  saving : Bool := false
  /-- the request that takes the core, or that it is kept for once free (R404, R409) -/
  taker : Option Nat := none
  slots : AMap Slot := []
  sq : AMap (List QEnt) := []
  vq : AMap (List VQEnt) := []
  lstore : Mem := []
  /-- L-store lines with poisoned bytes: bit i for byte i of the 64-byte line (R147, R214) -/
  lpoison : AMap (BitVec 64) := []
  /-- 64-byte L-store lines written since admission (R411) -/
  lwritten : List Nat := []
  banks : AMap Bank := []
  tiles : AMap Tile := []
  mq : List MatOp := []
  mflags : BitVec 8 := 0
  jd : Bool := false
  jointSeq : Nat := 0
  deferred : List Deferred := []
  captab : AMap CapEnt := []
  capGen : Nat := 1
  /-- commands sent to this core, in the order its input sees them; the first four stand in its command input -/
  cmdIn : List CmdInfo := []
  inlineBufs : AMap (List (BitVec 96)) := []
  chans : AMap Chan := []
  held : List HeldWrite := []
  counters : AMap Counter := []
  terms : AMap Term := []
  /-- terms that have acted in this cycle: each acts at most once in one (R296) -/
  acted : List Nat := []
  phWaits : List PhWait := []
  /-- task records, top first (R260) -/
  deque : List Task := []
  /-- oldest first -/
  ready : List Ready := []
  /-- `cycles` (R256) -/
  cycles : Word := 0
  /-- `ipol` (Table 18.6) -/
  ipol : Bool := false
  /-- the slot that issued last, how many it issued in a row, and the cycle it did (R259) -/
  lastSlot : Nat := 3
  runLen : Nat := 0
  lastCycle : Nat := 0
  /-- arithmetic clock in MHz (R11) -/
  mhz : Nat := 2000
  deriving DecidableEq, Repr

end Sys2Proof.Machine
end

