-- ==== Sys2Proof/Machine/PodState.lean ====
section
/-!
DEFINITION. The state outside the cores: capsules with their extents and actors, the ordering machine's entries and
issue queues, phasers, and a chip's schedulers, gateways, queues and firmware complex.
-/
namespace Sys2Proof.Machine

/-- An extent descriptor (Table 17.5); `base` is the 52-bit field, bit 51 set for host memory; `attr` is descriptor
bits [203:192]. -/
structure Extent where
  base : Nat
  home : Nat
  length : Nat
  comm : Nat
  attr : BitVec 12
  owner : Nat
  /-- made valid by `xderive` (R346) -/
  derived : Bool := false
  /-- committed length at admission (R331) -/
  comm0 : Nat := 0
  deriving DecidableEq, Repr

/-- An actor's state (R246). -/
inductive AState where
  | armed
  | ready
  | running
  | waiting (die q : Nat)
  deriving DecidableEq, Repr

/-- A declared input mailbox (Tables 13.1, 17.3), oldest message first. -/
structure Mailbox where
  ty : Nat
  count : Nat
  msgs : List Msg := []
  deriving DecidableEq, Repr

/-- An entry held for an actor woken by a push (R263). -/
structure HeldEntry where
  die : Nat
  q : Nat
  w0 : Word
  w1 : Word
  w2 : Word
  w3 : Word
  deriving DecidableEq, Repr

/-- An actor (Table 17.3). -/
structure Actor where
  entry : Nat
  /-- logical core of the manifest, and the core it is pinned to -/
  logical : Nat
  ep : Nat
  stage : Nat
  production : Nat
  privSize : Nat
  privOff : Nat
  budget : Nat
  boxes : AMap Mailbox := []
  state : AState := .armed
  /-- the one firing of an actor without input mailbox has run (R246) -/
  fired : Bool := false
  /-- entries delivered on `pop.w` wakes and not yet popped, oldest first -/
  held : List HeldEntry := []
  /-- its core is taken: messages wait until it is installed elsewhere (Table 21.6) -/
  moving : Bool := false
  deriving DecidableEq, Repr

/-- A stage ring (Table 14.12). -/
structure Ring where
  queue : Nat
  low : Nat
  high : Nat
  deriving DecidableEq, Repr

/-- A successor reference (Table 17.4). -/
structure Succ where
  addr : Nat
  length : Nat
  preds : Nat
  deriving DecidableEq, Repr

inductive LState where
  | pending | granted | revoked
  deriving DecidableEq, Repr

/-- A lease-table entry (R352); `gen` is the generation of its latest handle. -/
structure LeaseEnt where
  gen : Nat := 0
  live : Bool := false
  peer : Nat := 0
  state : LState := .pending
  max : Nat := 0
  min : Nat := 0
  mailbox : Nat := 0xFFFF
  stamp : Nat := 0
  wls : List Nat := []
  deriving DecidableEq, Repr

/-- A node of a ready pool (R262): `ptr` and `src` are its card's pointer and the core that spawned it. `target` is the
core chosen, once the card has passed its checks; then its tiles are copied in order. -/
structure Node where
  cap : Nat
  /-- the firing slot that spawned it, whose view of slot 1 its sources are read through (R309) -/
  slot : Nat
  card : List Byte
  ptr : Word
  src : Nat
  target : Option Nat := none
  tile : Nat := 0
  done : Nat := 0
  buf : List Byte := []
  bad : Bool := false
  /-- ids of held slot writes -/
  waiting : List Nat := []
  deriving DecidableEq, Repr

/-- A capsule's life. -/
inductive CState where
  | running
  | terminating
  /-- reason of Table 21.7 -/
  | parking (reason : Nat)
  deriving DecidableEq, Repr

/-- Where a capsule came from. -/
inductive Origin where
  /-- a queue's packet: chip, queue, packet number -/
  | packet (chip q k : Nat)
  /-- `cemit`: parent capsule, mailbox, notify, image pointer, stamp -/
  | child (parent mailbox : Nat) (notify : Bool) (ptr : Word) (stamp : Nat)
  /-- a successor's admission (R334): the number of the run -/
  | successor (run : Nat)
  /-- a packet whose queue a Function Level Reset took away: its completion is discarded (R427) -/
  | gone
  deriving DecidableEq, Repr

/-- A capsule (Tables 17.1, 18.5). -/
structure Capsule where
  chip : Nat
  origin : Origin := .successor 0
  priority : Nat := 0
  image : List Byte := []
  imageAddr : Nat := 0
  sealHash : List Byte := []
  /-- seal hash of the nearest sealed ancestor, itself included (R339) -/
  sealed : List Byte := []
  ownerKey : Nat := 0
  codeId : List Byte := []
  redundant : Bool := false
  strict : Bool := false
  tritstrict : Bool := false
  deadline : Nat := 0
  budget : Nat := 0
  /-- fault policy (Table 21.3) -/
  policy : Nat := 0
  reportSlot : Nat := 0xFF
  contSlot : Nat := 0xFF
  faultBox : Nat := 0xFFFF
  minCores : Nat := 1
  maxCores : Nat := 1
  placement : Nat := 0
  extents : AMap Extent := []
  imageSlots : Nat := 4
  actors : List Actor := []
  /-- granted cores by rising endpoint ID: the position is the logical number (R22) -/
  cores : List Nat := []
  shadows : List Nat := []
  succs : List Succ := []
  state : CState := .running
  rings : AMap Ring := []
  /-- records raised and not yet delivered, oldest first (R389) -/
  records : List FaultRec := []
  /-- the oldest one's place in the report extent once step 1 is over (none where it was not written); the last sequence whose
  message an inbox has accepted, and the last one that the overflow count has seen (R426) -/
  recAt : Option (Option Nat) := none
  told : Nat := 0
  seen : Nat := 0
  /-- the policy's action that waits for the end of a warm reboot (Table 22.4) -/
  asked : Option CState := none
  /-- the last sequence issued, the acknowledged sequence, the overflow count (R401) -/
  seqNo : Nat := 0
  acked : Nat := 0
  overflow : Nat := 0
  leases : AMap LeaseEnt := []
  attesting : Bool := false
  /-- `cemit` requests awaiting a decision (R350) -/
  emits : Nat := 0
  /-- number of cores granted, as `coord` gives it (Table 18.4) -/
  granted : Nat := 1
  /-- saves so far; bytes and records of the save area that the move under way has written (Table 21.7) -/
  saveCount : Nat := 0
  saveUsed : Nat := 0
  saveRecs : Nat := 0
  /-- private state of moved actors, saved and not yet installed, by manifest index (R406) -/
  movedPriv : AMap (List Byte) := []
  /-- a move has taken cores, and its step 7 is still to come (R405) -/
  remap : Bool := false
  /-- inline-code buffers that messages of a moved message actor name -/
  movedCode : AMap (AMap (List (BitVec 96))) := []
  /-- records of a continuation that find no room yet in deques and ready pools (R260, R262, R413) -/
  late : List Task := []
  lateNodes : List Node := []
  /-- the successor's run that it is, kept by its continuations (R334) -/
  successorOf : Option Nat := none
  /-- its park has written the continuation image: it ends once the release of its completion is over (R236, R392) -/
  parked : Bool := false
  /-- deferred matrix faults of cores that a move has taken, each with its core (R163) -/
  deferred : List (Nat × Deferred) := []
  deriving DecidableEq, Repr

/-- A place of the ordering machine (Table 9.1); M itself is the memory. -/
inductive Place where
  | sb (fir : Nat)
  | core (ep : Nat)
  | sq (n : Nat)
  | die (n : Nat)
  | dev (chip : Nat)
  | pod
  /-- E(gateway): chip and gateway -/
  | gw (chip g : Nat)
  deriving DecidableEq, Repr

/-- Ordering kinds (Table 9.3). -/
inductive OKind where
  | strong | release | unordered
  deriving DecidableEq, Repr

/-- The ten atomics (Table 10.1). -/
inductive AmoOp where
  | add | and | or | xor | min | max | swap | cas | fadd | inc | fmin | fmax
  deriving DecidableEq, Repr

/-- One element of a load or store: location key and width, and element number. -/
structure Elem where
  key : Nat
  w : Nat
  idx : Nat
  deriving DecidableEq, Repr

/-- What a `.spc` atomic keeps for an early performance (R187): its issue cycle, the slot before it, and once it has
been performed early what it read. -/
structure Early where
  cycle : Nat
  slot : Slot
  old : Option Word := none
  deriving DecidableEq, Repr

/-- The relaxed uses (Table 9.4). -/
inductive Use where
  | nor | unp | com | qnt | spc
  deriving DecidableEq, Repr

/-- What a request of IQ(F) does when it is performed (R179 to R185, R190, R192). -/
inductive Act where
  /-- a load: elements not yet read, bytes gathered by element, poison seen -/
  | load (elems : List Elem) (ty : Tag) (vec : Bool) (poison : Bool)
  | store (elems : List Elem) (v : VBits)
  | amo (op : AmoOp) (ty : Tag) (key : Nat) (b cmp : Word) (use : Use) (quantum : Nat)
      (early : Option Early)
  | fence
  | fenceEng (mask : Nat)
  | pgo (ch : Nat) (req : Option PReq)
  | evpulse (i : Nat)
  | qpub (phys : Nat) (trailer : Word) (elem : Elem)
  | rld (reply ptr : Word) (ty : Tag) (key : Nat)
  | rst (reply ptr : Word) (key w : Nat) (v : Word)
  | ramo (reply ptr : Word) (op : AmoOp) (ty : Tag) (key : Nat) (b cmp : Word)
  | red (ptr : Word) (op : AmoOp) (ty : Tag) (elems : List (Nat × Word))
  | rcopy (dptr ctl : Word) (skey dkey len : Nat) (kind : OKind)
  | push (q : Nat) (w0 w1 w2 w3 : Word)
  | qclose (q : Nat)
  | fork (key : Nat) (stamp : Nat)
  | join (key ckey : Nat) (ckind : OKind) (cptr : Word) (stamp : Nat)
  /-- the atomic of `join` is done and its record waits for room in the pool (R284) -/
  | joinPool (t : Task)
  /-- a job card, as read at issue (R285) -/
  | spawn (card : List Byte) (stamp : Nat)
  | phSig (key gen actor sp : Nat)
  | phDrop (key gen actor : Nat)
  | registerQueue (ptr : Word) (key : Nat)
  | cemit (ptr : Word) (ctl : Word) (key len : Nat) (parent : AMap Extent) (stamp : Nat)
  | attest (ctl ptr : Word) (nonce : List Byte) (key stamp : Nat)
  | xderive (x : Nat) (ext : Option Extent)
  | fltack (a : Nat)
  | lrel (handle : Word)
  | lstat (handle : Word)
  deriving DecidableEq, Repr

/-- A request in IQ(F), in program order by `id`; `item` positions across firings have no meaning. -/
structure Item where
  id : Nat
  fir : Nat
  ep : Nat
  slot : Nat
  cap : Nat
  word : Int
  raw : Nat
  opcode : Nat
  /-- extent slot and ordering kind of the access -/
  x : Nat := 0
  kind : OKind := .release
  home : Nat := 0
  /-- the extent is a reduction window (R189) -/
  window : Bool := false
  acq : Bool := false
  rel : Option Scope := none
  ptr : Word := 0
  dst : Dst := .none
  /-- `dline` at issue -/
  stamp : Nat := 0
  /-- bytes gathered by a load -/
  acc : VBits := 0
  /-- the locations of a vector load, which counts as performed after its last element (R175) -/
  spread : List (Nat × Nat) := []
  act : Act
  deriving DecidableEq, Repr

/-- A pending atomic operation (R173, R188, R189). -/
structure EOp where
  op : AmoOp
  ty : Tag
  operand : Word
  /-- operations combined, and the quantum of a `.qnt` entry; quantum 0 for a `.com` entry -/
  count : Nat
  quantum : Nat
  /-- a fence or release of the core has let it move (R188) -/
  freed : Bool
  /-- the atomics it carries: each with its firing and its place in that firing's program order -/
  parties : List (Nat × Nat)
  /-- the requests it carries: each is confirmed once (R372) -/
  reqs : List Nat
  /-- the requests by which each contributing endpoint's pair with the reduction gateway counts the entry (R369, R372) -/
  nums : List Nat := []
  /-- what made the operations of a quantum entry still on its core: each becomes a request as the entry leaves for
  another chip (R206, R226) -/
  made : List Item := []
  deriving DecidableEq, Repr

/-- An entry (R173). `core` is the core whose path it climbs; `req` the remote request it belongs to. -/
structure Entry where
  id : Nat
  place : Place
  key : Nat
  bytes : List Byte
  /-- the firing that made it; 0 for an engine, a gateway, the host or firmware -/
  party : Nat
  /-- the firing whose engine or gateway request made it (R192), and which kind of request by its bit of R209: 0 porter,
  1 dealer, 3 gateway; firing 0 for none -/
  eng : Nat := 0
  engBit : Nat := 0
  cap : Nat
  core : Nat
  kind : OKind
  fenced : Bool
  op : Option EOp := none
  req : Option Nat := none
  /-- the entry carries poisoned bytes (R214) -/
  poison : Bool := false
  /-- a write of the Parser, or of a packet's work by another firmware core: the Parser's releases wait for it (R232, R236) -/
  parser : Bool := false
  deriving DecidableEq, Repr

/-- A doorbell on its way (R218): the packet's location, and the release it follows, with its scope. -/
structure Bell where
  key : Nat
  entry : Nat
  scope : Scope
  deriving DecidableEq, Repr

/-- A request on its way through the fabric (R199, R226, R369, R370). -/
inductive RKind where
  /-- remote load or `rld` -/
  | load (key : Nat) (ty : Tag)
  /-- store entries of one instruction -/
  | store
  /-- `rst` -/
  | put (key w : Nat) (v : Word)
  | amo (op : AmoOp) (ty : Tag) (key : Nat) (b cmp : Word)
  /-- a reduction contribution, applied when its operation entry is -/
  | red
  /-- bytes left to copy: source key, destination key, offset done, length, and the ordering kind of the source's extent -/
  | copy (skey dkey done len : Nat) (kind : OKind)
  /-- one copy-segment message of a copy to another chip, or a contribution at a reduction gateway (R368, R372): the request
  it is part of -/
  | segment (whole : Nat)
  /-- the code image that a firing dispatched over a far code extent runs, with the entry it starts at (R200, R368) -/
  | fetch (entry : Option Nat)
  | amsg (target handler : Nat) (code : List (BitVec 96)) (w0 w1 w2 w3 : Word) (stamp : Nat)
  | barrier (w0 w1 w2 w3 : Word) (stamp : Nat)
  | spawn (card : List Byte) (stamp : Nat)
  deriving DecidableEq, Repr

structure Remote where
  id : Nat
  /-- issuing chip and endpoint, gateway that performs it, home chip -/
  chip : Nat
  ep : Nat
  gw : Nat
  home : Nat
  /-- its place in the order of its pair, from 1; 0 while it has none. The 32-bit number it carries is this modulo 2^32, and
  the window of 64 makes the order of the two the same (R369, R370) -/
  seqNo : Nat
  epoch : Nat
  fir : Nat
  cap : Nat
  slot : Nat
  word : Int
  raw : Nat
  opcode : Nat
  kind : RKind
  ptr : Word
  /-- the destination that a plain access writes, and the issue-queue item it completes -/
  item : Option Nat := none
  /-- the reply word of `rld`, `rst`, `ramo`, `rcopy` -/
  reply : Option Word := none
  stamp : Nat := 0
  /-- copies and replies in flight, whether it has been performed, and the reply kept by the window (R370) -/
  copies : Nat := 1
  replies : Nat := 0
  performed : Bool := false
  /-- the segment a copy is writing, the offset it begins at, and the segments begun -/
  seg : Nat := 0
  segAt : Nat := 0
  segs : Nat := 0
  status : Nat := 0
  value : Word := 0
  deriving DecidableEq, Repr

/-- A member of a phaser (R287). -/
structure Member where
  cap : Nat
  actor : Nat
  ep : Nat
  mode : Nat
  sp : Nat
  wp : Nat
  /-- a mode change or a registration held for the next phase -/
  pending : Option Nat := none
  joining : Bool := false
  /-- the phase last reported to the member's core -/
  known : Nat := 0
  deriving DecidableEq, Repr

/-- A phaser, keyed by home endpoint and index (R286); generation of a freed one is that of its next use. -/
structure Phaser where
  gen : Nat := 1
  live : Bool := false
  /-- P, a 32-bit count, kept without wrapping as `sp` and `wp` are -/
  phase : Nat := 0
  arrivals : Nat := 0
  members : List Member := []
  /-- signallers that dropped after signalling P: they stay counted for P (R292) -/
  left : Nat := 0
  /-- the capsule that created it -/
  cap : Nat := 0
  deriving DecidableEq, Repr

/-- What stands before a phaser's arbiter and has an answer (R288, R293); signals and drops reach it as they are
performed (R195). -/
inductive PhAct where
  | register (mode : Nat)
  | stat
  deriving DecidableEq, Repr

structure PhReq where
  /-- phaser key and generation -/
  key : Nat
  gen : Nat
  cap : Nat
  actor : Nat
  ep : Nat
  slot : Nat
  /-- the register write that the answer completes -/
  id : Nat
  dst : Dst
  act : PhAct
  deriving DecidableEq, Repr

/-- Where a message waits for room (Table 14.13). -/
inductive HeldAt where
  | porter (ep ch : Nat)
  | matrix (ep : Nat)
  | term (ep j : Nat)
  | gateway (chip : Nat)
  | firmware (chip core : Nat)
  deriving DecidableEq, Repr

/-- A message not from a send stream, waiting to be placed (R277). -/
structure HeldMsg where
  src : HeldAt
  cap : Nat
  addr : Nat
  msg : Msg
  deriving DecidableEq, Repr

/-- A hardware work queue and its binding (R263). One that a move or a restore brings to a die with no hardware queue free
stands, under a number behind theirs, until one is (log 50). -/
structure WorkQueue where
  cap : Nat
  die : Nat
  q : Nat
  entries : List HeldEntry := []
  closed : Bool := false
  waiters : List Nat := []
  /-- entries behind the 256 that a move or a restore has brought together (R263) -/
  late : List HeldEntry := []
  deriving DecidableEq, Repr

/-- A packet taken and not yet complete (R232, R234). -/
structure Packet where
  k : Nat
  bytes : List Byte
  started : Bool := false
  /-- its work is done, with this status -/
  status : Option Nat := none
  deriving DecidableEq, Repr

/-- A registered command queue (Table 11.1). -/
structure CQueue where
  /-- where the descriptor stands, as a location key -/
  desc : Nat
  ring : Nat
  slots : Nat
  priority : Nat
  enabled : Bool
  signals : Nat
  nsignals : Nat
  ownerKey : Nat
  /-- the registering capsule, none for a host registration -/
  cap : Option Nat
  /-- its place in registration order -/
  regNo : Nat := 0
  head : Nat := 0
  aborting : Bool := false
  /-- unregistered: no more packets are taken, and those taken run out -/
  gone : Bool := false
  packets : List Packet := []
  deriving DecidableEq, Repr

/-- An admission waiting for the Security and Scheduler cores. -/
structure Admission where
  /-- the request's number, which the cores it takes by pre-emption bear; 0 until it takes some -/
  id : Nat := 0
  origin : Origin
  priority : Nat
  addr : Nat
  /-- the image as copied -/
  image : List Byte
  length : Nat
  /-- the owner key the image must have: the queue's for a packet, the parent's for a child -/
  ownerKey : Option Nat
  /-- a parent's extents at `cemit`, the seal hash of its nearest sealed ancestor, and its placement flags (R350, R332) -/
  parent : AMap Extent := []
  sealed : List Byte := []
  placement : Nat := 0
  failed : Bool := false
  deriving DecidableEq, Repr

/-- A device-side request on its way to the Parser (R345): to register the queue whose descriptor stands at `key`, or to
unregister a queue. -/
structure RegReq where
  /-- the number of the request, by which its slot knows its latest -/
  id : Nat := 0
  cap : Nat
  ep : Nat
  slot : Nat
  fir : Nat
  key : Nat
  drop : Option Nat := none
  deriving DecidableEq, Repr

/-- An attestation request (R356). -/
structure AttestReq where
  cap : Nat
  ctl : Word
  ptr : Word
  nonce : List Byte
  key : Nat
  stamp : Nat
  deriving DecidableEq, Repr

/-- A key and a tag of the configuration record (Table 22.3). -/
structure OwnerKey where
  id : Nat
  dieMask : Nat
  exponent : Nat
  modulus : Nat
  deriving DecidableEq, Repr

structure OwnerTag where
  tag : Nat
  key : Nat
  reserve : Nat
  deriving DecidableEq, Repr

/-- The configuration record in force (R424). -/
structure ConfigRec where
  chip : Nat
  placement : Bool
  members : BitVec 64
  keys : List OwnerKey
  tags : List OwnerTag
  hash : List Byte
  deriving DecidableEq, Repr

/-- An address region assigned to an owner tag (R323). -/
structure Region where
  owner : Nat
  host : Bool
  base : Nat
  length : Nat
  deriving DecidableEq, Repr

/-- A lease request in the arbiter's queue, and a granted lease (R363, R366), by its entry and that entry's generation. -/
structure LeaseRef where
  cap : Nat
  ent : Nat
  gen : Nat
  peer : Nat
  deriving DecidableEq, Repr

/-- A wavelength (R378, R379). -/
inductive WlState where
  | good | retraining | retired
  deriving DecidableEq, Repr

structure Wl where
  state : WlState := .good
  bucket : Nat := 0
  retrainings : Nat := 0
  /-- the sequence number of its next flit (R361), and failed sendings by flit (R378) -/
  seq : Nat := 0
  fails : AMap Nat := []
  /-- the lease it leaves at its next packet boundary (R365) -/
  returning : Option LeaseRef := none
  deriving DecidableEq, Repr

/-- A packet whose header flit is sent: its wavelength set is fixed; `lanes` are those of the set that still have flits of
it to carry (R381). -/
structure FabricPacket where
  peer : Nat
  cap : Nat
  flits : Nat
  wset : List Nat
  lanes : List Nat
  deriving DecidableEq, Repr

/-- The gateways' wavelength state of one chip (R359 to R366). -/
structure Fabric where
  base : AMap (List Nat) := []
  spare : List Nat := []
  /-- wavelengths by number, where not in the default state -/
  wls : AMap Wl := []
  queue : List LeaseRef := []
  /-- granted leases, oldest first -/
  granted : List LeaseRef := []
  /-- receive wavelengths, in rising number, that each sender's base set holds, and spare ones (R360) -/
  rbase : AMap (List Nat) := []
  rspare : List Nat := []
  /-- inbound leases, oldest first: sending chip, lease, receive wavelengths -/
  inbound : List (Nat × LeaseRef × List Nat) := []
  packets : List FabricPacket := []
  epochs : AMap Nat := []
  unreachable : List Nat := []
  /-- next sequence number of each pair, keyed endpoint × 1024 + gateway of its home chip (R369) -/
  seqs : AMap Nat := []
  deriving DecidableEq, Repr

/-- A participant of a fabric barrier (R376). -/
structure Participant where
  cap : Nat
  chip : Nat
  mailbox : Nat
  tag : Word
  stamp : Nat
  deriving DecidableEq, Repr

/-- A fabric barrier counter (R374). -/
structure Barrier where
  family : Option (Nat × List Byte) := none
  lastFamily : Option (Nat × List Byte) := none
  n : Nat := 0
  arrived : List Participant := []
  episode : Nat := 0
  deriving DecidableEq, Repr

/-- Tally of a pending successor (R334). -/
structure Tally where
  addr : Nat
  length : Nat
  preds : Nat
  count : Nat
  failed : Bool
  priority : Nat
  deriving DecidableEq, Repr

/-- Growth kept for a successor (R334). -/
structure Kept where
  /-- the images whose next run may take it up, and the runs of successors that stand for admission or have begun -/
  succs : List Nat
  runs : List Nat := []
  base : Nat
  home : Nat
  owner : Nat
  comm : Nat
  deriving DecidableEq, Repr

/-- A firmware image as checked (R422): its version, the save-area layouts it can read, its own first, its measurement, and its
bytes, which a boot copies into the firmware region (R423). -/
structure FwImage where
  version : Nat
  layouts : List Nat
  measure : List Byte
  bytes : List Byte := []
  deriving DecidableEq, Repr

/-- An entry of the continuation list (R430), with the capsule it continues: its number, the successor's run it is, the committed
lengths of its first admission (R331, R334), and its extents, which stay its own (Table 2.6). -/
structure ContEnt where
  cap : Nat
  hash : List Byte
  layout : Nat
  successorOf : Option Nat := none
  comm0 : AMap Nat := []
  /-- the location ranges of its extents -/
  ranges : List (Nat × Nat) := []
  deriving DecidableEq, Repr

/-- BAR0 status (R423); a chip that has not booted since it was powered off is off. -/
inductive BootState where
  | off
  | booting
  | ready
  /-- the failed step and its cause -/
  | failed (step cause : Nat)
  deriving DecidableEq, Repr

/-- Lifetime counters (Table 21.10). -/
structure Telemetry where
  /-- keyed endpoint × 32 + code, and endpoint × 8 + class -/
  codes : AMap Nat := []
  classes : AMap Nat := []
  corrected : AMap Nat := []
  uncorrectable : AMap Nat := []
  retiredPages : List Nat := []
  buckets : AMap Nat := []
  retrainings : AMap Nat := []
  /-- seconds counted for the thermal residency, as `Telemetry.residency` spreads them over a core's bands -/
  thermal : Nat := 0
  preemptions : Nat := 0
  parks : Nat := 0
  terminations : Nat := 0
  rasReports : Nat := 0
  /-- thermal shutdowns logged (R434) -/
  shutdowns : Nat := 0
  deriving DecidableEq, Repr

/-- A boot NVMe drive (Table 22.1): whether it is there, the bytes of its boot directory, the firmware images that pass
R422, the configuration record that passes R424, the module whose device certificate it keeps (R338) and the telemetry area. Only firmware reads or writes
these drives (R433). -/
structure Drive where
  present : Bool := false
  dir : List Byte := []
  slot0 : Option FwImage := none
  slot1 : Option FwImage := none
  config : Option ConfigRec := none
  certificate : Option Nat := none
  telemetry : Telemetry := {}
  deriving DecidableEq, Repr

/-- A control block of the firmware's registry: its generation words, what stands between them, its shadow's bytes, and the body
that its writer has begun to give it (R428). -/
structure RegBlock where
  first : Nat := 0
  body : List Byte
  last : Nat := 0
  shadow : List Byte := []
  next : Option (List Byte) := none
  deriving DecidableEq, Repr

/-- BAR0 registers (R429, Table 22.6), and the completions written so far. -/
structure Bar0 where
  identity : Word := 0
  ringBase : Word := 0
  slotCount : Word := 0
  tail : Word := 0
  head : Word := 0
  complBase : Word := 0
  window : Word := 0
  completions : Nat := 0
  deriving DecidableEq, Repr

/-- What a host command writes to a buffer, where the spec gives the contents and no layout (log 16). -/
inductive HostInfo where
  | nothing
  | telemetry (t : Telemetry)
  | conts (l : List ContEnt)
  deriving DecidableEq, Repr

/-- A host completion (R429): tag, status, two result words. -/
structure HostDone where
  tag : Nat
  status : Nat
  r0 : Word
  r1 : Word
  info : HostInfo := .nothing
  deriving DecidableEq, Repr

/-- A chip's state outside its cores. -/
structure Chip where
  boot : BootState := .off
  /-- which module it is: its device identity goes with it (R338) -/
  ident : Nat := 0
  bar0 : Bar0 := {}
  /-- a warm reboot is under way (Table 22.4) -/
  frozen : Bool := false
  config : Option ConfigRec := none
  firmware : Option FwImage := none
  staged : Option FwImage := none
  /-- the boot NVMe drives on root ports 0 and 1 (R421) -/
  drive0 : Drive := {}
  drive1 : Drive := {}
  regions : List Region := []
  /-- the registry's control blocks, by capsule, and that of the continuation list (R428, R430) -/
  registry : AMap RegBlock := []
  contBlock : RegBlock := { body := [] }
  sealCache : List (List Byte × Nat) := []
  nextNumber : Nat := 1
  tallies : List Tally := []
  kept : List Kept := []
  conts : List ContEnt := []
  /-- refusal records, oldest first, as the queues' completions get them (R414) -/
  refusals : List (List Byte) := []
  /-- hashes of continuations admitted or dropped: never admitted again (R326, Table 22.5) -/
  spent : List (List Byte) := []
  admissions : List Admission := []
  /-- host "Pre-empt" commands not yet complete: request number and tag (R404) -/
  preempts : AMap Nat := []
  regReqs : List RegReq := []
  attests : List AttestReq := []
  queues : AMap CQueue := []
  /-- doorbells from `qpub` not yet seen -/
  doorbells : List Bell := []
  /-- queues the Parser has to look at (R233) -/
  looks : List Nat := []
  /-- registrations so far, and by priority the registration served last (R233) -/
  regCount : Nat := 0
  lastServed : AMap Nat := []
  /-- ready pools and hardware work queues by die, and die × 256 + hardware queue -/
  pools : AMap (List Node) := []
  workQueues : AMap WorkQueue := []
  fabric : Fabric := {}
  barriers : AMap Barrier := []
  telemetry : Telemetry := {}
  /-- what the host has been told: completions and MSI-X vectors raised, oldest first -/
  hostDone : List HostDone := []
  /-- the latest completion of a BAR2 read or atomic: its bytes, and whether it was Unsupported Request (R432) -/
  hostRead : List Byte := []
  hostUnsupported : Bool := false
  msix : List Nat := []
  deriving DecidableEq, Repr

end Sys2Proof.Machine
end

