-- ==== Sys2Proof/Machine/Sha.lean ====
section
/-!
DEFINITION. SHA-256, and the verification of RSASSA-PSS of PKCS #1 v2.2 with the parameters of 17 R322: RSA-3072, SHA-256,
MGF1 with SHA-256, a salt of 32 bytes, trailer 0xBC. Both are fixed by the standards that R322 names.
-/
namespace Sys2Proof.Machine

/-- The round constants of SHA-256. -/
def shaK : List Nat :=
    [0x428a2f98, 0x71374491, 0xb5c0fbcf, 0xe9b5dba5, 0x3956c25b, 0x59f111f1, 0x923f82a4, 0xab1c5ed5]
    ++ [0xd807aa98, 0x12835b01, 0x243185be, 0x550c7dc3, 0x72be5d74, 0x80deb1fe, 0x9bdc06a7, 0xc19bf174]
    ++ [0xe49b69c1, 0xefbe4786, 0x0fc19dc6, 0x240ca1cc, 0x2de92c6f, 0x4a7484aa, 0x5cb0a9dc, 0x76f988da]
    ++ [0x983e5152, 0xa831c66d, 0xb00327c8, 0xbf597fc7, 0xc6e00bf3, 0xd5a79147, 0x06ca6351, 0x14292967]
    ++ [0x27b70a85, 0x2e1b2138, 0x4d2c6dfc, 0x53380d13, 0x650a7354, 0x766a0abb, 0x81c2c92e, 0x92722c85]
    ++ [0xa2bfe8a1, 0xa81a664b, 0xc24b8b70, 0xc76c51a3, 0xd192e819, 0xd6990624, 0xf40e3585, 0x106aa070]
    ++ [0x19a4c116, 0x1e376c08, 0x2748774c, 0x34b0bcb5, 0x391c0cb3, 0x4ed8aa4a, 0x5b9cca4f, 0x682e6ff3]
    ++ [0x748f82ee, 0x78a5636f, 0x84c87814, 0x8cc70208, 0x90befffa, 0xa4506ceb, 0xbef9a3f7, 0xc67178f2]

/-- A big-endian number. -/
def ofBytesBE (bs : List Byte) : Nat := ofBytes bs.reverse
def toBytesBE (n x : Nat) : List Byte := (toBytes n x).reverse

def shaAdd (a b : BitVec 32) : BitVec 32 := a + b

/-- One round: the eight working words, the round constant and the word of the schedule. -/
def shaRound (s : List (BitVec 32)) (k w : BitVec 32) : List (BitVec 32) :=
  match s with
  | [a, b, c, d, e, f, g, h] =>
    let s1 := e.rotateRight 6 ^^^ e.rotateRight 11 ^^^ e.rotateRight 25
    let ch := (e &&& f) ^^^ (~~~e &&& g)
    let t1 := h + s1 + ch + k + w
    let s0 := a.rotateRight 2 ^^^ a.rotateRight 13 ^^^ a.rotateRight 22
    let maj := (a &&& b) ^^^ (a &&& c) ^^^ (b &&& c)
    [t1 + (s0 + maj), a, b, c, d + t1, e, f, g]
  | _ => s

/-- The next word of the message schedule. -/
def shaNext (ws : List (BitVec 32)) : BitVec 32 :=
  let g := fun i => ws.getD i 0
  let s0 := (g 1).rotateRight 7 ^^^ (g 1).rotateRight 18 ^^^ (g 1) >>> 3
  let s1 := (g 14).rotateRight 17 ^^^ (g 14).rotateRight 19 ^^^ (g 14) >>> 10
  s1 + g 9 + s0 + g 0

/-- The rounds over the constants left, with the 16 current words of the schedule. -/
def shaRounds : List Nat → List (BitVec 32) → List (BitVec 32) → List (BitVec 32)
  | [], _, s => s
  | k :: ks, ws, s => shaRounds ks (ws.drop 1 ++ [shaNext ws]) (shaRound s (BitVec.ofNat 32 k) (ws.getD 0 0))

/-- One 64-byte block. -/
def shaBlock (h : List (BitVec 32)) (b : List Byte) : List (BitVec 32) :=
  let ws := (List.range 16).map fun i => BitVec.ofNat 32 (ofBytesBE ((b.drop (4 * i)).take 4))
  List.zipWith shaAdd h (shaRounds shaK ws h)

def shaBlocks : Nat → List (BitVec 32) → List Byte → List (BitVec 32)
  | 0, h, _ => h
  | n + 1, h, bs => shaBlocks n (shaBlock h (bs.take 64)) (bs.drop 64)

/-- The initial hash value. -/
def shaInit : List (BitVec 32) :=
  [0x6a09e667, 0xbb67ae85, 0x3c6ef372, 0xa54ff53a, 0x510e527f, 0x9b05688c, 0x1f83d9ab, 0x5be0cd19]

/-- SHA-256 of a byte string. -/
def sha256 (m : List Byte) : List Byte :=
  let z := (119 - m.length % 64) % 64
  let p := m ++ [0x80] ++ List.replicate z 0 ++ toBytesBE 8 (8 * m.length)
  (shaBlocks (p.length / 64) shaInit p).flatMap fun w => toBytesBE 4 w.toNat

/-- MGF1 with SHA-256: n bytes. -/
def mgf1 (seed : List Byte) (n : Nat) : List Byte :=
  ((List.range ((n + 31) / 32)).flatMap fun i => sha256 (seed ++ toBytesBE 4 i)).take n

/-- b^e mod n, for the low bits of e that the first argument counts. -/
def powMod : Nat → Nat → Nat → Nat → Nat
  | 0, _, _, n => 1 % n
  | k + 1, b, e, n =>
    let r := powMod k (b * b % n) (e / 2) n
    if e % 2 = 1 then b * r % n else r

def byteXor (a b : Byte) : Byte := a ^^^ b

/-- The encoded message of a signature matches a message's hash. -/
def pssDecode (em mHash : List Byte) : Bool :=
  let masked := em.take 351
  let h := (em.drop 351).take 32
  let db := List.zipWith byteXor masked (mgf1 h 351)
  let db := (db.take 1).map (fun b => b &&& 0x7F) ++ db.drop 1
  let salt := db.drop 319
  (masked.headD 0).toNat < 128 && em.getD 383 0 == 0xBC
    && (db.take 318).all (fun b => b == 0) && db.getD 318 0 == 1
    && sha256 (List.replicate 8 0 ++ mHash ++ salt) == h

/-- RSASSA-PSS verification: modulus, exponent, message, 384-byte signature with the most significant byte first. -/
def pssVerify (n e : Nat) (m sig : List Byte) : Bool :=
  let x := ofBytesBE sig
  sig.length == 384 && decide (x < n) && pssDecode (toBytesBE 384 (powMod 32 x e n)) (sha256 m)

end Sys2Proof.Machine
end

