-- ==== Sys2Proof/Machine/Boot.lean ====
section
/-!
DEFINITION. What the firmware keeps in bytes: the boot directory (22 R421), the device's public key in DER form (17 R338),
and the control blocks of the registry with their shadows (22 R428).
-/
namespace Sys2Proof.Machine

/-! The boot directory (Table 22.1). -/

/-- Bytes 0x00 to 0x57: the active slot, and offset and length of the five areas. -/
def dirBody (active : Nat) (areas : List (Nat × Nat)) : List Byte :=
  toBytes 4 0x44425A49 ++ toBytes 2 1 ++ toBytes 1 active ++ [0] ++ areas.flatMap fun a => toBytes 8 a.1 ++ toBytes 8 a.2
/-- A directory with its checksum. -/
def dirSealed (body : List Byte) : List Byte := body ++ sha256 body ++ List.replicate 3976 0

def dirField (dir : List Byte) (off n : Nat) : Nat := ofBytes ((dir.drop off).take n)
/-- The directory passes its checks. -/
def dirOk (dir : List Byte) : Bool :=
  dir.length == 4096 && dirField dir 0 4 == 0x44425A49 && dirField dir 4 2 == 1 && decide (dirField dir 6 1 < 2)
    && dirField dir 7 1 == 0 && (List.range 10).all (fun i => dirField dir (8 + 8 * i) 8 % 4096 == 0)
    && sha256 (dir.take 0x58) == (dir.drop 0x58).take 32 && (dir.drop 0x78).all (· == 0)

/-- The drive is there and its directory passes its checks. -/
def Drive.good (d : Drive) : Bool := d.present && dirOk d.dir
def Drive.active (d : Drive) : Nat := dirField d.dir 6 1
/-- The directory with another active slot and the checksum that goes with it. -/
def Drive.setActive (d : Drive) (n : Nat) : Drive :=
  { d with dir := dirSealed (d.dir.take 6 ++ toBytes 1 n ++ (d.dir.drop 7).take 0x51) }

/-- The save-area layouts that a firmware image can read: its own version and the two before it (R422). -/
def layoutsOf (version : Nat) : List Nat := [version, version - 1, version - 2].filter (0 < ·)

/-! The public key in DER form (R338). PRESUMED (log 4): the SubjectPublicKeyInfo that an X.509 certificate carries. -/

def derLength (n : Nat) : List Byte :=
  if n < 128 then toBytesBE 1 n else if n < 256 then 0x81 :: toBytesBE 1 n else 0x82 :: toBytesBE 2 n
def derItem (tag : Nat) (body : List Byte) : List Byte := toBytesBE 1 tag ++ derLength body.length ++ body
/-- A positive number of at most n bytes, with no byte more than its sign needs. -/
def derNumber (n x : Nat) : List Byte :=
  let bs := (toBytesBE n x).dropWhile (· == 0)
  derItem 0x02 (if (bs.headD 0).toNat < 128 ∧ !bs.isEmpty then bs else 0 :: bs)
/-- rsaEncryption, with its null parameters. -/
def derRsa : List Byte :=
  derItem 0x30 (derItem 0x06 [0x2A, 0x86, 0x48, 0x86, 0xF7, 0x0D, 0x01, 0x01, 0x01] ++ derItem 0x05 [])
def publicKeyDer (modulus exponent : Nat) : List Byte :=
  derItem 0x30 (derRsa ++ derItem 0x03 (0 :: derItem 0x30 (derNumber 384 modulus ++ derNumber 8 exponent)))
def deviceKeyDer (ident : Nat) : List Byte := publicKeyDer (Config.deviceModulus ident) (Config.deviceExponent ident)

/-! Control blocks (R428). -/

/-- The bytes of a block: generation word, body, generation word. -/
def RegBlock.bytes (b : RegBlock) : List Byte := toBytes 8 b.first ++ b.body ++ toBytes 8 b.last
/-- The first n bytes of a copy of `new` over `old`. -/
def partCopy (n : Nat) (new old : List Byte) : List Byte := new.take n ++ old.drop n
/-- The block where its writer stops after `k` of the four steps and `n` bytes of the next. -/
def RegBlock.stopped (b : RegBlock) (new : List Byte) (k n : Nat) : RegBlock :=
  let g := b.first + 1
  match k with
  | 0 => { b with shadow := partCopy n b.bytes b.shadow }
  | 1 => { b with shadow := b.bytes }
  | 2 => { b with shadow := b.bytes, first := g, body := partCopy n new b.body }
  | 3 => { b with shadow := b.bytes, first := g, body := new }
  | _ => { b with shadow := b.bytes, first := g, body := new, last := g }
/-- The block written: all four steps. -/
def RegBlock.write (b : RegBlock) (new : List Byte) : RegBlock := b.stopped new 4 0
/-- What its writer has begun is done. -/
def RegBlock.settled (b : RegBlock) : RegBlock :=
  match b.next with
  | some new => { b.write new with next := none }
  | none => b
/-- A writer begins to give the block a new body. -/
def RegBlock.begin (b : RegBlock) (new : List Byte) : RegBlock := { b.settled with next := some new }
/-- A warm reboot falls upon the block: its writer, where one is at it, has made `k` steps and `n` bytes of the next. -/
def RegBlock.interrupted (b : RegBlock) (k n : Nat) : RegBlock :=
  match b.next with
  | some new => if 4 ≤ k then b.settled else b.stopped new k n
  | none => b
/-- After a warm reboot a torn block is restored whole from its shadow. -/
def RegBlock.recovered (b : RegBlock) : RegBlock :=
  if b.first = b.last then b
  else
    let n := b.shadow.length - 16
    { b with first := dirField b.shadow 0 8, body := (b.shadow.drop 8).take n, last := dirField b.shadow (8 + n) 8 }

/-- DESIGN CHOICE (log 44). A block begins with the version of the firmware whose layout it has; R430 has blocks converted to
another layout and gives none. -/
def layoutBytes (version : Nat) : List Byte := toBytes 4 version
/-- The block in the layout of another version (R430). -/
def RegBlock.converted (version : Nat) (b : RegBlock) : RegBlock :=
  let new := fun (x : List Byte) => layoutBytes version ++ x.drop 4
  if b.body.take 4 = layoutBytes version then b else { b.write (new b.body) with next := b.next.map new }
/-- The version of the firmware that runs. -/
def Chip.version (h : Chip) : Nat := match h.firmware with | some f => f.version | none => 0
/-- The save-area layout that the running image writes: its own (R422), 1 for the image at reset, as Table 21.7 has it. -/
def Chip.saveLayout (h : Chip) : Nat := match h.firmware with | some f => f.layouts.headD 1 | none => 1

/-- DESIGN CHOICE (log 44). What the registry's block of a capsule holds: the spec names the blocks and not their contents. -/
def Capsule.facts (cap : Nat) (c : Capsule) : List Byte :=
  toBytes 8 cap ++ c.sealHash ++ toBytes 4 c.seqNo ++ toBytes 4 c.acked ++ toBytes 4 c.overflow ++ toBytes 4 c.saveCount
/-- The capsule's block is to be brought up to date. DESIGN CHOICE (log 44): the writing of a block ends, at the latest, where the
next one of it begins. -/
def Chip.note (h : Chip) (cap : Nat) (c : Capsule) : Chip :=
  let new := layoutBytes h.version ++ c.facts cap
  { h with registry := h.registry.put cap ((h.registry.get { body := List.replicate new.length 0 } cap).begin new) }
/-- The continuation list changes, and its block with it (R430). -/
def Chip.setConts (h : Chip) (l : List ContEnt) : Chip :=
  { h with conts := l
           contBlock := h.contBlock.begin (layoutBytes h.version ++ l.flatMap fun e => e.hash ++ toBytes 4 e.layout) }

end Sys2Proof.Machine
end

