-- ==== Sys2Proof/Machine/State.lean ====
section
/-!
DEFINITION. The state of a pod, the two ways a step can stop, and the state after reset.
-/
namespace Sys2Proof.Machine

/-- What the next step is: a cycle of one core (its issue slot chooses an instruction), or an event of the machine.
A list of them is the model's own plain data: it stands for the order that the spec leaves to arbiters and timing. -/
inductive Move where
  | cycle (ep : Nat)
  | event (i : Instr)
  deriving DecidableEq, Repr

/-- The state of a pod. `agenda`, `tick`, `fresh`, `curCore` and `curSlot` are the model's own (log 2). -/
structure State where
  /-- the moves to come; when it is empty, `tick` chooses among the moves that are possible -/
  agenda : List Move := []
  tick : Nat := 0
  /-- the next unused number: names of firings, requests and entries, and the argument of free values (log 3) -/
  fresh : Nat := 1
  /-- the firing slot whose instruction is being performed -/
  curCore : Nat := 0
  curSlot : Nat := 0
  /-- cores by endpoint ID (Table 2.1), chips by number, capsules by `capid` (Table 18.5) -/
  cores : AMap Core := []
  chips : AMap Chip := []
  caps : AMap Capsule := []
  /-- M: HBM of every chip and host memory (R174); key 2^51 × home + address, home 64 for the host -/
  mem : Mem := []
  /-- poisoned 64-byte lines by key / 64: the bytes written since the mark (R415) -/
  poison : AMap (BitVec 64) := []
  /-- entries on their way to M; of two in one place, the later in the list is the newer (R175, R176) -/
  entries : List Entry := []
  /-- IQ(F) of every firing (R173) -/
  iq : List Item := []
  remote : List Remote := []
  /-- phasers by home endpoint × 128 + index -/
  phasers : AMap Phaser := []
  phq : List PhReq := []
  held : List HeldMsg := []
  deriving DecidableEq, Repr

/-- Why the machine stops with a fault. No fault of Table 21.1 is one: those are taken (R388 to R394). -/
inductive Fault where
  /-- raised by the meaning of an instruction of the opcode map performed for a firing slot that holds no firing:
  no step does that, since an instruction issues only from a slot that holds a firing (R257). Safe. -/
  | noFiring
  deriving DecidableEq, Repr

/-- Why a meaning is refused. -/
inductive Refusal where
  /-- raised by an arm of `exec` for an instruction that has no meaning yet. Safe. -/
  | notModelled (mnemonic : String)
  deriving DecidableEq, Repr

/-- DESIGN CHOICE (log 1). The configuration record in force at reset: a pod of one module, chip 0, with one owner key and
one tag. The spec gives the record's layout (Table 22.3) and no contents. -/
def resetConfig : ConfigRec :=
  { chip := 0, placement := false, members := 1, hash := List.replicate 32 0
    keys := [{ id := 1, dieMask := 15, exponent := 65537, modulus := 2 ^ 3071 + 1 }]
    tags := [{ tag := 1, key := 1, reserve := 2 ^ 36 }] }

/-- DESIGN CHOICE (log 1). The firmware image at reset: the spec states neither its version nor its bytes, and the firmware region
lists nothing. -/
def resetFirmware : FwImage := { version := 1, layouts := layoutsOf 1, measure := List.replicate 32 0 }

/-- DESIGN CHOICE (log 1). The boot drive on root port 0 at reset, with what the chip booted from, and the certificate of its
module (R338). -/
def resetDrive : Drive :=
  { present := true, slot0 := some resetFirmware, config := some resetConfig, certificate := some 0
    dir := dirSealed (dirBody 0 ((List.range 5).map fun i => (4096 * (i + 1), 4096))) }

/-- Chip 0 after a cold boot that took every step of Table 22.2: ready, no capsule admitted, every transmit and receive
wavelength spare since there is no peer (R359, R360). -/
def resetChip : Chip :=
  { boot := .ready, config := some resetConfig, firmware := some resetFirmware, drive0 := resetDrive
    fabric := { spare := List.range 256, rspare := List.range 256 } }

/-- The machine right after reset: a completed cold boot (R423). No capsule runs, so every core is clear: Table 17.7
is the state in which a core waits for a capsule. `cycles` is 0 (Table 18.3). Memory lists nothing. -/
def State.reset : State := { chips := [(0, resetChip)] }

end Sys2Proof.Machine
end

