-- ==== Sys2Proof/Machine/Mem.lean ====
section
/-!
DEFINITION. Byte memories in canonical form, location keys, and the named operations over them.
-/
namespace Sys2Proof.Machine

/-- DESIGN CHOICE (log 6). What a byte that nothing has written reads as. -/
def Mem.unlisted : Byte := 0

/-- The byte at an address. -/
def Mem.get : Mem → Nat → Byte
  | [], _ => Mem.unlisted
  | (k, b) :: m, a => if a = k then b else Mem.get m a

/-- The canonical form: addresses strictly rising, no entry equal to what an unlisted address reads as. -/
def Mem.wf : Mem → Bool
  | [] => true
  | (k, b) :: m => b != Mem.unlisted && (m.all fun e => k < e.1) && Mem.wf m

/-- The cells of bytes at rising addresses from a, those equal to the unlisted byte left out. -/
def Mem.cells : Nat → List Byte → Mem
  | _, [] => []
  | a, b :: bs => if b = Mem.unlisted then Mem.cells (a + 1) bs else (a, b) :: Mem.cells (a + 1) bs

/-- The memory with bytes written at addresses from a. -/
def Mem.write (m : Mem) (a : Nat) (bs : List Byte) : Mem :=
  m.filter (fun e => e.1 < a) ++ Mem.cells a bs ++ m.filter (fun e => a + bs.length ≤ e.1)

/-- n bytes from address a of cells that rise and do not lie below a. -/
def Mem.fill : Mem → Nat → Nat → List Byte
  | _, _, 0 => []
  | [], a, n + 1 => Mem.unlisted :: Mem.fill [] (a + 1) n
  | (k, b) :: m, a, n + 1 =>
    if k = a then b :: Mem.fill m (a + 1) n else Mem.unlisted :: Mem.fill ((k, b) :: m) (a + 1) n

/-- The n bytes from address a. -/
def Mem.read (m : Mem) (a n : Nat) : List Byte :=
  Mem.fill (m.filter fun e => decide (a ≤ e.1) && decide (e.1 < a + n)) a n

/-- A location's key: home 0 to 63 a chip, 64 host memory (R327). -/
def keyOf (home addr : Nat) : Nat := home * 2 ^ 51 + addr % 2 ^ 51
def homeOf (key : Nat) : Nat := key / 2 ^ 51
def addrOf (key : Nat) : Nat := key % 2 ^ 51

/-- The poison marks after n bytes at a are written (R415): a line's mark clears once every byte has been rewritten. -/
def poisonWrite (p : AMap (BitVec 64)) (a n : Nat) : AMap (BitVec 64) :=
  p.filterMap fun e =>
    let lo := max a (e.1 * 64)
    let hi := min (a + n) (e.1 * 64 + 64)
    if hi ≤ lo then some e
    else
      let m := e.2 ||| (BitVec.ofNat 64 ((2 ^ (hi - lo) - 1) * 2 ^ (lo - e.1 * 64)))
      if m = BitVec.allOnes 64 then none else some (e.1, m)

/-- Some byte of the n at a lies in a poisoned line. -/
def poisonHit (p : AMap (BitVec 64)) (a n : Nat) : Bool :=
  p.any fun e => decide (e.1 * 64 < a + n) && decide (a < e.1 * 64 + 64)

/-- The line of a location becomes poisoned, none of its bytes rewritten. -/
def poisonMark (p : AMap (BitVec 64)) (key : Nat) : AMap (BitVec 64) := p.put (key / 64) 0

/-- M after a write (R176): the bytes and the poison marks. -/
def State.writeM (s : State) (key : Nat) (bs : List Byte) : State :=
  { s with mem := s.mem.write key bs, poison := poisonWrite s.poison key bs.length }

def State.markM (s : State) (key : Nat) : State := { s with poison := poisonMark s.poison key }

/-- M's bytes, and whether they are poisoned. -/
def State.readM (s : State) (key n : Nat) : List Byte × Bool :=
  (s.mem.read key n, poisonHit s.poison key n)

end Sys2Proof.Machine
end

