-- ==== Sys2Proof/Machine/Ops.lean ====
section
/-!
DEFINITION. The named operations over the state: cores, slots, registers, capsules, extents and their checks (R67),
messages (R246, R277), firings, and taking a fault (R387 to R394) with the return from one (R398).
-/
namespace Sys2Proof.Machine

/-! Places of the state. -/

def State.core (s : State) (ep : Nat) : Core := s.cores.get {} ep
def State.setCore (s : State) (ep : Nat) (c : Core) : State := { s with cores := s.cores.put ep c }
def State.modCore (s : State) (ep : Nat) (f : Core → Core) : State := s.setCore ep (f (s.core ep))
def Core.slot (c : Core) (k : Nat) : Slot := c.slots.get {} k
def Core.setSlot (c : Core) (k : Nat) (x : Slot) : Core := { c with slots := c.slots.put k x }
def State.slot (s : State) (ep k : Nat) : Slot := (s.core ep).slot k
def State.modSlot (s : State) (ep k : Nat) (f : Slot → Slot) : State :=
  s.modCore ep fun c => c.setSlot k (f (c.slot k))
/-- The core and the slot whose instruction is being performed. -/
def State.curC (s : State) : Core := s.core s.curCore
def State.cur (s : State) : Slot := s.slot s.curCore s.curSlot
def State.modCur (s : State) (f : Slot → Slot) : State := s.modSlot s.curCore s.curSlot f
def State.modCurC (s : State) (f : Core → Core) : State := s.modCore s.curCore f
def Slot.modFiring (x : Slot) (f : Firing → Firing) : Slot := { x with firing := x.firing.map f }
def State.modF (s : State) (f : Firing → Firing) : State := s.modCur fun x => x.modFiring f

def State.chip (s : State) (c : Nat) : Chip := s.chips.get {} c
def State.modChip (s : State) (c : Nat) (f : Chip → Chip) : State := { s with chips := s.chips.put c (f (s.chip c)) }
def noCapsule : Capsule := { chip := 0 }
def State.cap (s : State) (id : Nat) : Capsule := s.caps.get noCapsule id
/-- Changes a capsule that is there. -/
def State.modCap (s : State) (id : Nat) (f : Capsule → Capsule) : State :=
  match s.caps.find id with
  | some c => { s with caps := s.caps.put id (f c) }
  | none => s
def Capsule.modActor (c : Capsule) (i : Nat) (f : Actor → Actor) : Capsule :=
  match c.actors[i]? with
  | some a => { c with actors := listSet c.actors i (f a) }
  | none => c
def State.modActor (s : State) (cap i : Nat) (f : Actor → Actor) : State := s.modCap cap fun c => c.modActor i f
def State.bump (s : State) : State := { s with fresh := s.fresh + 1 }

/-! Endpoint IDs (Table 2.1). -/

def chipOf (ep : Nat) : Nat := ep / 1024
/-- Die of the pod: chip × 4 + die. -/
def dieOf (ep : Nat) : Nat := ep / 256
def squareOf (ep : Nat) : Nat := ep / 4

/-! Registers (R41, R44, R48). -/

def Slot.sreg (x : Slot) (n : Nat) : SReg := if n = 0 then {} else x.sregs.get {} n
def Slot.vreg (x : Slot) (n : Nat) : VReg := x.vregs.get {} n
def Slot.preg (x : Slot) (n : Nat) : PReg := if n = 15 then { bits := BitVec.allOnes 256 } else x.pregs.get {} n
/-- A write that leaves the register whole clears its freed and poison flags; s0 discards it. What the register held is
an earlier value of the firing (R44). -/
def Slot.setS (x : Slot) (n : Nat) (v : Word) : Slot :=
  if n = 0 then x else { x with sregs := x.sregs.put n { val := v }, pastS := (x.sreg n).val :: x.pastS }
def Slot.setSReg (x : Slot) (n : Nat) (r : SReg) : Slot := if n = 0 then x else { x with sregs := x.sregs.put n r }
def Slot.setV (x : Slot) (n : Nat) (v : VBits) (t : Tag) : Slot :=
  { x with vregs := x.vregs.put n { bits := v, tag := t }, pastV := (x.vreg n).bits :: x.pastV }
def Slot.setVReg (x : Slot) (n : Nat) (r : VReg) : Slot := { x with vregs := x.vregs.put n r }
def Slot.setP (x : Slot) (n : Nat) (v : PBits) : Slot :=
  if n = 15 then x else { x with pregs := x.pregs.put n { bits := v }, pastP := (x.preg n).bits :: x.pastP }
def Slot.freeS (x : Slot) (n : Nat) : Slot := x.setSReg n { x.sreg n with freed := true }
def Slot.freeV (x : Slot) (n : Nat) : Slot := x.setVReg n { x.vreg n with tag := .freed }
def Slot.freeP (x : Slot) (n : Nat) : Slot :=
  if n = 15 then x else { x with pregs := x.pregs.put n { x.preg n with freed := true } }
def State.setS (s : State) (n : Nat) (v : Word) : State := s.modCur fun x => x.setS n v

def Core.sq' (c : Core) (n : Nat) : List QEnt := c.sq.get [] n
def Core.vq' (c : Core) (n : Nat) : List VQEnt := c.vq.get [] n

/-! Flags of `fstat` (Table 5.8), by bit. -/

def flagNv : BitVec 8 := 0x01
def flagDz : BitVec 8 := 0x02
def flagOf : BitVec 8 := 0x04
def flagUf : BitVec 8 := 0x08
def flagNx : BitVec 8 := 0x10
def flagSat : BitVec 8 := 0x20
def flagIdiv : BitVec 8 := 0x40
def flagTrit : BitVec 8 := 0x80
/-- Flags are sticky (R94). -/
def State.orFlags (s : State) (f : BitVec 8) : State := s.modCur fun x => { x with fstat := x.fstat ||| f }

/-! Faults (Table 21.1). -/

def fIllegal (field : Nat) : FaultInfo := ⟨0x02, BitVec.ofNat 64 field, 0⟩
def fReserved (bit : Nat) : FaultInfo := ⟨0x03, BitVec.ofNat 64 bit, 0⟩
/-- A value check of step 10. -/
def fReservedValue : FaultInfo := fReserved 0xFFFF
def fTag (field : Nat) (t : Tag) : FaultInfo := ⟨0x05, BitVec.ofNat 64 field, BitVec.ofNat 64 t.code⟩
def fBound (p : Word) (len : Nat) : FaultInfo := ⟨0x06, p, BitVec.ofNat 64 len⟩
def fPerm (p : Word) (need : Nat) : FaultInfo := ⟨0x07, p, BitVec.ofNat 64 need⟩
def fSlot (p : Word) : FaultInfo := ⟨0x08, p, 0⟩
def fData (w : Int) : FaultInfo := ⟨0x0A, toWord w, 0⟩
def fMisaligned (p : Word) (a : Nat) : FaultInfo := ⟨0x0D, p, BitVec.ofNat 64 a⟩
def fCapability (w : Word) : FaultInfo := ⟨0x0E, w, 0⟩

/-! Extents (R309, R310, R327, R346). -/

def permR : Nat := 1
def permW : Nat := 2
def permX : Nat := 4
def permA : Nat := 8
def permE : Nat := 16
def permG : Nat := 32
def Extent.has (e : Extent) (p : Nat) : Bool := e.attr.toNat &&& p == p
def Extent.isHost (e : Extent) : Bool := e.base ≥ 2 ^ 51
/-- 64 for host memory. -/
def Extent.homeKey (e : Extent) : Nat := if e.isHost then 64 else e.home
def Extent.kind (e : Extent) : OKind :=
  match bits e.attr.toNat 6 2 with
  | 0 => .strong
  | 1 => .release
  | _ => .unordered
def Extent.window (e : Extent) : Bool := bit e.attr.toNat 10
def Extent.shared (e : Extent) : Bool := bit e.attr.toNat 11
/-- Base, length and committed bytes as firing slot k sees them: slot 1 is a view (R309). -/
def Extent.viewBase (e : Extent) (x k : Nat) : Nat := if x = 1 then e.base + k * (e.length / 4) else e.base
def Extent.viewLen (e : Extent) (x : Nat) : Nat := if x = 1 then e.length / 4 else e.length
def Extent.viewComm (e : Extent) (x : Nat) : Nat := if x = 1 then e.comm / 4 else e.comm
/-- The access reaches uncommitted bytes: a view of slot 1 grows downward (R310). -/
def Extent.short (e : Extent) (x : Nat) (ea : Int) (n : Nat) : Bool :=
  if x = 1 then ea < (e.viewLen x : Int) - e.viewComm x else ea + n > e.comm
def Extent.key (e : Extent) (x k : Nat) (off : Nat) : Nat := keyOf e.homeKey (e.viewBase x k + off)

/-- A pointer's slot and offset (Table 4.3). -/
def ptrSlot (p : Word) : Nat := bits p.toNat 58 6
def ptrOff (p : Word) : Nat := bits p.toNat 0 58
def mkPtr (x : Nat) (ea : Int) : Word := BitVec.ofNat 64 (x * 2 ^ 58 + (ea % 2 ^ 58).toNat)

/-- What the checks of Table 4.4 give: the location and the extent, a fault, or growth. -/
inductive Chk where
  | ok (key : Nat) (e : Extent)
  | fail (f : FaultInfo)
  | grow (x : Nat) (upto : Int)
  deriving DecidableEq, Repr

/-- Table 4.4, in order, for an access of n bytes at offset ea through slot x of the firing slot k, alignment a, with
the permissions `need`; an extent homed on another chip needs E as well (R71). A negative offset lies outside every
extent (R62). DEDUCED (log 10): the pointer a fault reports is the slot with the offset modulo 2^58. -/
def checkAccess (c : Capsule) (k x : Nat) (ea : Int) (n a need : Nat) : Chk :=
  let p := mkPtr x ea
  match c.extents.find x with
  | none => .fail (fSlot p)
  | some e =>
    let need' := if e.homeKey = 64 ∨ e.homeKey = c.chip then need else need ||| permE
    if !e.has need' then .fail (fPerm p need')
    else if ea % a ≠ 0 then .fail (fMisaligned p a)
    else if ea < 0 ∨ ea + n > e.viewLen x then .fail (fBound p n)
    else if e.short x ea n then
      if e.has permG then .grow x (if x = 1 then ea else ea + n) else .fail (fBound p n)
    else .ok (e.key x k ea.toNat) e

/-! What a read finds (R175). -/

/-- The value entries of a place that cover a byte and may be returned as the newest. -/
def State.candidates (s : State) (p : Place) (b : Nat) : List Entry :=
  let es := s.entries.filter fun e =>
    e.place == p && e.op.isNone && decide (e.key ≤ b) && decide (b < e.key + e.bytes.length)
  match es.getLast? with
  | some e => if e.kind == .unordered && !e.fenced then es.filter fun e => e.kind == .unordered && !e.fenced else [e]
  | none => []

/-- One byte, and whether it is poisoned; `pick` chooses among candidates. -/
def State.readByte (s : State) (b pick : Nat) : List Place → Byte × Bool
  | [] => (s.mem.get b, poisonHit s.poison b 1)
  | p :: ps =>
    let es := s.candidates p b
    match es[pick % es.length]? with
    | some e => (e.bytes.getD (b - e.key) 0, e.poison)
    | none => s.readByte b pick ps

/-- n bytes of one step. -/
def State.readPath (s : State) (ps : List Place) (key pick : Nat) : Nat → List Byte × Bool
  | 0 => ([], false)
  | n + 1 =>
    let r := s.readByte key pick ps
    let t := s.readPath ps (key + 1) (pick / 64) n
    (r.1 :: t.1, r.2 || t.2)

/-- The instruction-fetch path of a chip to an extent's home, above the core's own caches (R200). -/
def fetchPlaces (chip home : Nat) : List Place := if home = chip ∨ home = 64 then [.dev chip, .pod] else [.pod]

/-! Code (R27, R54 to R57). -/

def lget (bs : List Byte) (off n : Nat) : Nat := ofBytes ((bs.drop off).take n)
def codeImageLen (code : List Byte) : Nat := lget code 8 4
/-- The execution bitmap's bit of word w; a word of the header, beyond the image or beyond the bitmap is data (R54, R56). -/
def codeMarked (code : List Byte) (w : Nat) : Bool :=
  decide (8 ≤ w ∧ 12 * w + 12 ≤ codeImageLen code) && decide (w / 8 < lget code 0x18 4)
    && bit (lget code (lget code 0x14 4 + w / 8) 1) (w % 8)
/-- The word index of entry i of the entry table (R57). -/
def codeEntry (code : List Byte) (i : Nat) : Nat := lget code (lget code 0x0C 4 + 8 * i) 4
def codeEntries (code : List Byte) : Nat := lget code 0x10 4
def codeWord (code : List Byte) (w : Nat) : Nat := lget code (12 * w) 12

/-- The checks of a fetch of word w of the code extent: those of a load (R27, R67), with no alignment of its own. -/
def fetchCheck (c : Capsule) (w : Int) : Chk := checkAccess c 0 0 (12 * w) 12 1 permX
/-- The Extent-bound fault of a fetch of word w. -/
def fetchBound (w : Int) : FaultInfo := fBound (mkPtr 0 (12 * w)) 12
/-- The growth that a fetch of word w asks for first (step 5 of Table 4.4). -/
def fetchGrowth (c : Capsule) (w : Int) : Option (Nat × Int) :=
  match fetchCheck c w with
  | .grow x upto => some (x, upto)
  | _ => none
/-- Steps 1 and 2 of Table 3.10 for word w of the code extent: the word, or the fault. -/
def fetchImage (c : Capsule) (code : List Byte) (w : Int) : Except FaultInfo Nat :=
  match fetchCheck c w with
  | .fail f => .error f
  | .grow _ _ => .error (fetchBound w)
  | .ok _ _ => if !codeMarked code w.toNat then .error (fData w) else .ok (codeWord code w.toNat)

/-- The firing runs in its inline-code buffer, not in the code image: its trap handler runs in the image. -/
def Firing.inInline (f : Firing) : Bool := f.inline.isSome && f.trap.isNone

/-- The fetch of a firing's word w: an inline firing fetches its own buffer, and a word past it is data (R225). -/
def fetchWord (s : State) (ep : Nat) (f : Firing) (w : Int) : Except FaultInfo Nat :=
  match f.inline, f.trap with
  | some b, none =>
    let ws := (s.core ep).inlineBufs.get [] b
    if w < 0 then .error (fetchBound w)
    else match ws[w.toNat]? with
      | some x => .ok x.toNat
      | none => .error (fData w)
  | _, _ => fetchImage (s.cap f.cap) f.code w

/-- The bits of the word a fault names: a word marked as data has its bits, one past the image those that its extent holds, as
they stand on the fetch path, and one that the checks of its fetch keep from being read, or that lies past an inline-code
buffer, has none: they are recorded as 0. DESIGN CHOICE (log 47): R387 gives a named word's bits, and none for a word that
cannot be fetched. -/
def rawWord (s : State) (ep : Nat) (f : Firing) (w : Int) : Nat :=
  match f.inline, f.trap with
  | some b, none => if w < 0 then 0 else (((s.core ep).inlineBufs.get [] b)[w.toNat]?.getD 0).toNat
  | _, _ => match fetchCheck (s.cap f.cap) w with
    | .ok key e =>
      if 12 * w.toNat + 12 ≤ f.code.length then codeWord f.code w.toNat
      else ofBytes (s.readPath (fetchPlaces (chipOf ep) e.homeKey) key s.tick 12).1
    | _ => 0

/-! Readiness and messages (R246, R247, R250, R251). -/

/-- Stamp a is before stamp b. -/
def stampBefore (a b : Nat) : Bool :=
  let d := (b + 2 ^ 32 - a % 2 ^ 32) % 2 ^ 32
  decide (1 ≤ d) && decide (d ≤ 2 ^ 31 - 1)
/-- The stamps folded in order, starting from the first. -/
def foldStamps (dflt : Nat) : List Nat → Nat
  | [] => dflt
  | x :: xs => xs.foldl (fun a b => if stampBefore b a then b else a) x

/-- The messages the next firing of an actor would have reserved, in mailbox order. -/
def Actor.nextMsgs (a : Actor) : List Msg := a.boxes.flatMap fun e => e.2.msgs.take e.2.count
def Actor.isMessage (a : Actor) : Bool := a.boxes.any fun e => e.2.ty == 2
/-- Every input mailbox holds its count, and there is one. -/
def Actor.fed (a : Actor) : Bool := !a.boxes.isEmpty && a.boxes.all fun e => decide (e.2.count ≤ e.2.msgs.length)

/-- Puts an actor's firing into its core's ready set, as its newest member. One that a move has saved and not yet installed is
ready, and goes into the ready set of the core it comes to (R246, R406). -/
def State.makeReady (s : State) (cap i : Nat) : State :=
  let c := s.cap cap
  match c.actors[i]? with
  | none => s
  | some a =>
    let job := if a.isMessage then Job.message i else Job.actor i
    let s := s.modActor cap i fun a => { a with state := .ready }
    if a.moving && (c.movedPriv.find i).isSome then s
    else s.modCore a.ep fun k => { k with
      ready := k.ready ++ [{ job := job, cap := cap, stamp := foldStamps c.deadline (a.nextMsgs.map Msg.stamp) }] }

/-- Tests an armed actor for readiness (R246). -/
def State.testActor (s : State) (cap i : Nat) : State :=
  match (s.cap cap).actors[i]? with
  | some a => if a.state = .armed && a.fed then s.makeReady cap i else s
  | none => s

/-- The mailbox that an address names (Table 14.4), in a capsule. -/
def Capsule.box (c : Capsule) (addr : Nat) : Option Mailbox :=
  match c.actors[addr / 16]? with
  | some a => a.boxes.find (addr % 16)
  | none => none
def Capsule.boxTy (c : Capsule) (addr : Nat) : Option Nat := (c.box addr).map Mailbox.ty
/-- The mailbox's actor is being moved: its messages wait (Table 21.6). -/
def Capsule.moving (c : Capsule) (addr : Nat) : Bool :=
  match c.actors[addr / 16]? with
  | some a => a.moving
  | none => false
/-- Every firing slot of the core is free. -/
def Core.slotsFree (c : Core) : Bool := (List.range Config.slotCount).all fun k => (c.slot k).firing.isNone
/-- Every firing of a capsule that is being parked has ended (R392): what comes for a full mailbox of it waits in a gateway,
and is saved behind the mailbox's messages. DEDUCED (log 38). -/
def State.ranOut (s : State) (cap : Nat) : Bool :=
  match (s.cap cap).state with
  | .parking _ => (s.cap cap).cores.all fun e => (s.core e).slotsFree
  | _ => false
/-- The mailbox has room now, behind `ahead` messages on their way to it. -/
def State.boxRoom (s : State) (cap addr : Nat) (ahead : Nat := 0) : Bool :=
  let c := s.cap cap
  match c.box addr with
  | some b => decide (b.msgs.length + ahead < Config.mailboxDepth) && !c.moving addr
  | none => false
/-- A core that is being vacated empties its streams and engines (Table 21.5, step 3): what it sends to an actor being
moved goes into the mailbox while that actor is not saved (23 R436), unless an earlier message of the core waits. -/
def State.emptiesInto (s : State) (ep cap addr : Nat) : Bool :=
  let c := s.cap cap
  (s.core ep).vacating && c.moving addr && (c.movedPriv.find (addr / 16)).isNone
    && (match c.box addr with | some b => decide (b.msgs.length < Config.mailboxDepth) | none => false)
    && !s.held.any fun h => h.src == .gateway (chipOf ep) && h.cap == cap && h.addr == addr
/-- A message of a core that is being vacated for an actor being moved: where it may not go into the mailbox, it is held
in the chip's gateway until step 7 (Table 21.6), so that step 3 ends (R407). DEDUCED (log 39). So is one for a capsule
whose park waits for its streams and engines alone (log 38). -/
def State.passesOn (s : State) (ep cap addr : Nat) : Bool := ((s.core ep).vacating && (s.cap cap).moving addr) || s.ranOut cap

/-- The message becomes the newest of its mailbox, and the actor is tested. -/
def State.place (s : State) (cap addr : Nat) (m : Msg) : State :=
  let s := s.modActor cap (addr / 16) fun a =>
    match a.boxes.find (addr % 16) with
    | some b => { a with boxes := a.boxes.put (addr % 16) { b with msgs := b.msgs ++ [m] } }
    | none => a
  s.testActor cap (addr / 16)

/-- The core whose engine or crossbar holds the message. -/
def HeldAt.core : HeldAt → Option Nat
  | .porter ep _ | .matrix ep | .term ep _ => some ep
  | .gateway _ | .firmware _ _ => none
/-- The message may be placed now: the mailbox has room, or its source stands on a core that is being vacated. -/
def State.mayPlace (s : State) (src : HeldAt) (cap addr : Nat) : Bool :=
  s.boxRoom cap addr || src.core.any fun e => s.emptiesInto e cap addr
/-- Where the message waits: at its source, or in the gateway (Table 14.13, Table 21.6). -/
def State.heldAt (s : State) (src : HeldAt) (cap addr : Nat) : HeldAt :=
  match src.core with
  | some e => if s.passesOn e cap addr then .gateway (chipOf e) else src
  | none => src
/-- Posts a message that is not a send's: at once, or held at its source behind its source's earlier ones for the same
mailbox (R277). The mailbox must be there. -/
def State.post (s : State) (src : HeldAt) (cap addr : Nat) (m : Msg) : State :=
  if s.mayPlace src cap addr && !(s.held.any fun h => h.src = src && h.cap = cap && h.addr = addr) then s.place cap addr m
  else { s with held := s.held ++ [{ src := s.heldAt src cap addr, cap := cap, addr := addr, msg := m }] }

def mkMsg (w0 w1 w2 w3 : Word) (stamp : Nat) : Msg := { w0 := w0, w1 := w1, w2 := w2, w3 := w3, stamp := stamp }

/-! Firings that end. -/

/-- A firing's claims end with it where it is its own holder (R137). -/
def Core.dropClaims (c : Core) (fir : Nat) : Core :=
  { c with banks := c.banks.map fun e => (e.1, if e.2.claim = .firing fir then { e.2 with claim := .free } else e.2) }

/-- The entries that a firing pushed leave their queues. DEDUCED (log 52): the queue-register entries that belong to a firing
(R249) are those it pushed, though every slot of the core may pop them (R50). -/
def Core.dropQueued (c : Core) (fir : Nat) : Core :=
  { c with sq := c.sq.map fun e => (e.1, e.2.filter fun q => q.fir != fir)
           vq := c.vq.map fun e => (e.1, e.2.filter fun q => q.fir != fir) }

/-- Frees the slot and what belongs to the firing alone: no register and no queue-register entry survives its end (R249). -/
def State.clearSlot (s : State) (ep k : Nat) (f : Firing) : State :=
  s.modCore ep fun c =>
    let c := (c.dropClaims f.id).dropQueued f.id
    let c := match f.inline with
      | some b => { c with inlineBufs := c.inlineBufs.del b }
      | none => c
    { c with phWaits := c.phWaits.filter fun w => w.fir != f.id }.setSlot k { c.slot k with firing := none, wait := .none }

/-- The mailbox without the messages reserved for the ending firing (R247). -/
def Actor.discard (a : Actor) : Actor :=
  { a with boxes := a.boxes.map fun e => (e.1, { e.2 with msgs := e.2.msgs.filter fun m => !m.reserved }) }

/-- The oldest entry held for an actor of work queue q of a die (R263). -/
def Actor.heldOf (a : Actor) (die q : Nat) : Option HeldEntry := a.held.find? fun e => e.die == die && e.q == q
/-- The queue of a die that a capsule's work queue q is bound to (R263). -/
def Chip.boundQueue (c : Chip) (die q cap : Nat) : Option Nat :=
  (c.workQueues.find? fun e => e.2.cap == cap && e.2.die == die && e.2.q == q).map Prod.fst

/-- The end of a firing once its slot is settled (R79, R247, R249): the slot is free, reserved messages not removed are
discarded, the actor is re-armed and tested, or waits at its `pop.w` unless an entry of that queue is held for it by now or
the queue is closed (R263). -/
def State.endFiring (s : State) (ep k : Nat) (f : Firing) (popw : Option (Nat × Nat)) : State :=
  let s := s.clearSlot ep k f
  match f.kind with
  | .task | .node => s
  | _ =>
    let s := s.modActor f.cap f.actor fun a =>
      { a.discard with state := .armed, fired := a.fired || a.boxes.isEmpty }
    match popw with
    | none => s.testActor f.cap f.actor
    | some (die, q) =>
      let held := match (s.cap f.cap).actors[f.actor]? with | some a => (a.heldOf die q).isSome | none => false
      let ch := s.chip (chipOf ep)
      let closed := match ch.boundQueue die q f.cap with
        | some h => match ch.workQueues.find h with | some w => w.closed | none => false
        | none => false
      if held || closed then s.makeReady f.cap f.actor
      else s.modActor f.cap f.actor fun a => { a with state := .waiting die q }

/-- Every register write of the firing has completed (R79). -/
def State.settled (s : State) (f : Firing) : Bool :=
  (s.iq.all fun i => i.fir != f.id || i.dst == .none) && (s.phq.all fun r => r.cap != f.cap || r.dst == .none
      || !(s.slot r.ep r.slot).firing.any fun g => g.id == f.id)
    && s.cores.all fun e => e.2.phWaits.all fun w => w.fir != f.id || w.dst == .none

/-- Messages the firing removed that were reserved for it, put back ahead of later ones (R392). -/
def Actor.restore (a : Actor) (taken : List (Nat × Msg)) : Actor :=
  { a with boxes := a.boxes.map fun e =>
      (e.1, { e.2 with msgs := (taken.filter fun t => t.1 = e.1 && t.2.reserved).map Prod.snd ++ e.2.msgs }) }

/-- A mailbox that messages put back have filled past its depth (R14): the newest of its messages wait in the chip's gateway,
ahead of every other, as those of R413 do. DEDUCED (log 38): R392 gives the messages back and R14 holds 8. -/
def State.spill (s : State) (cap i : Nat) : State :=
  let c := s.cap cap
  match c.actors[i]? with
  | none => s
  | some a =>
    let late : List HeldMsg := a.boxes.flatMap fun e => (e.2.msgs.drop Config.mailboxDepth).map fun m =>
      { src := .gateway c.chip, cap := cap, addr := i * 16 + e.1, msg := m }
    { s.modActor cap i fun a => { a with boxes := a.boxes.map fun e => (e.1, { e.2 with msgs := e.2.msgs.take Config.mailboxDepth }) } with
      held := late ++ s.held }

/-- An atomic performed early and not committed (R187). -/
def Item.held (i : Item) : Bool :=
  match i.act with
  | .amo _ _ _ _ _ _ _ (some e) => e.old.isSome
  | _ => false

/-- A faulting or stopped firing leaves its slot; a held write goes with it (R187). In a park its reserved messages go back and its actor is armed (R392). -/
def State.leave (s : State) (ep k : Nat) (f : Firing) : State :=
  let s := s.clearSlot ep k f
  let s := { s with iq := s.iq.filter fun i => i.fir != f.id || !i.held }
  match f.kind with
  | .task | .node => s
  | _ => (s.modActor f.cap f.actor fun a =>
      let a := a.restore f.taken
      { a with state := .armed
               boxes := a.boxes.map fun e => (e.1, { e.2 with msgs := e.2.msgs.map fun m => { m with reserved := false } }) }).spill
      f.cap f.actor

/-- Adds a record to those the Errors core has to deliver (R388, R389), and counts it (R419). -/
def State.addRecord (s : State) (r : FaultRec) : State :=
  let n := (s.cap r.cap).seqNo + 1
  let s := s.modCap r.cap fun c => { c with seqNo := n, records := c.records ++ [{ r with seq := n }] }
  s.modChip (chipOf r.ep) fun h =>
    let t := h.telemetry
    { h with telemetry := { t with
        codes := t.codes.put (r.ep * 32 + r.code) (t.codes.get 0 (r.ep * 32 + r.code) + 1)
        classes := t.classes.put (r.ep * 8 + r.cls) (t.classes.get 0 (r.ep * 8 + r.cls) + 1) } }

/-- The record of a fault outside any firing (R395). -/
def outsideRecord (cap ep : Nat) (code act : Nat) (i0 i1 : Word) (source owner : Nat) : FaultRec :=
  { code := code, cls := 3, action := act, nested := false, word := 0xFFFFFFFF, cap := cap, ep := ep, actor := 0xFFFF
    slot := 0xFF, fkind := 0xFF, seq := 0, stamp := 0, info0 := i0, info1 := i1
    info2 := BitVec.ofNat 64 source, info3 := BitVec.ofNat 64 owner }

/-! Policies (R390 to R392, R395). -/

/-- A policy's action that firmware has to take waits while a warm reboot is under way (Table 22.4); terminate comes before
park. -/
def Capsule.ask (c : Capsule) (x : CState) : Capsule :=
  { c with asked := if x = .terminating ∨ c.asked.isNone then some x else c.asked }

/-- Terminate: dispatch stops and every running firing stops issuing at once (R391). A capsule whose park has written its
continuation image has no more to stop (R420). -/
def State.terminate (s : State) (cap : Nat) : State :=
  let c := s.cap cap
  if c.state = .terminating ∨ c.parked then s
  else if (s.chip c.chip).frozen then s.modCap cap fun c => c.ask .terminating
  else
    let s := s.modCap cap fun c => { c with state := .terminating }
    let s := s.modChip c.chip fun h =>
      { h with telemetry := { h.telemetry with terminations := h.telemetry.terminations + 1 } }
    (c.cores ++ c.shadows).foldl (fun s ep =>
      let s := (List.range Config.slotCount).foldl (fun s k =>
        match (s.slot ep k).firing with
        | some f => f.unknown.foldl (fun s u =>
            s.addRecord (outsideRecord cap ep 0x12 0 u.ptr (BitVec.ofNat 64 u.opcode) 3 ep)) (s.leave ep k f)
        | none => s) s
      s.modCore ep fun k => { k with ready := [], vacating := false }) s

/-- Park: dispatch is withheld, and running firings run out (R392). -/
def State.park (s : State) (cap reason : Nat) : State :=
  let c := s.cap cap
  match c.state with
  | .running =>
    if (s.chip c.chip).frozen then s.modCap cap fun c => c.ask (.parking reason)
    else s.modCap cap fun c => { c with state := .parking reason }
  | _ => s

/-- Park becomes terminate where there is no continuation slot (R390). -/
def Capsule.action (c : Capsule) (act : Nat) : Nat :=
  if c.state = .terminating then 0 else if act = 1 ∧ c.contSlot = 0xFF then 0 else act

/-- A fault outside any firing, from a source of R387, under the outside action (R395); `owner` is the core that owns the
source. -/
def State.faultOutside (s : State) (cap ep : Nat) (code : Nat) (i0 i1 : Word) (source : Nat)
    (owner : Nat := ep) : State :=
  match s.caps.find cap with
  | none => s
  | some c =>
    let act := c.action (bits c.policy 2 2)
    let s := s.addRecord (outsideRecord cap ep code act i0 i1 source owner)
    if act = 0 then s.terminate cap else if act = 1 then s.park cap 2 else s

/-- Outcomes that came to be unknown while the firing was leaving its slot are reported outside any firing (R226). -/
def State.reportUnknown (s : State) (ep : Nat) (f : Firing) : State :=
  f.unknown.foldl (fun s u => s.faultOutside f.cap ep 0x12 u.ptr (BitVec.ofNat 64 u.opcode) 3) s

/-- A RAS report of the chip of core ep (R415); vector 1 tells of it (R431). -/
def State.ras (s : State) (ep : Nat) : State :=
  s.modChip (chipOf ep) fun h => { h with
    telemetry := { h.telemetry with rasReports := h.telemetry.rasReports + 1 }, msix := h.msix ++ [1] }

/-- Posts a status message to a mailbox of one of the types allowed; a mailbox of another type, or none, is reported as
Capability-refused outside any firing (R220, R245, R296). A capsule that is gone receives nothing. -/
def State.postTyped (s : State) (src : HeldAt) (cap addr : Nat) (types : List Nat) (m : Msg) (ep source : Nat) : State :=
  match s.caps.find cap with
  | none => s
  | some c =>
    match c.boxTy addr with
    | some t => if types.contains t then s.post src cap addr m
        else s.faultOutside cap ep 0x0E (BitVec.ofNat 64 addr) 0 source
    | none => s.faultOutside cap ep 0x0E (BitVec.ofNat 64 addr) 0 source

/-! Taking a fault in a firing. -/

def FKind.code : FKind → Nat
  | .actor => 0
  | .message => 1
  | .task => 2
  | .node => 3

/-- Fault classes (Table 21.2). -/
def clsPrecise : Nat := 0
def clsImprecise : Nat := 1
def clsDeferred : Nat := 2
def clsTrap : Nat := 4
def clsMismatch : Nat := 6

/-- The record of a fault in a firing (Table 21.2): `word` and its bits are those of the word the fault names. -/
def faultRecord (ep k : Nat) (x : Slot) (f : Firing) (i : FaultInfo) (cls : Nat) (word : Int) (raw act : Nat) :
    FaultRec :=
  { code := i.code, cls := cls, action := act, nested := f.trap.isSome, word := (word % 2 ^ 32).toNat, cap := f.cap
    ep := ep, actor := f.actor, slot := k, fkind := f.kind.code, seq := 0, stamp := x.dline.toNat
    info0 := i.i0, info1 := i.i1, info2 := BitVec.ofNat 64 raw, info3 := BitVec.ofNat 64 (raw / 2 ^ 64) }

/-- The trap handler's first word is fetched, or its fetch fault's code (R394); growth is asked for when it issues. -/
def handlerFetch (s : State) (f : Firing) (w : Nat) : Except Nat Unit :=
  if (fetchGrowth (s.cap f.cap) w).isSome then .ok ()
  else match fetchImage (s.cap f.cap) f.code w with
  | .error e => .error e.code
  | .ok raw => if bits raw 86 10 = 0 then .error 0x00 else if bits raw 86 10 = 0x3FF then .error 0x0A else .ok ()

/-- The fetch of the trap entry's first word faults with `code`: Handler-fetch, whatever the policy says (R394). `r` is the
record of the fault that called the handler, `e` the entry's index and `w` its word. -/
def State.handlerFails (s : State) (ep k : Nat) (f : Firing) (r : FaultRec) (e w code : Nat) : State :=
  let s := s.addRecord { r with code := 0x11, cls := 0, action := 0, nested := true, word := w % 2 ^ 32
                                info0 := BitVec.ofNat 64 e, info1 := BitVec.ofNat 64 code, info2 := 0, info3 := 0 }
  ((s.leave ep k f).terminate f.cap).reportUnknown ep f

/-- The entry of the code image that handles the capsule's faults (Table 21.3). -/
def Capsule.trapEntry (c : Capsule) : Nat := bits c.policy 8 8

/-- A firing that faults while it ends at a `pop.w` has not ended: its actor is no waiter. DEDUCED (log 50) from R280, which
registers the actor behind the firing's end; an entry that came to it before is held for its next `pop`. -/
def State.withdraw (s : State) (ep k : Nat) : State :=
  match (s.slot ep k).wait, (s.slot ep k).firing with
  | .ending (some (die, q)), some f => s.modChip (chipOf ep) fun h => { h with workQueues := h.workQueues.map fun e =>
      (e.1, if e.2.cap = f.cap ∧ e.2.die = die ∧ e.2.q = q then { e.2 with waiters := e.2.waiters.erase f.actor } else e.2) }
  | _, _ => s

/-- TAKING A FAULT in the firing of a slot (R387 to R394), the one operation by which every fault is taken. `word` is
the word it names and `raw` that word's bits, `ret` the word `tret #0` returns to. The record is queued for the Errors core and the policy's
action begins at once: terminate, park, or the handler, which starts in this slot with the trap state set, the detail
words in `fltinfo0` to `fltinfo3` and every other register as it was. A fault with the trap state set is nested. -/
def State.takeFaultRaw (s : State) (ep k : Nat) (i : FaultInfo) (cls : Nat) (word : Int) (raw : Nat) (ret : Int) : State :=
  let s := s.withdraw ep k
  let x := s.slot ep k
  match x.firing with
  | none => s
  | some f =>
    let c := s.cap f.cap
    let want := if f.trap.isSome then (if bit c.policy 4 then 1 else 0)
      else if cls = clsMismatch ∧ bits c.policy 0 2 = 2 then 0 else bits c.policy 0 2
    let act := c.action want
    let r := faultRecord ep k x f i cls word raw act
    let s := s.addRecord r
    if act = 2 then
      let r := { r with seq := (s.cap f.cap).seqNo }
      let e := c.trapEntry
      let w := codeEntry f.code e
      match handlerFetch s f w with
      | .ok _ =>
        let t : TrapState :=
          { record := r, retWord := ret, budget := i.code == 0x0B
            resumeNext := cls == clsPrecise || cls == clsDeferred || cls == clsTrap }
        s.modSlot ep k fun x => { x with
          firing := some { f with trap := some t, pc := w, budget := if i.code = 0x0B then 4096 else f.budget }
          wait := .none, fltinfo0 := r.info0, fltinfo1 := r.info1, fltinfo2 := r.info2, fltinfo3 := r.info3 }
      | .error code => s.handlerFails ep k f r e w code
    else
      let s := s.leave ep k f
      (if act = 1 then s.park f.cap (if f.trap.isSome then 3 else 2) else s.terminate f.cap).reportUnknown ep f

/-- A fault of the firing of a slot that names a word of the code it is running. -/
def State.takeFault (s : State) (ep k : Nat) (i : FaultInfo) (cls : Nat) (word ret : Int) : State :=
  match (s.slot ep k).firing with
  | none => s
  | some f => s.takeFaultRaw ep k i cls word (rawWord s ep f word) ret

/-- RETURN FROM A FAULT, `tret #k` for k of 0 or 1 with the trap state set (R398): the trap state clears, the detail
registers become 0, and the next word is the return word, or for k = 1 after a precise, deferred or software fault the
one behind it. -/
def Slot.tret (x : Slot) (t : TrapState) (k : Nat) : Slot :=
  let next := if k = 1 && t.resumeNext then t.retWord + 1 else t.retWord
  { x with
    firing := x.firing.map fun f => { f with trap := none, pc := next }
    fltinfo0 := 0, fltinfo1 := 0, fltinfo2 := 0, fltinfo3 := 0 }

/-! Loops (R271). -/

/-- AtEnd of the word at e: the loop stack (top first) and the next word. -/
def atEnd (e : Int) : List LoopEnt → List LoopEnt × Int
  | [] => ([], e + 1)
  | l :: ls =>
    if l.last = e then
      if l.count - 1 ≠ 0 then ({ l with count := l.count - 1 } :: ls, l.start) else atEnd e ls
    else (l :: ls, e + 1)

/-! The L store (R75). -/

/-- L-store poison marks (R147): per byte, kept by line. -/
def lpoisonSet (p : AMap (BitVec 64)) (a n : Nat) (on : Bool) : AMap (BitVec 64) :=
  let first := a / 64
  (List.range ((a + n + 63) / 64 - first)).foldl (fun p i =>
    let line := first + i
    let lo := max a (line * 64)
    let hi := min (a + n) (line * 64 + 64)
    let m : BitVec 64 := BitVec.ofNat 64 ((2 ^ (hi - lo) - 1) * 2 ^ (lo - line * 64))
    let old : BitVec 64 := p.get 0 line
    let new := if on then old ||| m else old &&& ~~~m
    if new = 0 then p.del line else p.put line new) p
def lpoisonHit (p : AMap (BitVec 64)) (a n : Nat) : Bool :=
  p.any fun e =>
    let lo := max a (e.1 * 64)
    let hi := min (a + n) (e.1 * 64 + 64)
    decide (lo < hi) && (e.2 &&& BitVec.ofNat 64 ((2 ^ (hi - lo) - 1) * 2 ^ (lo - e.1 * 64))) != 0

/-- The lines an L-store write touches, added to a rising list. -/
def addLines (ls : List Nat) (a n : Nat) : List Nat :=
  (List.range ((a + n + 63) / 64 - a / 64)).foldl (fun (ls : List Nat) i =>
    let l := a / 64 + i
    if ls.contains l then ls else ls.filter (· < l) ++ [l] ++ ls.filter (l < ·)) ls

/-- A write to the L store, its bytes poisoned or not. -/
def Core.lwrite (c : Core) (a : Nat) (bs : List Byte) (poison : Bool) : Core :=
  { c with
    lstore := c.lstore.write a bs
    lpoison := if c.lpoison.isEmpty && !poison then [] else lpoisonSet c.lpoison a bs.length poison
    lwritten := addLines c.lwritten a bs.length }

def Core.lread (c : Core) (a n : Nat) : List Byte × Bool := (c.lstore.read a n, lpoisonHit c.lpoison a n)

/-- The checks of R75 for n bytes at ea, alignment a. -/
def checkL (ea : Int) (n a : Nat) : Option FaultInfo :=
  if ea % a ≠ 0 then some (fMisaligned (toWord ea) a)
  else if ea < 0 ∨ ea + n > Config.lBytes then some (fBound (toWord ea) n)
  else none

end Sys2Proof.Machine
end

