-- ==== Sys2Proof/Machine/Operands.lean ====
section
/-!
DEFINITION. Operands and issue: reading the fields of an instruction, its guard, the checks of step 9 of Table 3.10,
last use, queue registers, and the one combinator through which every instruction issues.
-/
namespace Sys2Proof

/-- Element width in bytes (Table 4.2); 1 for the freed and poison tags, which have no entry there (R69). -/
def Tag.width : Tag → Nat
  | .i16 | .n16 | .f16 | .bf16 => 2
  | .i32 | .n32 | .f32 => 4
  | .i64 | .n64 | .f64 => 8
  | _ => 1

/-- Field 0 D, 1 A, 2 B. -/
def Ops.field (o : Ops) : Nat → Operand
  | 0 => o.d
  | 1 => o.a
  | _ => o.b

/-- A wide form's operands: field D alone is one (R38). -/
def Wide.ops (o : Wide) : Ops := { hdr := o.hdr, mods := Mods.plain, d := o.d, a := .none, b := .none }

end Sys2Proof

namespace Sys2Proof.Machine

/-- A field's value as read. A scalar carries whether the register was freed and whether it is poisoned. -/
inductive Val where
  | none
  | s (w : Word) (freed poison : Bool)
  | v (b : VBits) (t : Tag) (freed : Bool)
  | p (b : PBits) (freed : Bool)
  | tile (n : Nat)
  | special (n : Nat)
  | imm (w : Word)
  deriving DecidableEq, Repr

def Val.word : Val → Word
  | .s w _ _ => w
  | .imm w => w
  | _ => 0
def Val.vbits : Val → VBits
  | .v b _ _ => b
  | _ => 0
def Val.tag : Val → Tag
  | .v _ t _ => t
  | _ => .raw
def Val.pbits : Val → PBits
  | .p b _ => b
  | _ => 0
def Val.num : Val → Nat
  | .tile n => n
  | .special n => n
  | _ => 0
def Val.isV : Val → Bool
  | .v _ _ _ => true
  | _ => false
def Val.isImm : Val → Bool
  | .imm _ => true
  | _ => false

/-- What an instruction reads: its three fields, and the slot as it stood before any last use freed a register (R43),
for the registers that no field names; `at_` is the number under which freed registers are read. -/
structure Vals where
  d : Val
  a : Val
  b : Val
  old : Slot := {}
  at_ : Nat := 0
  deriving DecidableEq, Repr

/-- The value a default-mode read of a freed register returns (R44): one that some register of its class holds or held
in this firing, or zero; which is free. -/
def freedS (k : Nat) (x : Slot) (n : Nat) : Word :=
  ((x.sregs.map fun e => e.2.val) ++ x.pastS)[Config.freedPick (k * 64 + n)]?.getD 0
def freedV (k : Nat) (x : Slot) (n : Nat) : VBits :=
  ((x.vregs.map fun e => e.2.bits) ++ x.pastV)[Config.freedPick (k * 64 + n)]?.getD 0
def freedP (k : Nat) (x : Slot) (n : Nat) : PBits :=
  ((x.pregs.map fun e => e.2.bits) ++ x.pastP)[Config.freedPick (k * 64 + n)]?.getD 0

/-- A scalar register's value as an instruction reads it, freed registers under the number k. -/
def readS (k : Nat) (x : Slot) (n : Nat) : Word :=
  let r := x.sreg n
  if r.freed then freedS k x n else r.val
/-- The bits of a vector register as it stands. -/
def readV (k : Nat) (x : Slot) (n : Nat) : VBits :=
  let r := x.vreg n
  if r.tag = .freed then freedV k x n else r.bits
/-- A scalar register that no field names, as the instruction reads it (R43, R269). -/
def Vals.reg (v : Vals) (n : Nat) : Word := readS v.at_ v.old n
/-- The four registers of a block (R269). -/
def Vals.four (v : Vals) (n : Nat) : Word × Word × Word × Word := (v.reg n, v.reg (n + 1), v.reg (n + 2), v.reg (n + 3))

/-- One field read as a source; nothing when it has to wait: for a pending result, or for a queue entry (R49, R257).
The core is the one after the field's pop. -/
def readField (k : Nat) (x : Slot) (c : Core) : Operand → Option (Val × Core)
  | .none => some (.none, c)
  | .s n _ =>
    let r := x.sreg n.val
    if r.pend.isSome then none else some (.s (readS k x n.val) r.freed r.poison, c)
  | .v n _ =>
    let r := x.vreg n.val
    if r.pend.isSome then none
    else some (.v (readV k x n.val) r.tag (r.tag == .freed), c)
  | .p n _ =>
    let r := x.preg n.val
    some (.p (if r.freed then freedP k x n.val else r.bits) r.freed, c)
  | .tile n => some (.tile n.val, c)
  | .special n => some (.special n.val, c)
  | .imm v => some (.imm (BitVec.signExtend 64 v), c)
  | .q n =>
    if n.val < 12 then
      match c.sq' n.val with
      | [] => none
      | e :: es => if e.pend.isSome then none else some (.s e.val false e.poison, { c with sq := c.sq.put n.val es })
    else
      match c.vq' n.val with
      | [] => none
      | e :: es => if e.pend.isSome then none else some (.v e.bits e.tag false, { c with vq := c.vq.put n.val es })

/-- A field named as a destination can take its result: no earlier write to it is pending, and a queue has a free entry
(R49, R257). -/
def destFree (x : Slot) (c : Core) : Operand → Bool
  | .s n _ => (x.sreg n.val).pend.isNone
  | .v n _ => (x.vreg n.val).pend.isNone
  | .q n => if n.val < 12 then decide ((c.sq' n.val).length < 16) else decide ((c.vq' n.val).length < 4)
  | _ => true

/-- Last use of one source field (R43). -/
def freeField (x : Slot) : Operand → Slot
  | .s n true => x.freeS n.val
  | .v n true => x.freeV n.val
  | .p n true => x.freeP n.val
  | _ => x

/-- How an instruction takes its guard (R28, R29). -/
inductive GuardKind where
  | scalar
  /-- by element; without a type modifier the width is that of the tag of field 0 D, 1 A or 2 B -/
  | elem (field : Nat)
  /-- by element of this width -/
  | fixed (w : Nat)
  deriving DecidableEq, Repr

/-- What an instruction's issue needs to know beyond its form. -/
structure Spec where
  op : Nat
  guard : GuardKind := .scalar
  /-- field D, though a source, is written as well -/
  dDst : Bool := false
  /-- further scalar registers read, with their field (blocks, R269, and the register pairs) -/
  reads : Ops → List (Nat × Nat) := fun _ => []
  /-- further scalar registers written -/
  writes : Ops → List Nat := fun _ => []
  /-- further vector registers read, with their field, and written (register groups, R97) -/
  vreads : Ops → List (Nat × Nat) := fun _ => []
  vwrites : Ops → List Nat := fun _ => []
  /-- fields whose freed, poison and tag checks are not made (R402) -/
  unchecked : List Nat := []
  /-- tile operands read as sources -/
  tiles : Ops → List (Nat × Nat) := fun _ => []
  /-- the first operand in the order D, A, B whose tag is not accepted (R47) -/
  tags : State → Ops → Vals → Option (Nat × Tag) := fun _ _ _ => none

/-- What the meaning of an instruction comes to once it may issue. -/
inductive Eff where
  /-- its effect is done; execution goes on after AtEnd -/
  | ok (s : State)
  /-- control is transferred -/
  | jump (s : State) (target : Int)
  /-- it issues and stays the slot's next instruction: the slot's wait decides when it completes -/
  | hold (s : State)
  /-- it cannot issue yet; nothing changes -/
  | wait
  /-- step 5 of Table 4.4, with the fault of growth that is not backed -/
  | grow (x : Nat) (upto : Int) (f : FaultInfo)
  | trap (f : FaultInfo) (cls : Nat)

def Eff.fault (f : FaultInfo) : Eff := .trap f clsPrecise

/-- The tag that issue checks see on a slot or tile (R141): that of the last queued operation that writes it. -/
def MatKind.dest : MatKind → List Nat
  | .tfill x _ _ => [x]
  | .tdrain _ _ => []
  | .tscale x _ => [x]
  | .tzero c => [c]
  | .mma c _ _ => [c]
  | .mmaj _ _ _ => [16, 17, 18, 19, 20, 21, 22, 23]
  | .tmov d _ => [d]
  | .tnarrow d _ _ _ _ => [d]
  | .ttr d _ => [d]
  | .ttrit d _ _ => [d]
def MatKind.srcs : MatKind → List Nat
  | .tfill _ _ _ => []
  | .tdrain y _ => [y]
  | .tscale _ _ => []
  | .tzero _ => []
  | .mma c a w => [c, a, w]
  | .mmaj a w _ => [a, w, w + 1, 16, 17, 18, 19, 20, 21, 22, 23]
  | .tmov _ a => [a]
  | .tnarrow _ c _ _ _ => [c]
  | .ttr _ a => [a]
  | .ttrit _ a _ => [a]
def Core.bank (c : Core) (n : Nat) : Bank := c.banks.get {} n
def Core.tile (c : Core) (n : Nat) : Tile := c.tiles.get {} n
/-- The completed tag of a tile value of Table 3.4. -/
def Core.doneTag (c : Core) (n : Nat) : Tag := if n < 16 then (c.bank n).tag else (c.tile (n - 16)).tag
def Core.issueTag (c : Core) (n : Nat) : Tag :=
  (c.mq.filter fun o => o.op.dest.contains n).foldl (fun _ o => o.wtag) (c.doneTag n)

/-- The guard bits (R28). -/
def guardBits (s : State) (x : Slot) (h : Hdr) : PBits :=
  let r := x.preg h.guard.val
  let g := if r.freed then freedP s.fresh x h.guard.val else r.bits
  if h.neg then ~~~g else g

/-- The tag of a data operand before it is read, for the element width (R29); nothing while it is pending. `skip` counts
the entries of its queue that earlier fields pop. -/
def peekTag (x : Slot) (c : Core) (skip : Nat) : Operand → Option Tag
  | .v n _ => let r := x.vreg n.val; if r.pend.isSome then none else some r.tag
  | .q n => if n.val < 12 then some .raw else
    match (c.vq' n.val).drop skip with
    | e :: _ => if e.pend.isSome then none else some e.tag
    | [] => none
  | _ => some .raw

/-- The element width of the guard; nothing while it has to wait; 0 for a scalar guard. -/
def guardWidth (g : GuardKind) (r : Row) (x : Slot) (c : Core) (o : Ops) : Option Nat :=
  match g with
  | .scalar => some 0
  | .fixed w => some w
  | .elem f => match o.mods.ty with
    | some t => some t.width
    | none =>
      let skip := if f = 1 && r.dSrc o.shape && o.d == o.a then 1 else 0
      (peekTag x c skip (o.field f)).map Tag.width

/-- Element i of width w is active. -/
def active (g : PBits) (w i : Nat) : Bool := g.getLsbD (i * w)
/-- The active elements of a register. -/
def actives (g : PBits) (w : Nat) : List Nat := (List.range (256 / w)).filter (active g w)
/-- The guard lets the instruction act: bit 0, or some element. -/
def guardTrue (g : PBits) (w : Nat) : Bool := if w = 0 then g.getLsbD 0 else (List.range (256 / w)).any (active g w)

/-- Two fields name the same register. -/
def sameReg (p q : Operand) : Bool := p.kind == q.kind && p.num == q.num && (p.kind == .s || p.kind == .v || p.kind == .p)
/-- Frees what the last-use bits of the source fields name, but not a register that is also written (R43). -/
def freeSources (r : Row) (written : Bool) (x : Slot) (o : Ops) : Slot :=
  let keep := fun p => written && sameReg p o.d
  let x := if r.dSrc o.shape && !keep o.d then freeField x o.d else x
  let x := if r.aDst || keep o.a then x else freeField x o.a
  if keep o.b then x else freeField x o.b

/-- Step 9 for one field: the freed check under strict last use. -/
def Val.freedFault (f n : Nat) : Val → Option FaultInfo
  | .s _ true _ | .v _ _ true | .p _ true => some ⟨0x04, BitVec.ofNat 64 f, BitVec.ofNat 64 n⟩
  | _ => Option.none
def Val.poisonFault (f n : Nat) : Val → Option FaultInfo
  | .s _ _ true | .v _ .poison _ => some ⟨0x0C, BitVec.ofNat 64 f, BitVec.ofNat 64 n⟩
  | _ => Option.none

/-- The sources of an instruction in the order D, A, B, a block's registers after the field that names it; field 3
stands for a register that no field names (`ret`, `trap`). -/
def sources (sp : Spec) (x : Slot) (o : Ops) (v : Vals) : List (Nat × Nat × Val) :=
  let blk := fun f => ((sp.reads o).filter (fun e => e.1 = f)).map fun e =>
    (f, e.2, Val.s (v.reg e.2) (x.sreg e.2).freed (x.sreg e.2).poison)
  let vblk := fun f => ((sp.vreads o).filter (fun e => e.1 = f)).map fun e =>
    (f, e.2, Val.v (x.vreg e.2).bits (x.vreg e.2).tag ((x.vreg e.2).tag == .freed))
  let one := fun (f : Nat) (val : Val) => if sp.unchecked.contains f then [] else [(f, (o.field f).num, val)]
  one 0 v.d ++ blk 0 ++ one 1 v.a ++ blk 1 ++ vblk 1 ++ one 2 v.b ++ blk 2 ++ blk 3

/-- Step 9 of Table 3.10: freed under strict last use, then poison, then tags. -/
def step9 (sp : Spec) (s : State) (c : Core) (x : Slot) (strict : Bool) (o : Ops) (v : Vals) : Option FaultInfo :=
  let src := sources sp x o v
  let fr := if strict then src.findSome? fun e => e.2.2.freedFault e.1 e.2.1 else none
  let tl := (sp.tiles o).filterMap fun e =>
    if c.issueTag e.2 = .poison then some (e.1, (⟨0x0C, BitVec.ofNat 64 e.1, BitVec.ofNat 64 e.2⟩ : FaultInfo)) else none
  let po := [0, 1, 2, 3].findSome? fun f =>
    match (src.filter fun e => e.1 = f).findSome? fun e => e.2.2.poisonFault e.1 e.2.1 with
    | some i => some i
    | none => (tl.find? fun e => e.1 = f).map Prod.snd
  match fr with
  | some i => some i
  | none => match po with
    | some i => some i
    | none => (sp.tags s o v).map fun e => fTag e.1 e.2

/-- The hints and the issue order after an instruction issues (R31, R259): `cycles` counts the current cycle. After a yield the
slot is chosen only if no other can issue, one dispatched in the same cycle among them. -/
def Core.issued (c : Core) (k : Nat) (h : Hdr) : Core :=
  let t := c.cycles.toNat + 1
  let run := if c.lastSlot = k ∧ c.lastCycle + 1 = t ∧ c.runLen < 256 then c.runLen + 1 else 1
  let x := c.slot k
  let x := { x with delay := if h.delay.val = 0 then 0 else h.delay.val + 1
                    age := if h.yield || run = 256 then 2 * t + 1 else x.age, issuedAt := t }
  { c.setSlot k x with lastSlot := k, runLen := if h.yield then 256 else run, lastCycle := t }

def State.issued (s : State) (h : Hdr) : State := s.modCurC fun c => c.issued s.curSlot h

/-- The next word after AtEnd (R271). -/
def State.advance (s : State) : State :=
  s.modF fun f => let r := atEnd f.pc f.loops; { f with loops := r.1, pc := r.2 }

/-- A fault of the instruction being performed, which names its own word. -/
def State.trapHere (s : State) (f : FaultInfo) (cls : Nat) : State :=
  match s.cur.firing with
  | some g => s.takeFault s.curCore s.curSlot f cls g.pc g.pc
  | none => s

def plainHdr : Hdr := { neg := false, guard := 15, delay := 0, yield := false, likely := false, cache := 0 }

/-- How an instruction's outcome changes the state it issued in: `s0` is that state (R52). -/
def Eff.run (h : Hdr) (s0 : State) : Eff → State
  | .ok s => (s.modCur fun x => { x with wait := .none }).advance.issued h
  | .jump s t => (s.modF fun f => { f with pc := t }).issued h
  | .hold s => s.issued h
  | .wait => s0
  | .grow x upto f => (s0.modCur fun k => { k with wait := .growth x upto f }).issued plainHdr
  | .trap f cls => (s0.trapHere f cls).issued plainHdr

/-- What steps 8 and 9 of Table 3.10 and the waits of R257 come to for an instruction in the current slot. -/
inductive AtIssue where
  /-- the slot holds no firing -/
  | noFiring
  /-- the guard lets nothing act (R28, R30) -/
  | skip
  /-- it cannot issue yet (R49, R257) -/
  | wait
  /-- step 8 or step 9 raises a fault -/
  | fault (i : FaultInfo)
  /-- it issues: the state with the pops made and the last uses freed, the values read, and the guard bits -/
  | go (s1 : State) (v : Vals) (g : PBits)

/-- Under strict last use the read of a freed guard predicate is a fault too (R44, R303, R311). DESIGN CHOICE (log 21): it is
raised as step 8 reads the guard, with 3 for the field, since a guard is none of D, A and B. -/
def guardFault (strict : Bool) (x : Slot) (h : Hdr) : Option FaultInfo :=
  if strict && (x.preg h.guard.val).freed then some ⟨0x04, 3, BitVec.ofNat 64 h.guard.val⟩ else none

/-- The three fields read in the order D, A, B, and the core with their pops made. -/
def readFields (r : Row) (k : Nat) (x : Slot) (c : Core) (o : Ops) : Option (Vals × Core) :=
  match readField k x c (if r.dSrc o.shape then o.d else .none) with
  | none => none
  | some (vd, c1) => match readField k x c1 (if r.aDst then .none else o.a) with
    | none => none
    | some (va, c2) => match readField k x c2 o.b with
      | none => none
      | some (vb, c3) => some ({ d := vd, a := va, b := vb, old := x, at_ := k }, c3)

/-- A register the instruction names beyond its fields is pending, or a destination is not free (R257). -/
def busy (sp : Spec) (r : Row) (x : Slot) (c : Core) (o : Ops) : Bool :=
  (sp.reads o).any (fun e => (x.sreg e.2).pend.isSome)
    || (sp.writes o).any (fun n => (x.sreg n).pend.isSome)
    || (sp.vreads o).any (fun e => (x.vreg e.2).pend.isSome)
    || (sp.vwrites o).any (fun n => (x.vreg n).pend.isSome)
    || !((r.dSrc o.shape && !sp.dDst) || destFree x c o.d) || !(!r.aDst || destFree x c o.a)

/-- The current slot's instruction at issue: its guard (step 8, R30, R44), its waits, its reads and pops, step 9, last use. -/
def ready (sp : Spec) (o : Ops) (s : State) : AtIssue :=
  let c := s.curC
  let x := s.cur
  match x.firing, rowOf sp.op with
  | none, _ => .noFiring
  | _, none => .noFiring
  | some f, some r =>
    let g := guardBits s x o.hdr
    match guardFault (s.cap f.cap).strict x o.hdr with
    | some i => .fault i
    | none =>
    if g = 0 then .skip
    else match guardWidth sp.guard r x c o with
    | none => .wait
    | some w =>
      if !guardTrue g w then .skip
      else match readFields r s.fresh x c o with
        | none => .wait
        | some (v, c3) =>
          if busy sp r x c o then .wait
          else match step9 sp s c x (s.cap f.cap).strict o v with
            | some i => .fault i
            | none => .go { s.setCore s.curCore (c3.setSlot s.curSlot (freeSources r (!r.dSrc o.shape || sp.dDst) x o)) with
                            fresh := s.fresh + 1 } v g

/-- An instruction whose guard lets nothing act: its last uses free, and execution goes on (R30). -/
def State.skipped (s : State) (op : Nat) (o : Ops) : State :=
  match rowOf op with
  | some r => s.modCur fun x => freeSources r false x o
  | none => s

/-- The capsule and firing of the instruction being performed. -/
def State.curF (s : State) : Firing :=
  match s.cur.firing with
  | some f => f
  | none => { id := 0, cap := 0, kind := .task, actor := 0xFFFF, stage := 0, stamp := 0, pc := 0, budget := 0
              budget0 := 0, code := [] }
def State.curCap (s : State) : Capsule := s.cap s.curF.cap
/-- Execution goes on at the next word; AtEnd is never applied to a `loop` word, whatever its guard (R271). -/
def skipEff (op : Nat) (s : State) : Eff := if op = 0x00D then .jump s (s.curF.pc + 1) else .ok s

/-- Issue of an instruction in the current slot: where it may act, `eff` is its own description (step 10 and its effect). -/
def issue (sp : Spec) (o : Ops) (eff : State → Vals → PBits → Eff) (s : State) : Host.Outcome State Fault Refusal :=
  match ready sp o s with
  | .noFiring => .fault .noFiring
  | .skip => .next (Eff.run o.hdr s (skipEff sp.op (s.skipped sp.op o)))
  | .wait => .next s
  | .fault i => .next (Eff.run o.hdr s (.trap i clsPrecise))
  | .go s1 v g => .next (Eff.run o.hdr s (eff s1 v g))

/-- Issue of a wide form: field D alone is an operand (R38). -/
def issueWide (sp : Spec) (o : Wide) (eff : State → Vals → PBits → Eff) (s : State) : Host.Outcome State Fault Refusal :=
  issue sp o.ops eff s

/-! Results. -/

/-- Writes a scalar result to a field named as destination (R41, R49). -/
def State.putS (s : State) (d : Operand) (v : Word) : State :=
  match d with
  | .s n _ => s.setS n.val v
  | .q n => s.modCurC fun c => { c with sq := c.sq.put n.val (c.sq' n.val ++ [{ val := v, poison := false, pend := none, fir := s.curF.id }]) }
  | _ => s

/-- Writes a predicate. -/
def State.putP (s : State) (d : Operand) (v : PBits) : State :=
  match d with
  | .p n _ => s.modCur fun x => x.setP n.val v
  | _ => s

/-- Bytes of the active elements of width w come from `new`, the others from `old`. -/
def mergeElems (g : PBits) (w : Nat) (new old : VBits) : VBits :=
  vofElems w fun i => velem w (if active g w i then new else old) i

/-- Writes a vector result under an element guard (R29): inactive elements keep their previous bits, or are zero in a
queue entry; a write with some elements inactive does not free. -/
def State.putV (s : State) (d : Operand) (g : PBits) (w : Nat) (v : VBits) (t : Tag) : State :=
  match d with
  | .v n _ =>
    s.modCur fun x => x.setV n.val (mergeElems g w v (readV s.fresh x n.val)) t
  | .q n => s.modCurC fun c =>
      { c with vq := c.vq.put n.val (c.vq' n.val ++ [{ bits := mergeElems g w v 0, tag := t, pend := none, fir := s.curF.id }]) }
  | _ => s

/-- The destination waits for the request `id` (R257): its old bits stay until the result comes. -/
def State.pendD (s : State) (d : Operand) (id : Nat) (t : Tag) : State :=
  match d with
  | .s n _ => s.modCur fun x =>
      let r := x.sreg n.val
      x.setSReg n.val { r with pend := some id, freed := false, poison := false }
  | .v n _ => s.modCur fun x =>
      x.setVReg n.val { bits := readV s.fresh x n.val, tag := t, pend := some id }
  | .q n =>
    if n.val < 12 then s.modCurC fun c =>
      { c with sq := c.sq.put n.val (c.sq' n.val ++ [{ val := 0, poison := false, pend := some id, fir := s.curF.id }]) }
    else s.modCurC fun c =>
      { c with vq := c.vq.put n.val (c.vq' n.val ++ [{ bits := 0, tag := t, pend := some id, fir := s.curF.id }]) }
  | _ => s

/-- Where a field's result goes. s0 discards it. -/
def dstOf : Operand → Dst
  | .s n _ => if n.val = 0 then .none else .s n.val
  | .v n _ => .v n.val
  | .q n => .q n.val
  | _ => .none

/-- A scalar register takes the result it waits for: one freed since stays freed; one that waits no longer keeps its
value. -/
def Slot.arriveS (x : Slot) (n id : Nat) (v : Word) (poison : Bool) : Slot :=
  let r := x.sreg n
  if r.pend = some id then
    Slot.setSReg { x with pastS := r.val :: x.pastS } n { val := v, freed := r.freed, poison := poison, pend := none }
  else x
def Slot.arriveV (x : Slot) (n id : Nat) (v : VBits) (t : Tag) : Slot :=
  let r := x.vreg n
  if r.pend = some id then
    Slot.setVReg { x with pastV := r.bits :: x.pastV } n
      { bits := v, tag := if r.tag = .freed then .freed else t, pend := none }
  else x

/-- Changes a slot and the copies of it that early atomics keep for a replay (R187). -/
def State.modSlotKept (s : State) (ep k : Nat) (f : Slot → Slot) : State :=
  { s.modSlot ep k f with iq := s.iq.map fun i =>
      if i.ep = ep ∧ i.slot = k then
        match i.act with
        | .amo op ty key b cmp use q (some e) => { i with act := .amo op ty key b cmp use q (some { e with slot := f e.slot }) }
        | _ => i
      else i }

/-- The result of request `id` arrives at its destination (R50, R72). -/
def State.arriveS (s : State) (ep k : Nat) (d : Dst) (id : Nat) (v : Word) (poison : Bool) : State :=
  match d with
  | .s n => s.modSlotKept ep k fun x => x.arriveS n id v poison
  | .q n => s.modCore ep fun c =>
      { c with sq := c.sq.put n ((c.sq' n).map fun e =>
          if e.pend = some id then { e with val := v, poison := poison, pend := none } else e) }
  | _ => s
def State.arriveV (s : State) (ep k : Nat) (d : Dst) (id : Nat) (v : VBits) (t : Tag) : State :=
  match d with
  | .v n => s.modSlotKept ep k fun x => x.arriveV n id v t
  | .q n => s.modCore ep fun c =>
      { c with vq := c.vq.put n ((c.vq' n).map fun e =>
          if e.pend = some id then { e with bits := v, tag := t, pend := none } else e) }
  | _ => s

/-- An acquire of the firing is still to be performed: no later engine request is (R183). -/
def State.acqPending (s : State) : Bool := s.iq.any fun i => i.fir == s.curF.id && i.acq

end Sys2Proof.Machine
end

