-- ==== Sys2Proof/Machine/Flags.lean ====
section
/-!
DEFINITION. Arithmetic to the bit: integers with wrap and saturation (R81, R108), the floating-point formats (R82 to
R84), the block formats (R86, R87), packed ternary (R89), rounding with its flags (R90 to R92), and conversion (R98).
-/
namespace Sys2Proof

/-- Integer tags (Table 5.1). -/
def Tag.isInt : Tag → Bool
  | .i8 | .n8 | .i16 | .n16 | .i32 | .n32 | .i64 | .n64 => true
  | _ => false
def Tag.isSigned : Tag → Bool
  | .i8 | .i16 | .i32 | .i64 => true
  | _ => false
def Tag.isFloat : Tag → Bool
  | .f16 | .bf16 | .f32 | .f64 => true
  | _ => false
/-- A scalar element format of Table 5.1 or 5.2. -/
def Tag.isScalarFormat (t : Tag) : Bool := t.isInt || t.isFloat || t == .e4m3 || t == .e5m2
def Tag.isMx : Tag → Bool
  | .mxf8e4 | .mxf8e5 | .mxf6e2 | .mxf6e3 | .mxf4 | .mxi8 => true
  | _ => false
def Tag.isLb : Tag → Bool
  | .lb8 | .lb5 | .lb3 => true
  | _ => false

end Sys2Proof

namespace Sys2Proof.Machine

/-! Integers. -/

/-- The low 8w bits of a number read as a value of T (R108). -/
def iread (t : Tag) (x : Nat) : Int :=
  if t.isSigned then signed (8 * t.width) x else (bits x 0 (8 * t.width) : Nat)
/-- The range of an integer type (Table 5.1). -/
def imin (t : Tag) : Int := if t.isSigned then -2 ^ (8 * t.width - 1) else 0
def imax (t : Tag) : Int := if t.isSigned then 2 ^ (8 * t.width - 1) - 1 else 2 ^ (8 * t.width) - 1
/-- `Sat(v, T)`, and whether it clamped (R81). -/
def sat (t : Tag) (v : Int) : Int × Bool :=
  if v < imin t then (imin t, true) else if v > imax t then (imax t, true) else (v, false)
/-- The low 8w bits of an exact result under the overflow mode, with the flag `sat` (R108). -/
def narrow (t : Tag) (saturate : Bool) (v : Int) : Nat × BitVec 8 :=
  if saturate then let r := sat t v; (wrapTo (8 * t.width) r.1, if r.2 then flagSat else 0)
  else (wrapTo (8 * t.width) v, 0)
/-- An element's bits as a register holds them: sign-extended for i8, i16, i32, else zero-extended (R108). -/
def iwide (t : Tag) (x : Nat) : Word :=
  match t with
  | .i8 | .i16 | .i32 => toWord (signed (8 * t.width) x)
  | _ => BitVec.ofNat 64 (bits x 0 (8 * t.width))

/-- The number of leading zero bits among w. -/
def clzN (w x : Nat) : Nat := w - (bits x 0 w).log2 - (if bits x 0 w = 0 then 0 else 1)
/-- Structural: the position of the lowest one bit among n, or n. -/
def ctzN : Nat → Nat → Nat
  | 0, _ => 0
  | n + 1, x => if x % 2 = 1 then 0 else 1 + ctzN n (x / 2)
def popcN : Nat → Nat → Nat
  | 0, _ => 0
  | n + 1, x => x % 2 + popcN n (x / 2)

/-- The bit width of a number. -/
def blen (m : Nat) : Nat := if m = 0 then 0 else m.log2 + 1

/-! Floating point. -/

/-- A decoded element: a NaN, an infinity, or the number (−1)^neg × m × 2^e, zero when m = 0. -/
inductive FV where
  | nan (signalling : Bool)
  | inf (neg : Bool)
  | fin (neg : Bool) (m : Nat) (e : Int)
  deriving DecidableEq, Repr

/-- A floating-point element format (Table 5.2). -/
structure FFmt where
  ebits : Nat
  fbits : Nat
  bias : Nat
  /-- the top exponent code holds infinities and NaNs -/
  inf : Bool
  /-- the single NaN of e4m3 -/
  oneNan : Bool := false
  /-- bf16: subnormals are flushed (R83) -/
  flush : Bool := false
  deriving DecidableEq, Repr

def fmtF64 : FFmt := { ebits := 11, fbits := 52, bias := 1023, inf := true }
def fmtF32 : FFmt := { ebits := 8, fbits := 23, bias := 127, inf := true }
def fmtF16 : FFmt := { ebits := 5, fbits := 10, bias := 15, inf := true }
def fmtBf16 : FFmt := { ebits := 8, fbits := 7, bias := 127, inf := true, flush := true }
def fmtE4m3 : FFmt := { ebits := 4, fbits := 3, bias := 7, inf := false, oneNan := true }
def fmtE5m2 : FFmt := { ebits := 5, fbits := 2, bias := 15, inf := true }
def fmtE2m3 : FFmt := { ebits := 2, fbits := 3, bias := 1, inf := false }
def fmtE3m2 : FFmt := { ebits := 3, fbits := 2, bias := 3, inf := false }
def fmtE2m1 : FFmt := { ebits := 2, fbits := 1, bias := 1, inf := false }

/-- The format of a scalar floating-point tag, and of the elements of an MX tag (Table 5.3). -/
def fmtOf : Tag → FFmt
  | .f64 => fmtF64
  | .f32 => fmtF32
  | .f16 => fmtF16
  | .bf16 => fmtBf16
  | .e4m3 | .mxf8e4 => fmtE4m3
  | .e5m2 | .mxf8e5 => fmtE5m2
  | .mxf6e2 => fmtE2m3
  | .mxf6e3 => fmtE3m2
  | .mxf4 => fmtE2m1
  | _ => fmtF32

def FFmt.width (f : FFmt) : Nat := 1 + f.ebits + f.fbits
def FFmt.top (f : FFmt) : Nat := 2 ^ f.ebits - 1
/-- Exponent of the least significant bit of a subnormal. -/
def FFmt.emin (f : FFmt) : Int := 1 - (f.bias : Int) - f.fbits

/-- The value of an element (R82, R83). -/
def decodeF (f : FFmt) (x : Nat) : FV :=
  let neg := bit x (f.ebits + f.fbits)
  let e := bits x f.fbits f.ebits
  let fr := bits x 0 f.fbits
  if f.inf && e == f.top then (if fr = 0 then .inf neg else .nan (!bit fr (f.fbits - 1)))
  else if f.oneNan && e == f.top && fr == 2 ^ f.fbits - 1 then .nan false
  else if e = 0 then (if f.flush then .fin neg 0 0 else .fin neg fr f.emin)
  else .fin neg (2 ^ f.fbits + fr) ((e : Int) - f.bias - f.fbits)

/-- The canonical NaN (Table 5.2). -/
def canonF (f : FFmt) : Nat :=
  if f.oneNan then 2 ^ (f.ebits + f.fbits) - 1 else f.top * 2 ^ f.fbits + 2 ^ (f.fbits - 1)
def infF (f : FFmt) (neg : Bool) : Nat := neg.toNat * 2 ^ (f.ebits + f.fbits) + f.top * 2 ^ f.fbits
def zeroF (f : FFmt) (neg : Bool) : Nat := neg.toNat * 2 ^ (f.ebits + f.fbits)
def maxF (f : FFmt) (neg : Bool) : Nat :=
  neg.toNat * 2 ^ (f.ebits + f.fbits) +
    (if f.inf then f.top * 2 ^ f.fbits - 1 else if f.oneNan then 2 ^ (f.ebits + f.fbits) - 2
      else 2 ^ (f.ebits + f.fbits) - 1)

/-- Rounding modes (Table 5.6); a stochastic draw u goes with SR. -/
inductive RMode where
  | rne | rtz | rup | rdn | rna
  | sr (u : Nat)
  deriving DecidableEq, Repr

/-- The mode of a mode field, dynamic mode taken from `fctl.rm` (Tables 5.6, 5.7). SR takes its draw later. -/
def rmodeOf (field rm : Nat) : RMode :=
  match field with
  | 0 => match rm with
    | 1 => .rtz
    | 2 => .rup
    | 3 => .rdn
    | 4 => .rna
    | _ => .rne
  | 2 => .rtz
  | 3 => .rup
  | 4 => .rdn
  | 5 => .rna
  | _ => .rne

/-- One rounding step: whether m × 2^sh units, cut to its whole part, is raised by one. `sticky` says that the value
lies strictly above the number m. -/
def roundUp (md : RMode) (neg : Bool) (m sh : Nat) (sticky : Bool) : Bool :=
  let lo := m % 2 ^ sh
  let inexact := lo != 0 || sticky
  let half := 2 ^ (sh - 1)
  match md with
  | .rne => sh != 0 && (decide (lo > half) || (lo == half && (sticky || m / 2 ^ sh % 2 == 1)))
  | .rna => sh != 0 && decide (lo ≥ half)
  | .rtz => false
  | .rup => inexact && !neg
  | .rdn => inexact && neg
  | .sr u => decide (u < lo * 2 ^ 16 / 2 ^ sh)

/-- The bits that mode md gives for the exact value (−1)^neg × m × 2^e, or one strictly between it and m + 1 when
`sticky`, with the flags `of`, `uf`, `nx` (R90 to R92); `block` saturates (R91). The value is not zero. DEDUCED
(log 11): tininess after rounding is that of a result rounded with an unbounded exponent. -/
def roundF (f : FFmt) (block : Bool) (md : RMode) (neg : Bool) (m0 : Nat) (e0 : Int) (sticky : Bool) : Nat × BitVec 8 :=
  -- room below the last bit, so that a sticky value is cut above its last bit
  let k := if sticky then f.fbits + 8 + (e0 - f.emin).toNat else 0
  let m := m0 * 2 ^ k
  let e := e0 - k
  let msb := e + blen m - 1
  let q := max (msb - f.fbits) f.emin
  let sh := (q - e).toNat
  let base := if q ≤ e then m * 2 ^ (e - q).toNat else m / 2 ^ sh
  let inexact := decide (m % 2 ^ sh ≠ 0) || sticky
  let r0 := base + (roundUp md neg m sh sticky).toNat
  let r := if r0 = 2 ^ (f.fbits + 1) then 2 ^ f.fbits else r0
  let q := if r0 = 2 ^ (f.fbits + 1) then q + 1 else q
  let field := (q + f.fbits + f.bias).toNat
  let shU := (msb - f.fbits - e).toNat
  let tiny := decide (msb < 1 - (f.bias : Int))
    && !(decide (msb = -(f.bias : Int)) && decide (m / 2 ^ shU + (roundUp md neg m shU sticky).toNat = 2 ^ (f.fbits + 1)))
  let nx := if inexact then flagNx else 0
  if r < 2 ^ f.fbits then
    if f.flush then (zeroF f neg, flagUf ||| flagNx)
    else (zeroF f neg + r, if inexact && tiny then flagNx ||| flagUf else nx)
  else
    let big := if f.inf then decide (field ≥ f.top)
      else decide (field > f.top) || (f.oneNan && field == f.top && r == 2 ^ (f.fbits + 1) - 1)
    if big then
      let big := block || !f.inf || (match md with
        | .rtz => true
        | .rup => neg
        | .rdn => !neg
        | _ => false)
      (if big then maxF f neg else infF f neg, flagOf ||| flagNx)
    else (zeroF f neg + field * 2 ^ f.fbits + (r - 2 ^ f.fbits), if inexact && tiny then flagNx ||| flagUf else nx)

/-- `Round` of an exact dyadic value. -/
def roundFin (f : FFmt) (block : Bool) (md : RMode) (neg : Bool) (m : Nat) (e : Int) : Nat × BitVec 8 :=
  if m = 0 then (zeroF f neg, 0) else roundF f block md neg m e false

/-- Rounding to an integer: the integer, and whether it is inexact (R90). -/
def roundInt (md : RMode) (neg : Bool) (m : Nat) (e : Int) : Int × Bool :=
  if e ≥ 0 then ((if neg then -1 else 1) * ((m * 2 ^ e.toNat : Nat) : Int), false)
  else
    let sh := (-e).toNat
    let r := m / 2 ^ sh + (roundUp md neg m sh false).toNat
    ((if neg then -1 else 1) * (r : Int), m % 2 ^ sh != 0)

/-- The exact integer m × 2^(e − lo) of a number, with its sign. -/
def FV.scaled (neg : Bool) (m : Nat) (e lo : Int) : Int := (if neg then -1 else 1) * ((m * 2 ^ (e - lo).toNat : Nat) : Int)

/-- The sum of two numbers, exact; a zero sum is +0, or −0 under RDN or when both are −0 (R127). -/
def addFin (rdn : Bool) (na : Bool) (ma : Nat) (ea : Int) (nb : Bool) (mb : Nat) (eb : Int) : Bool × Nat × Int :=
  let lo := min ea eb
  let x := FV.scaled na ma ea lo + FV.scaled nb mb eb lo
  if x = 0 then (if ma = 0 ∧ mb = 0 ∧ na = nb then (na, 0, 0) else (rdn, 0, 0))
  else (decide (x < 0), x.natAbs, lo)

/-- The integer square root, digit by digit over n binary digits of the root. -/
def isqrtGo : Nat → Nat → Nat → Nat
  | 0, _, r => r
  | n + 1, x, r =>
    let c := r + 2 ^ n
    isqrtGo n x (if c * c ≤ x then c else r)
def isqrt (x : Nat) : Nat := isqrtGo (blen x / 2 + 1) x 0

/-- A value cut to m × 2^e, `sticky` when something lies above it. -/
structure Cut where
  neg : Bool
  m : Nat
  e : Int
  sticky : Bool

/-- a / b to n or more bits. -/
def divCut (n : Nat) (neg : Bool) (ma : Nat) (ea : Int) (mb : Nat) (eb : Int) : Cut :=
  let k := n + blen mb
  ⟨neg, ma * 2 ^ k / mb, ea - eb - k, ma * 2 ^ k % mb != 0⟩
/-- √(m × 2^e) to n or more bits. -/
def sqrtCut (n : Nat) (m : Nat) (e : Int) : Cut :=
  let odd := e % 2 = 1
  let m := if odd then 2 * m else m
  let e := if odd then e - 1 else e
  let x := m * 2 ^ (2 * n)
  let r := isqrt x
  ⟨false, r, e / 2 - n, r * r != x⟩
/-- 1 / √(m × 2^e) to n or more bits. -/
def rsqrtCut (n : Nat) (m : Nat) (e : Int) : Cut :=
  let odd := e % 2 = 1
  let m := if odd then 2 * m else m
  let e := if odd then e - 1 else e
  let k := n + blen m
  let x := 2 ^ (2 * k) / m
  let r := isqrt x
  ⟨false, r, -(e / 2) - k, !(2 ^ (2 * k) % m == 0 && r * r == x)⟩

/-- The product over the one bits of a fraction, most significant first, of the successive square roots of two, in
fixed point with p bits below the point. Every factor and product is cut, so the result lies at most 10 units a bit
below the exact power. -/
def exp2Go (p : Nat) : Nat → Nat → Nat → Nat → Nat
  | 0, _, _, t => t
  | n + 1, fr, root, t =>
    let root := isqrt (root * 2 ^ p)
    exp2Go p n fr root (if bit fr n then t * root / 2 ^ p else t)
/-- 2^(fr / 2^n) for 0 < fr < 2^n, cut so that the cut is certain; `fuel` raises the precision until it is. -/
def exp2Frac : Nat → Nat → Nat → Nat → Nat × Nat
  | 0, p, _, _ => (2 ^ p, p)
  | fuel + 1, p, n, fr =>
    let t := exp2Go p n fr (2 * 2 ^ p) (2 ^ p)
    if t / 2 ^ 40 = (t + 10 * n + 16) / 2 ^ 40 then (t / 2 ^ 40, p - 40) else exp2Frac fuel (p + 64) n fr
/-- 2^a for a number a = (−1)^neg × m × 2^e that is not zero; a result so large or so small that every format overflows
or underflows keeps that. -/
def exp2Cut (f : FFmt) (neg : Bool) (m : Nat) (e : Int) : Cut :=
  let k := f.fbits + 8
  if e + blen m > 20 then
    -- |a| ≥ 2^19: far beyond every exponent
    if neg then ⟨false, 1, -(2 ^ 19), true⟩ else ⟨false, 1, 2 ^ 19, false⟩
  else if e ≥ 0 then ⟨false, 1, (if neg then -1 else 1) * ((m * 2 ^ e.toNat : Nat) : Int), false⟩
  else
    let n := (-e).toNat
    if m % 2 ^ n = 0 then ⟨false, 1, (if neg then -1 else 1) * ((m / 2 ^ n : Nat) : Int), false⟩
    else if e + blen m < -(k : Int) then
      -- |a| < 2^−k: the result lies strictly within 2^−k of 1
      if neg then ⟨false, 2 ^ k - 1, -(k : Int), true⟩ else ⟨false, 2 ^ k, -(k : Int), true⟩
    else
      let whole : Int := if neg then -((m / 2 ^ n : Nat) : Int) - 1 else ((m / 2 ^ n : Nat) : Int)
      let fr := if neg then 2 ^ n - m % 2 ^ n else m % 2 ^ n
      let r := exp2Frac 16 (f.fbits + 160) n fr
      ⟨false, r.1, whole - r.2, true⟩

/-- The binary digits of log2 of y, 1 ≤ y < 2, by repeated squaring of an interval with p bits below the point. -/
def log2Go (p : Nat) : Nat → Nat → Nat → Nat → Nat
  | 0, _, _, acc => acc
  | n + 1, lo, hi, acc =>
    let lo := lo * lo / 2 ^ p
    let hi := hi * hi / 2 ^ p + 1
    if lo ≥ 2 * 2 ^ p then log2Go p n (lo / 2) (hi / 2 + 1) (2 * acc + 1) else log2Go p n lo hi (2 * acc)
/-- log2 of m × 2^e, m not zero, not an exact power of two: cut below the last of n digits. -/
def log2Cut (f : FFmt) (m : Nat) (e : Int) : Cut :=
  let n := 2 * f.fbits + 70
  let p := 3 * n + 64
  let k := e + blen m - 1
  let y := m * 2 ^ p / 2 ^ (blen m - 1)
  let fr := log2Go p n y y 0
  let v : Int := k * 2 ^ n + fr
  if v ≥ 0 then ⟨false, v.natAbs, -(n : Int), true⟩ else ⟨true, (-v - 1).natAbs, -(n : Int), true⟩

def Cut.round (f : FFmt) (md : RMode) (c : Cut) : Nat × BitVec 8 :=
  if c.m = 0 ∧ !c.sticky then (zeroF f c.neg, 0) else roundF f false md c.neg c.m c.e c.sticky

/-- The flag of a signalling NaN among inputs (R84). -/
def nvOf (xs : List FV) : BitVec 8 := if xs.any (fun x => x == .nan true) then flagNv else 0
def FV.isNan : FV → Bool
  | .nan _ => true
  | _ => false
def nanResult (f : FFmt) (xs : List FV) : Nat × BitVec 8 := (canonF f, nvOf xs)
def invalid (f : FFmt) (xs : List FV) : Nat × BitVec 8 := (canonF f, flagNv ||| nvOf xs)
def FV.negate : FV → FV
  | .nan s => .nan s
  | .inf n => .inf (!n)
  | .fin n m e => .fin (!n) m e
def isRdn : RMode → Bool
  | .rdn => true
  | _ => false

/-! Table 6.6. -/

def fAdd (f : FFmt) (md : RMode) (a b : FV) : Nat × BitVec 8 :=
  match a, b with
  | .fin na ma ea, .fin nb mb eb =>
    let r := addFin (isRdn md) na ma ea nb mb eb
    roundFin f false md r.1 r.2.1 r.2.2
  | .inf n, .fin _ _ _ => (infF f n, 0)
  | .fin _ _ _, .inf n => (infF f n, 0)
  | .inf n, .inf k => if n = k then (infF f n, 0) else invalid f []
  | x, y => nanResult f [x, y]
def fMul (f : FFmt) (md : RMode) (a b : FV) : Nat × BitVec 8 :=
  match a, b with
  | .fin na ma ea, .fin nb mb eb => roundFin f false md (na != nb) (ma * mb) (ea + eb)
  | .inf n, .fin k m _ => if m = 0 then invalid f [] else (infF f (n != k), 0)
  | .fin k m _, .inf n => if m = 0 then invalid f [] else (infF f (n != k), 0)
  | .inf n, .inf k => (infF f (n != k), 0)
  | x, y => nanResult f [x, y]
/-- 0 × ∞ is invalid whatever d is; otherwise a NaN input gives the NaN (R128). -/
def fFma (f : FFmt) (md : RMode) (a b d : FV) : Nat × BitVec 8 :=
  let addTo := fun (p : FV) => match p, d with
    | .fin na ma ea, .fin nb mb eb =>
      let r := addFin (isRdn md) na ma ea nb mb eb
      roundFin f false md r.1 r.2.1 r.2.2
    | .inf n, .fin _ _ _ => (infF f n, 0)
    | .fin _ _ _, .inf n => (infF f n, 0)
    | .inf n, .inf k => if n = k then (infF f n, 0) else invalid f []
    | _, x => nanResult f [x]
  match a, b with
  | .fin na ma ea, .fin nb mb eb => addTo (.fin (na != nb) (ma * mb) (ea + eb))
  | .inf n, .fin k m _ => if m = 0 then invalid f [d] else addTo (.inf (n != k))
  | .fin k m _, .inf n => if m = 0 then invalid f [d] else addTo (.inf (n != k))
  | .inf n, .inf k => addTo (.inf (n != k))
  | x, y => nanResult f [x, y, d]
def fDiv (f : FFmt) (md : RMode) (a b : FV) : Nat × BitVec 8 :=
  match a, b with
  | .fin na ma ea, .fin nb mb eb =>
    if mb = 0 then (if ma = 0 then invalid f [] else (infF f (na != nb), flagDz))
    else if ma = 0 then (zeroF f (na != nb), 0)
    else (divCut (f.fbits + 8) (na != nb) ma ea mb eb).round f md
  | .inf n, .fin k _ _ => (infF f (n != k), 0)
  | .fin k _ _, .inf n => (zeroF f (n != k), 0)
  | .inf _, .inf _ => invalid f []
  | x, y => nanResult f [x, y]
def fSqrt (f : FFmt) (md : RMode) (a : FV) : Nat × BitVec 8 :=
  match a with
  | .fin n m e => if m = 0 then (zeroF f n, 0) else if n then invalid f [] else (sqrtCut (f.fbits + 8) m e).round f md
  | .inf n => if n then invalid f [] else (infF f false, 0)
  | x => nanResult f [x]
def fRcp (f : FFmt) (md : RMode) (a : FV) : Nat × BitVec 8 :=
  match a with
  | .fin n m e => if m = 0 then (infF f n, flagDz) else (divCut (f.fbits + 8) n 1 0 m e).round f md
  | .inf n => (zeroF f n, 0)
  | x => nanResult f [x]
def fRsq (f : FFmt) (md : RMode) (a : FV) : Nat × BitVec 8 :=
  match a with
  | .fin n m e =>
    if m = 0 then (infF f n, flagDz) else if n then invalid f [] else (rsqrtCut (f.fbits + 8) m e).round f md
  | .inf n => if n then invalid f [] else (zeroF f false, 0)
  | x => nanResult f [x]
def fExp2 (f : FFmt) (md : RMode) (a : FV) : Nat × BitVec 8 :=
  match a with
  | .fin n m e => if m = 0 then roundFin f false md false 1 0 else (exp2Cut f n m e).round f md
  | .inf n => (if n then zeroF f false else infF f false, 0)
  | x => nanResult f [x]
def fLog2 (f : FFmt) (md : RMode) (a : FV) : Nat × BitVec 8 :=
  match a with
  | .fin n m e =>
    if m = 0 then (infF f true, flagDz)
    else if n then invalid f []
    else if m = 2 ^ (blen m - 1) then
      let k := e + blen m - 1
      roundFin f false md (decide (k < 0)) k.natAbs 0
    else (log2Cut f m e).round f md
  | .inf n => if n then invalid f [] else (infF f false, 0)
  | x => nanResult f [x]

/-- The order of two numbers or infinities, −0 equal to +0. -/
def fCompare : FV → FV → Ordering
  | .inf n, .inf k => if n = k then .eq else if n then .lt else .gt
  | .inf n, _ => if n then .lt else .gt
  | _, .inf k => if k then .gt else .lt
  | .fin na ma ea, .fin nb mb eb =>
    let lo := min ea eb
    compare (FV.scaled na ma ea lo) (FV.scaled nb mb eb lo)
  | _, _ => .eq
def FV.isNeg : FV → Bool
  | .nan _ => false
  | .inf n => n
  | .fin n _ _ => n

/-- A bf16 subnormal encoding becomes the zero of its sign (R129). -/
def flushF (f : FFmt) (x : Nat) : Nat :=
  if f.flush && bits x f.fbits f.ebits == 0 then zeroF f (bit x (f.ebits + f.fbits)) else x
/-- `vfmin` and `vfmax` of two encodings (R129). -/
def fMinMax (f : FFmt) (wantMax : Bool) (x y : Nat) : Nat × BitVec 8 :=
  let a := decodeF f x
  let b := decodeF f y
  let nv := nvOf [a, b]
  if a.isNan && b.isNan then (canonF f, nv)
  else if a.isNan then (flushF f y, nv)
  else if b.isNan then (flushF f x, nv)
  else
    let aLow := match fCompare a b with
      | .lt => true
      | .gt => false
      | .eq => a.isNeg
    (flushF f (if aLow != wantMax then x else y), 0)

/-- Conditions of Table 6.7 and R113, by mode code. -/
def condInt (c : Nat) (a b : Int) : Bool :=
  match c with
  | 0 => a == b
  | 1 => a != b
  | 2 => decide (a < b)
  | 3 => decide (a ≤ b)
  | 4 => decide (a > b)
  | _ => decide (a ≥ b)
def condF (c : Nat) (a b : FV) : Bool × BitVec 8 :=
  let nan := a.isNan || b.isNan
  let nv := if 2 ≤ c ∧ c ≤ 5 then (if nan then flagNv else 0) else nvOf [a, b]
  let o := fCompare a b
  let r := match c with
    | 0 => !nan && o == .eq
    | 1 => nan || o != .eq
    | 2 => !nan && o == .lt
    | 3 => !nan && o != .gt
    | 4 => !nan && o == .gt
    | 5 => !nan && o != .lt
    | 6 => nan
    | _ => !nan
  (r, nv)

/-- The class bit of an encoding (Table 6.8). -/
def fClass (f : FFmt) (x : Nat) : Nat :=
  let neg := bit x (f.ebits + f.fbits)
  let e := bits x f.fbits f.ebits
  let fr := bits x 0 f.fbits
  if e = f.top then (if fr = 0 then (if neg then 1 else 0x80) else if bit fr (f.fbits - 1) then 0x200 else 0x100)
  else if e = 0 then (if fr = 0 then (if neg then 8 else 0x10) else if neg then 4 else 0x20)
  else if neg then 2 else 0x40

/-! Conversion of one element (Table 5.11). -/

/-- The value of a scalar element: `Decode` (R96). Integers are exact numbers. -/
def decodeElem (t : Tag) (x : Nat) : FV :=
  if t.isInt then let v := iread t x; .fin (decide (v < 0)) v.natAbs 0 else decodeF (fmtOf t) x

/-- `Convert(x, S, T, m)`: the element's bits and flags. -/
def convert (s t : Tag) (md : RMode) (x : Nat) : Nat × BitVec 8 :=
  match decodeElem s x with
  | .nan sg =>
    if t.isInt then (0, flagNv) else (canonF (fmtOf t), if sg then flagNv else 0)
  | .inf n =>
    if t.isInt then (wrapTo (8 * t.width) (if n then imin t else imax t), flagNv)
    else if t = .e4m3 then (0x7F, flagNv) else (infF (fmtOf t) n, 0)
  | .fin n m e =>
    if !t.isInt then roundFin (fmtOf t) false md n m e
    else if s.isInt then narrow t true (FV.scaled n m e 0)
    else
      let r := roundInt md n m e
      if r.1 < imin t then (wrapTo (8 * t.width) (imin t), flagNv)
      else if r.1 > imax t then (wrapTo (8 * t.width) (imax t), flagNv)
      else (wrapTo (8 * t.width) r.1, if r.2 then flagNx else 0)

/-! Stochastic draws (R92). -/

def drawStep (seed : Word) : Word :=
  let x : Word := if seed = 0 then 0x9E3779B97F4A7C15 else seed
  let x := x ^^^ (x <<< 13)
  let x := x ^^^ (x >>> 7)
  x ^^^ (x <<< 17)
/-- A draw and the generator after it. -/
def draw (seed : Word) : Nat × Word := let x := drawStep seed; (bits x.toNat 48 16, x)

/-! Block formats (R85 to R87) and packed ternary (R89). -/

/-- Element width in bits of an MX or lb format. -/
def blockBits : Tag → Nat
  | .mxf6e2 | .mxf6e3 => 6
  | .mxf4 => 4
  | .lb5 => 5
  | .lb3 => 3
  | _ => 8
/-- Bytes of one block of 32 elements. -/
def blockBytes (t : Tag) : Nat := 4 * blockBits t
/-- Magnitude width k of an lb format (Table 5.4). -/
def lbK : Tag → Nat
  | .lb8 => 7
  | .lb5 => 4
  | _ => 2
/-- Element emax (Table 5.3). -/
def mxEmax : Tag → Int
  | .mxf8e4 => 8
  | .mxf8e5 => 15
  | .mxf6e2 => 2
  | .mxf6e3 => 4
  | .mxf4 => 2
  | _ => 0
/-- A number scaled by a power of two. -/
def FV.scale (k : Int) : FV → FV
  | .fin n m e => .fin n m (e + k)
  | x => x
/-- The value of an MX element under its scale byte (R86). A NaN that a block format gives is quiet (R84). -/
def decodeMx (t : Tag) (scale el : Nat) : FV :=
  if scale = 0xFF then .nan false
  else
    let v : FV := if t = .mxi8 then (let k := signed 8 el; .fin (decide (k < 0)) k.natAbs (-6)) else decodeF (fmtOf t) el
    if v.isNan then .nan false else v.scale ((scale : Int) - 127)
/-- `DecodeLb` (R87). -/
def decodeLb (k hdr el i : Nat) : FV :=
  let e := bits hdr 0 8
  let mu := bits hdr (8 + i / 2) 1
  if e = 0xFF then .nan false
  else if bits el 0 k = 0 then .fin false 0 0
  else .fin (bit el k) (bits el 0 k) ((e : Int) - 127 - k - mu)

/-- Digit j of a t5 byte as a weight. -/
def tritWeight (b j : Nat) : Int :=
  match b / 3 ^ j % 3 with
  | 0 => 0
  | 1 => 1
  | _ => -1

end Sys2Proof.Machine
end

