-- ==== Sys2Proof/Machine/Common.lean ====
section
/-!
DEFINITION. Common and control instructions (04 R64 to R66, R77 to R79; 14 R270, R273).
-/
namespace Sys2Proof.Machine

/-- `nop` (R64). -/
def execNop (o : Ops) (s : State) : Host.Outcome State Fault Refusal :=
  issue { op := 0x001 } o (fun s _ _ => .ok s) s

/-- `mov` (R65): an s register or a queue entry, a whole predicate, or the active elements of a vector with its tag. -/
def execMov (o : Ops) (s : State) : Host.Outcome State Fault Refusal :=
  let vec := Row.movClass o.d.kind o.d.num == 2
  issue { op := 0x002, guard := if vec then .elem 1 else .scalar } o (fun s v g =>
    match v.a with
    | .s w _ _ => .ok (s.putS o.d w)
    | .p b _ => .ok (s.putP o.d b)
    | .v b t _ => .ok (s.putV o.d g t.width b (if t = .freed then .raw else t))
    | _ => .ok s) s

/-- `movi` (R66). -/
def execMovi (o : Ops) (s : State) : Host.Outcome State Fault Refusal :=
  issue { op := 0x003 } o (fun s v _ => .ok (s.putS o.d v.a.word)) s

/-- `ldiw` (R66). -/
def execLdiw (o : Wide) (s : State) : Host.Outcome State Fault Refusal :=
  issueWide { op := 0x004 } o (fun s _ _ => .ok (s.putS o.d (BitVec.signExtend 64 o.imm))) s

/-- `mkptr` (R62). -/
def execMkptr (o : Ops) (s : State) : Host.Outcome State Fault Refusal :=
  issue { op := 0x005 } o (fun s v _ =>
    let x := v.a.word.toNat
    if x > 63 then .fault (fSlot v.a.word) else .ok (s.putS o.d (mkPtr x (sval v.b.word)))) s

/-- `ptrx` (R63). -/
def execPtrx (o : Ops) (s : State) : Host.Outcome State Fault Refusal :=
  issue { op := 0x006 } o (fun s v _ =>
    let n : Nat := (o.mods.ty.map Tag.width).getD 1
    let off := (ptrOff v.a.word : Int) + sval v.b.word * n
    if off < 0 ∨ off ≥ 2 ^ 58 then .fault ⟨0x06, v.a.word, toWord (sval v.b.word * n)⟩
    else .ok (s.putS o.d (mkPtr (ptrSlot v.a.word) off))) s

/-- The words of the firing's inline-code buffer, where it runs in one. -/
def State.inlineLen (s : State) : Option Nat :=
  let f := s.curF
  match f.inline with
  | some b => if f.trap.isSome then none else some (s.curC.inlineBufs.get [] b).length
  | none => none

/-- A branch target: outside an inline buffer it raises Extent-bound (R225). -/
def State.branch (s : State) (t : Int) : Eff :=
  match s.inlineLen with
  | some c => if t < 0 ∨ t ≥ c then .fault (fBound (mkPtr 0 (12 * t)) 12) else .jump s t
  | none => .jump s t

/-- `br` (R77). -/
def execBr (o : Wide) (s : State) : Host.Outcome State Fault Refusal :=
  issueWide { op := 0x007 } o (fun s _ _ => s.branch (s.curF.pc + o.imm.toInt)) s

/-- `call` (R77); refused in an inline buffer (R225). -/
def execCall (o : Wide) (s : State) : Host.Outcome State Fault Refusal :=
  issueWide { op := 0x009, writes := fun _ => [1] } o (fun s _ _ =>
    let w := s.curF.pc
    if s.inlineLen.isSome then .fault (fBound (mkPtr 0 (12 * (w + o.imm.toInt))) 12)
    else .jump (s.setS 1 (toWord (12 * (w + 1)))) (w + o.imm.toInt)) s

/-- A jump to a byte pointer into slot 0 (R78). -/
def State.jumpTo (s : State) (t : Word) (link : Bool) : Eff :=
  if s.inlineLen.isSome then .fault (fBound t 12)
  else if ptrSlot t ≠ 0 then .fault (fPerm t permX)
  else if ptrOff t % 12 ≠ 0 then .fault (fMisaligned t 12)
  else .jump (if link then s.setS 1 (toWord (12 * (s.curF.pc + 1))) else s) (ptrOff t / 12 : Nat)

/-- `jr` (R78). -/
def execJr (o : Ops) (s : State) : Host.Outcome State Fault Refusal :=
  issue { op := 0x008 } o (fun s v _ => s.jumpTo v.d.word false) s

/-- `callr` (R78): the target is read before s1 is written. -/
def execCallr (o : Ops) (s : State) : Host.Outcome State Fault Refusal :=
  issue { op := 0x00A, writes := fun _ => [1] } o (fun s v _ => s.jumpTo v.d.word true) s

/-- `ret` (R78): s1 is a source that no field names. -/
def execRet (o : Ops) (s : State) : Host.Outcome State Fault Refusal :=
  issue { op := 0x00B, reads := fun _ => [(3, 1)] } o (fun s v _ => s.jumpTo (v.reg 1) false) s

/-- The end of a firing at issue (R79): a redundant firing's signatures are compared first (R418); the slot is free once
its register writes are settled. -/
def State.finish (s : State) (popw : Option (Nat × Nat)) : Eff :=
  let f := s.curF
  match f.shadow with
  | some h => if h.sig ≠ f.sig then .trap ⟨0x13, f.sig, h.sig⟩ clsMismatch
      else if s.settled f then .hold (s.endFiring s.curCore s.curSlot f popw)
      else .hold (s.modCur fun x => { x with wait := .ending popw })
  | none =>
    if s.settled f then .hold (s.endFiring s.curCore s.curSlot f popw)
    else .hold (s.modCur fun x => { x with wait := .ending popw })

/-- `done` (R79). -/
def execDone (o : Ops) (s : State) : Host.Outcome State Fault Refusal :=
  issue { op := 0x00C } o (fun s _ _ => s.finish none) s

/-- `loop` (R270): AtEnd is never applied to it. -/
def execLoop (o : Wide) (s : State) : Host.Outcome State Fault Refusal :=
  issueWide { op := 0x00D } o (fun s v _ =>
    let f := s.curF
    let k := o.imm.toInt
    if k < 1 then .fault (fIllegal 3)
    else if v.d.isImm && sval v.d.word < 0 then .fault (fIllegal 0)
    else if v.d.word = 0 then .jump s (f.pc + k + 1)
    else if f.loops.length ≥ 4 then .fault (fIllegal 3)
    else .jump (s.modF fun f => { f with loops := { start := f.pc + 1, last := f.pc + k, count := v.d.word } :: f.loops })
      (f.pc + 1)) s

/-- `lexit` (R273). -/
def execLexit (o : Ops) (s : State) : Host.Outcome State Fault Refusal :=
  issue { op := 0x00E } o (fun s _ _ =>
    let n : Int := match o.d with | .imm x => x.toInt | _ => 1
    let field := match o.d with | .imm _ => 0 | _ => 3
    let f := s.curF
    if n < 1 ∨ n > 4 ∨ f.loops.length < n then .fault (fIllegal field)
    else match f.loops[n.toNat - 1]? with
      | some e => .jump (s.modF fun f => { f with loops := f.loops.drop n.toNat }) (e.last + 1)
      | none => .fault (fIllegal 0)) s

end Sys2Proof.Machine
end

