-- ==== Sys2Proof/Machine/Crossbar.lean ====
section
/-!
DEFINITION. The event crossbar (14 R294 to R297) and the release of a porter channel's entries (10 R213).
-/
namespace Sys2Proof.Machine

def Core.chan (c : Core) (ch : Nat) : Chan := c.chans.get {} ch
def Core.setChan (c : Core) (ch : Nat) (x : Chan) : Core := { c with chans := c.chans.put ch x }
def State.modChan (s : State) (ep ch : Nat) (f : Chan → Chan) : State :=
  s.modCore ep fun c => c.setChan ch (f (c.chan ch))

/-- Who released an entry: its stamp, firing, capsule and view of slot 1 (Table 13.6, R214). -/
structure Releaser where
  stamp : Nat
  fir : Nat
  cap : Nat
  view : Nat
  deriving DecidableEq, Repr

/-- The entries appended to a channel since its last release, as one request (R213). -/
def Chan.take (c : Chan) (r : Releaser) : Chan × Option PReq :=
  match c.first with
  | some p =>
    if c.count = 0 then (c, none)
    else ({ c with first := none, last := none, count := 0 },
      some { left := c.count, next := p, deal := c.deal, stamp := r.stamp, fir := r.fir, cap := r.cap, view := r.view })
  | none => (c, none)
/-- A request placed in E(porter): a halted channel goes on (R215). -/
def Chan.place (c : Chan) (q : Option PReq) : Chan :=
  { c with halted := false, reqs := c.reqs ++ q.toList }
def Chan.release (c : Chan) (r : Releaser) : Chan := let p := c.take r; p.1.place p.2

def Core.counter (c : Core) (i : Nat) : Counter := c.counters.get {} i
def Core.term (c : Core) (j : Nat) : Term := c.terms.get {} j

/-- One pulse of a counter (R294). -/
def Counter.pulse (k : Counter) : Counter :=
  if k.c + 1 = k.threshold then
    if k.t = 255 then { k with c := 0, ovf := true } else { k with c := 0, t := k.t + 1 }
  else { k with c := (k.c + 1) % 2 ^ 16 }

def Core.pulse (c : Core) (i : Nat) : Core := { c with counters := c.counters.put i (c.counter i).pulse }

/-- The counters of a term's mask. -/
def Term.counters (t : Term) : List Nat := (List.range 16).filter fun i => bit t.mask i

/-- The counters that a term would take a token from, where it can act (R296). -/
def Core.termReady (c : Core) (t : Term) : Option (List Nat) :=
  if t.armed = 0 ∨ t.mask = 0 then none
  else
    let has := t.counters.filter fun i => decide (0 < (c.counter i).t)
    if t.isOr then has.head?.map fun i => [i]
    else if has.length = t.counters.length then some has else none

/-- Term j is tested and acts once where it can (R296); it does not act while its post waits (Table 14.13). -/
def State.testTerm (s : State) (ep : Nat) (j : Nat) : State :=
  let c := s.core ep
  let t := c.term j
  match c.cap, c.termReady t with
  | some cap, some taken =>
    if s.held.any (fun h => h.src == .term ep j) then s
    else
      let t := { t with armed := if t.armed = 0xFFFF then t.armed else t.armed - 1, actions := (t.actions + 1) % 2 ^ 32 }
      let c := taken.foldl (fun c i => { c with counters := c.counters.put i { c.counter i with t := (c.counter i).t - 1 } }) c
      let c := { c with terms := c.terms.put j t, acted := j :: c.acted }
      let s := s.setCore ep c
      match t.action with
      | 1 => s.modChan ep (t.arg % 4) fun x => x.release { stamp := t.stamp, fir := t.fir, cap := cap, view := t.view }
      | 2 =>
        let here := match (s.cap cap).actors[t.arg / 16]? with
          | some a => a.ep == ep
          | none => false
        s.postTyped (.term ep j) cap t.arg (if here then [3] else [])
          (mkMsg (BitVec.ofNat 64 j) (BitVec.ofNat 64 t.actions) 0 0 t.stamp) ep 6
      | 3 => s.modCore ep fun c => c.pulse (t.arg % 16)
      | _ => s
  | _, _ => s

/-- Term j can act now: it has not in this cycle. -/
def State.termActs (s : State) (ep j : Nat) : Bool :=
  let c := s.core ep
  c.cap.isSome && !c.acted.contains j && (c.termReady (c.term j)).isSome && !s.held.any fun h => h.src == .term ep j

/-- The first term in index order that can act, and has not acted, acts; testing repeats while there is one. -/
def State.testTermsFrom (ep : Nat) : Nat → State → State
  | 0, s => s
  | n + 1, s =>
    match (List.range 8).find? fun j => s.termActs ep j with
    | some j => State.testTermsFrom ep n (s.testTerm ep j)
    | none => s
/-- Terms are tested in increasing index, and each acts at most once in a core cycle (R296). -/
def State.testTerms (s : State) (ep : Nat) : State := State.testTermsFrom ep 8 s

/-- A pulse of counter i: where the counter gains a token, the terms are tested (R294, R296). -/
def State.pulse (s : State) (ep i : Nat) : State :=
  let t := s.modCore ep fun c => c.pulse i
  if ((s.core ep).counter i).t < ((t.core ep).counter i).t then t.testTerms ep else t

/-- A pulse of a source of Table 14.8: every counter that takes it, one that is not configured having source 0 (Table 14.9). -/
def State.pulseSource (s : State) (ep src : Nat) : State :=
  (List.range 16).foldl (fun s i => if ((s.core ep).counter i).source = src then s.pulse ep i else s) s

end Sys2Proof.Machine
end

