-- ==== Sys2Proof/Machine/Scalar.lean ====
section
/-!
DEFINITION. Scalar integer and predicate instructions (06 R107 to R115).
-/
namespace Sys2Proof.Machine

/-! The exact results of Table 6.2, of two source values of type T. Vector elements use the same functions. -/

abbrev IntFn := Tag → Int → Int → Int

/-- The low 8w bits read unsigned. -/
def low (t : Tag) (a : Int) : Nat := wrapTo (8 * t.width) a
/-- The shift count. -/
def shiftCount (t : Tag) (b : Int) : Nat := low t b % (8 * t.width)

def xAdd : IntFn := fun _ a b => a + b
def xSub : IntFn := fun _ a b => a - b
def xAddc : IntFn := fun t a b => ((low t a + low t b) / 2 ^ (8 * t.width) : Nat)
def xSubb : IntFn := fun t a b => if low t a < low t b then 1 else 0
def xMul : IntFn := fun _ a b => a * b
def xMulh : IntFn := fun t a b => (a * b).fdiv (2 ^ (8 * t.width))
def xNeg : IntFn := fun _ a _ => -a
def xAbs : IntFn := fun _ a _ => (a.natAbs : Int)
def xMin : IntFn := fun _ a b => if a ≤ b then a else b
def xMax : IntFn := fun _ a b => if a ≤ b then b else a
def xAnd : IntFn := fun t a b => (low t a &&& low t b : Nat)
def xOr : IntFn := fun t a b => (low t a ||| low t b : Nat)
def xXor : IntFn := fun t a b => (low t a ^^^ low t b : Nat)
def xAndn : IntFn := fun t a b => (low t a &&& low t (-1 - b) : Nat)
def xNot : IntFn := fun _ a _ => -1 - a
def xShl : IntFn := fun t a b => a * 2 ^ shiftCount t b
def xShr : IntFn := fun t a b => (low t a / 2 ^ shiftCount t b : Nat)
def xSar : IntFn := fun t a b => (signed (8 * t.width) (low t a)).fdiv (2 ^ shiftCount t b)
def xRol : IntFn := fun t a b =>
  let c := shiftCount t b
  (low t a * 2 ^ c + low t a / 2 ^ (8 * t.width - c) : Nat)
def xRor : IntFn := fun t a b =>
  let c := shiftCount t b
  (low t a / 2 ^ c + low t a * 2 ^ (8 * t.width - c) : Nat)
def xClz : IntFn := fun t a _ => (clzN (8 * t.width) (low t a) : Nat)
def xCtz : IntFn := fun t a _ => (ctzN (8 * t.width) (low t a) : Nat)
def xPopc : IntFn := fun t a _ => (popcN (8 * t.width) (low t a) : Nat)

/-- The result's bits and flag for one element or scalar (R108): sources are the low 8w bits of x and y. -/
def intResult (f : IntFn) (t : Tag) (saturate : Bool) (x y : Nat) : Nat × BitVec 8 :=
  narrow t saturate (f t (iread t x) (iread t y))

/-- The type of a scalar instruction: i64 where none is written (R108). -/
def scalarTy (o : Ops) : Tag := o.mods.ty.getD .i64
/-- The overflow mode's `.sat` (R107). -/
def satMode (o : Ops) : Bool := o.mods.mode == 1

/-- A scalar instruction whose result Table 6.2 gives. -/
def aluOp (op : Nat) (f : IntFn) (o : Ops) (s : State) : Host.Outcome State Fault Refusal :=
  issue { op := op } o (fun s v _ =>
    let t := scalarTy o
    let r := intResult f t (satMode o) v.a.word.toNat v.b.word.toNat
    .ok ((s.orFlags r.2).putS o.d (iwide t r.1))) s

def execAdd (o : Ops) (s : State) : Host.Outcome State Fault Refusal := aluOp 0x080 xAdd o s
def execSub (o : Ops) (s : State) : Host.Outcome State Fault Refusal := aluOp 0x081 xSub o s
def execAddc (o : Ops) (s : State) : Host.Outcome State Fault Refusal := aluOp 0x082 xAddc o s
def execSubb (o : Ops) (s : State) : Host.Outcome State Fault Refusal := aluOp 0x083 xSubb o s
def execMul (o : Ops) (s : State) : Host.Outcome State Fault Refusal := aluOp 0x084 xMul o s
def execMulh (o : Ops) (s : State) : Host.Outcome State Fault Refusal := aluOp 0x085 xMulh o s
def execNeg (o : Ops) (s : State) : Host.Outcome State Fault Refusal := aluOp 0x088 xNeg o s
def execAbs (o : Ops) (s : State) : Host.Outcome State Fault Refusal := aluOp 0x089 xAbs o s
def execMin (o : Ops) (s : State) : Host.Outcome State Fault Refusal := aluOp 0x08A xMin o s
def execMax (o : Ops) (s : State) : Host.Outcome State Fault Refusal := aluOp 0x08B xMax o s
def execAndB (o : Ops) (s : State) : Host.Outcome State Fault Refusal := aluOp 0x08C xAnd o s
def execOrB (o : Ops) (s : State) : Host.Outcome State Fault Refusal := aluOp 0x08D xOr o s
def execXorB (o : Ops) (s : State) : Host.Outcome State Fault Refusal := aluOp 0x08E xXor o s
def execAndn (o : Ops) (s : State) : Host.Outcome State Fault Refusal := aluOp 0x08F xAndn o s
def execNotB (o : Ops) (s : State) : Host.Outcome State Fault Refusal := aluOp 0x090 xNot o s
def execShl (o : Ops) (s : State) : Host.Outcome State Fault Refusal := aluOp 0x091 xShl o s
def execShr (o : Ops) (s : State) : Host.Outcome State Fault Refusal := aluOp 0x092 xShr o s
def execSar (o : Ops) (s : State) : Host.Outcome State Fault Refusal := aluOp 0x093 xSar o s
def execRol (o : Ops) (s : State) : Host.Outcome State Fault Refusal := aluOp 0x094 xRol o s
def execRor (o : Ops) (s : State) : Host.Outcome State Fault Refusal := aluOp 0x095 xRor o s
def execClz (o : Ops) (s : State) : Host.Outcome State Fault Refusal := aluOp 0x096 xClz o s
def execCtz (o : Ops) (s : State) : Host.Outcome State Fault Refusal := aluOp 0x097 xCtz o s

/-- Integer division by zero traps (Table 5.7). -/
def Slot.divtrap (x : Slot) : Bool := x.fctl.getLsbD 3

/-- `div` and `rem` (R110): the quotient and remainder, or what a zero divisor gives. -/
def divOp (op : Nat) (isRem : Bool) (o : Ops) (s : State) : Host.Outcome State Fault Refusal :=
  issue { op := op } o (fun s v _ =>
    let t := scalarTy o
    let a := iread t v.a.word.toNat
    let b := iread t v.b.word.toNat
    if b = 0 then
      if s.cur.divtrap then .fault ⟨0x14, iwide t v.a.word.toNat, 0⟩
      else
        .ok ((s.orFlags flagIdiv).putS o.d (iwide t (wrapTo (8 * t.width) (if isRem then a else -1))))
    else .ok (s.putS o.d (iwide t (wrapTo (8 * t.width) (if isRem then a.tmod b else a.tdiv b))))) s

def execDiv (o : Ops) (s : State) : Host.Outcome State Fault Refusal := divOp 0x086 false o s
def execRem (o : Ops) (s : State) : Host.Outcome State Fault Refusal := divOp 0x087 true o s

/-- `popc` of a scalar, or of the 256 bits of a predicate (Table 6.2). -/
def execPopc (o : Ops) (s : State) : Host.Outcome State Fault Refusal :=
  issue { op := 0x098 } o (fun s v _ =>
    match v.a with
    | .p b _ => .ok (s.putS o.d (BitVec.ofNat 64 (popcN 256 b.toNat)))
    | a =>
      let t := scalarTy o
      .ok (s.putS o.d (iwide t (intResult xPopc t false a.word.toNat 0).1))) s

/-- The position and length of a bit field (R111). -/
def bitField (b : Word) : Nat × Nat :=
  let pos := bits b.toNat 0 6
  let len := bits b.toNat 6 7
  (pos, if len = 0 ∨ len > 64 - pos then 64 - pos else len)

/-- `bfx` (R111). -/
def execBfx (o : Ops) (s : State) : Host.Outcome State Fault Refusal :=
  issue { op := 0x099 } o (fun s v _ =>
    let f := bitField v.b.word
    let x := bits v.a.word.toNat f.1 f.2
    .ok (s.putS o.d (if o.mods.ty = some .i64 then toWord (signed f.2 x) else BitVec.ofNat 64 x))) s

/-- `bfi` (R111). -/
def execBfi (o : Ops) (s : State) : Host.Outcome State Fault Refusal :=
  issue { op := 0x09A, dDst := true } o (fun s v _ =>
    let f := bitField v.b.word
    let old := v.d.word.toNat
    .ok (s.putS o.d (BitVec.ofNat 64
      (old - bits old f.1 f.2 * 2 ^ f.1 + bits v.a.word.toNat 0 f.2 * 2 ^ f.1)))) s

/-- `sext` (R112). -/
def execSext (o : Ops) (s : State) : Host.Outcome State Fault Refusal :=
  issue { op := 0x09B } o (fun s v _ => .ok (s.putS o.d (toWord (signed (8 * (scalarTy o).width) v.a.word.toNat)))) s

/-- `zext` (R112). -/
def execZext (o : Ops) (s : State) : Host.Outcome State Fault Refusal :=
  issue { op := 0x09C } o (fun s v _ =>
    .ok (s.putS o.d (BitVec.ofNat 64 (bits v.a.word.toNat 0 (8 * (scalarTy o).width))))) s

/-- All ones or all zeros. -/
def allP (b : Bool) : PBits := if b then BitVec.allOnes 256 else 0

/-- `cmp` (R113). -/
def execCmp (o : Ops) (s : State) : Host.Outcome State Fault Refusal :=
  issue { op := 0x09D } o (fun s v _ =>
    let t := scalarTy o
    .ok (s.putP o.d (allP (condInt o.mods.mode.val (iread t v.a.word.toNat) (iread t v.b.word.toNat))))) s

/-- `sel` (R114). -/
def execSel (o : Ops) (s : State) : Host.Outcome State Fault Refusal :=
  issue { op := 0x09E, dDst := true } o (fun s v _ =>
    .ok (s.putS o.d (if v.d.word ≠ 0 then v.a.word else v.b.word))) s

/-- `pand` (R115). -/
def execPand (o : Ops) (s : State) : Host.Outcome State Fault Refusal :=
  issue { op := 0x09F } o (fun s v _ => .ok (s.putP o.d (v.a.pbits &&& v.b.pbits))) s

/-- `por` (R115). -/
def execPor (o : Ops) (s : State) : Host.Outcome State Fault Refusal :=
  issue { op := 0x0A0 } o (fun s v _ => .ok (s.putP o.d (v.a.pbits ||| v.b.pbits))) s

/-- `pxor` (R115). -/
def execPxor (o : Ops) (s : State) : Host.Outcome State Fault Refusal :=
  issue { op := 0x0A1 } o (fun s v _ => .ok (s.putP o.d (v.a.pbits ^^^ v.b.pbits))) s

/-- `pnot` (R115). -/
def execPnot (o : Ops) (s : State) : Host.Outcome State Fault Refusal :=
  issue { op := 0x0A2 } o (fun s v _ => .ok (s.putP o.d (~~~v.a.pbits))) s

end Sys2Proof.Machine
end

