-- ==== Sys2Proof/Machine/Vector.lean ====
section
/-!
DEFINITION. Vector integer and lane instructions, and the decoding of packed ternary (06 R116 to R125).
-/
namespace Sys2Proof.Machine

/-! Elements. -/

/-- Element i of a vector operand, or the low 8w bits of a scalar or immediate (R117). -/
def Val.el (v : Val) (w i : Nat) : Nat :=
  match v with
  | .v b _ _ => velem w b i
  | x => bits x.word.toNat 0 (8 * w)

/-- The flags of the active elements together. -/
def elemFlags (g : PBits) (w : Nat) (f : Nat → BitVec 8) : BitVec 8 :=
  (actives g w).foldl (fun a i => a ||| f i) 0

/-- A vector result with the flags of its active elements. -/
def State.putElems (s : State) (d : Operand) (g : PBits) (t : Tag) (f : Nat → Nat × BitVec 8) : State :=
  (s.orFlags (elemFlags g t.width fun i => (f i).2)).putV d g t.width (vofElems t.width fun i => (f i).1) t

/-- A predicate whose w bits of element i are all c i (R120). -/
def pofElems (w : Nat) (c : Nat → Bool) : PBits :=
  BitVec.ofNat 256 ((List.range (256 / w)).foldr (fun i acc => acc + (if c i then (2 ^ w - 1) * 2 ^ (w * i) else 0)) 0)

/-- The element type: the modifier, or the tag of the value given (R117). -/
def elemTy (o : Ops) (v : Val) : Tag := o.mods.ty.getD v.tag

/-- The tag of a result that takes its source's tag: a copy of a freed register is a written register (R44). -/
def keptTag (t : Tag) : Tag := if t = .freed then .raw else t

/-- A vector operand that does not carry T. -/
def tagFail (f : Nat) (v : Val) (ok : Tag → Bool) : Option (Nat × Tag) :=
  if v.isV && !ok v.tag then some (f, v.tag) else none

/-- vA carries T, T is one that `ok` allows, and every other vector operand carries T (R117, R127); a freed operand carries
none (R44). -/
def tagsAre (ok : Tag → Bool) : State → Ops → Vals → Option (Nat × Tag) := fun _ o v =>
  let t := elemTy o v.a
  let is := fun x => x == t && x != .freed
  (tagFail 0 v.d is).or ((tagFail 1 v.a fun x => is x && ok x).or (tagFail 2 v.b is))

/-- An element-by-element integer instruction (R117). -/
def vecOp (op : Nat) (f : IntFn) (o : Ops) (s : State) : Host.Outcome State Fault Refusal :=
  issue { op := op, guard := .elem 1, tags := tagsAre Tag.isInt } o (fun s v g =>
    let t := elemTy o v.a
    .ok (s.putElems o.d g t fun i => intResult f t (satMode o) (v.a.el t.width i) (v.b.el t.width i))) s

def execVadd (o : Ops) (s : State) : Host.Outcome State Fault Refusal := vecOp 0x100 xAdd o s
def execVsub (o : Ops) (s : State) : Host.Outcome State Fault Refusal := vecOp 0x101 xSub o s
def execVmul (o : Ops) (s : State) : Host.Outcome State Fault Refusal := vecOp 0x102 xMul o s
def execVmulh (o : Ops) (s : State) : Host.Outcome State Fault Refusal := vecOp 0x103 xMulh o s
def execVmin (o : Ops) (s : State) : Host.Outcome State Fault Refusal := vecOp 0x105 xMin o s
def execVmax (o : Ops) (s : State) : Host.Outcome State Fault Refusal := vecOp 0x106 xMax o s
def execVabs (o : Ops) (s : State) : Host.Outcome State Fault Refusal := vecOp 0x107 xAbs o s
def execVneg (o : Ops) (s : State) : Host.Outcome State Fault Refusal := vecOp 0x108 xNeg o s
def execVshl (o : Ops) (s : State) : Host.Outcome State Fault Refusal := vecOp 0x10D xShl o s
def execVshr (o : Ops) (s : State) : Host.Outcome State Fault Refusal := vecOp 0x10E xShr o s
def execVsar (o : Ops) (s : State) : Host.Outcome State Fault Refusal := vecOp 0x10F xSar o s
def execVpopc (o : Ops) (s : State) : Host.Outcome State Fault Refusal := vecOp 0x115 xPopc o s
def execVclz (o : Ops) (s : State) : Host.Outcome State Fault Refusal := vecOp 0x116 xClz o s

/-- B as 2048 bits: a scalar or immediate is spread over elements of width w (R118). -/
def Val.spread (v : Val) (w : Nat) : VBits :=
  match v with
  | .v b _ _ => b
  | x => vofElems w fun i => x.el w i

/-- A bitwise instruction over 2048 bits (R118). -/
def vlogicOp (op : Nat) (f : VBits → VBits → VBits) (o : Ops) (s : State) : Host.Outcome State Fault Refusal :=
  issue { op := op, guard := .elem 1 } o (fun s v g =>
    let t := v.a.tag
    .ok (s.putV o.d g t.width (f v.a.vbits (v.b.spread t.width)) (keptTag t))) s

def execVand (o : Ops) (s : State) : Host.Outcome State Fault Refusal := vlogicOp 0x109 (· &&& ·) o s
def execVor (o : Ops) (s : State) : Host.Outcome State Fault Refusal := vlogicOp 0x10A (· ||| ·) o s
def execVxor (o : Ops) (s : State) : Host.Outcome State Fault Refusal := vlogicOp 0x10B (· ^^^ ·) o s
def execVnot (o : Ops) (s : State) : Host.Outcome State Fault Refusal := vlogicOp 0x10C (fun a _ => ~~~a) o s

/-- `vcmp` (R120). -/
def execVcmp (o : Ops) (s : State) : Host.Outcome State Fault Refusal :=
  issue { op := 0x110, tags := tagsAre Tag.isInt } o (fun s v _ =>
    let t := elemTy o v.a
    .ok (s.putP o.d (pofElems t.width fun i =>
      condInt o.mods.mode.val (iread t (v.a.el t.width i)) (iread t (v.b.el t.width i))))) s

/-- `vsel` (R121): vD may carry any tag. -/
def execVsel (o : Ops) (s : State) : Host.Outcome State Fault Refusal :=
  issue { op := 0x111, guard := .elem 1, dDst := true
          tags := fun _ o v =>
            let t := elemTy o v.a
            (tagFail 1 v.a fun x => x == t && x != .freed).or (tagFail 2 v.b (· == t)) } o (fun s v g =>
    let t := elemTy o v.a
    .ok (s.putElems o.d g t fun i =>
      (if v.d.el t.width i ≠ 0 then v.a.el t.width i else v.b.el t.width i, 0))) s

/-- `vmad` (R122). -/
def execVmad (o : Ops) (s : State) : Host.Outcome State Fault Refusal :=
  issue { op := 0x104, guard := .elem 1, dDst := true, tags := tagsAre Tag.isInt } o (fun s v g =>
    let t := elemTy o v.a
    let r := fun (x : Val) i => iread t (x.el t.width i)
    .ok (s.putElems o.d g t fun i => narrow t (satMode o) (r v.d i + r v.a i * r v.b i))) s

/-- `vaddsub` (R122): vB is read by its own tag. -/
def execVaddsub (o : Ops) (s : State) : Host.Outcome State Fault Refusal :=
  issue { op := 0x112, guard := .elem 1, dDst := true
          tags := fun _ o v =>
            let t := elemTy o v.a
            (tagFail 0 v.d fun x => x == t && x != .freed).or ((tagFail 1 v.a fun x => x == t && x.isInt).or
              (tagFail 2 v.b fun x => x.isInt && x.width == t.width)) } o (fun s v g =>
    let t := elemTy o v.a
    .ok (s.putElems o.d g t fun i =>
      let d := iread t (v.d.el t.width i)
      let a := iread t (v.a.el t.width i)
      let b := iread v.b.tag (v.b.el t.width i)
      narrow t (satMode o) (if b > 0 then d + a else if b < 0 then d - a else d))) s

/-- The narrow tags that a dot product into T takes (R122). -/
def dotSource (t x : Tag) : Bool :=
  match t with
  | .i32 | .n32 => x == .i8 || x == .n8
  | _ => x == .i16 || x == .n16

/-- `vdot4` (R122): T is the modifier or tag(vD). -/
def execVdot4 (o : Ops) (s : State) : Host.Outcome State Fault Refusal :=
  issue { op := 0x113, guard := .elem 0, dDst := true
          tags := fun _ o v =>
            let t := elemTy o v.d
            (tagFail 0 v.d fun x => x == t && (x == .i32 || x == .n32 || x == .i64 || x == .n64)).or
              ((tagFail 1 v.a (dotSource t)).or (tagFail 2 v.b (dotSource t))) } o (fun s v g =>
    let t := elemTy o v.d
    let q := t.width / 4
    .ok (s.putElems o.d g t fun i =>
      narrow t (satMode o) ([0, 1, 2, 3].foldl
        (fun acc j => acc + iread v.a.tag (velem q v.a.vbits (4 * i + j)) * iread v.b.tag (velem q v.b.vbits (4 * i + j)))
        (iread t (v.d.el t.width i))))) s

/-! Reductions (R123). -/

/-- One level of the pairwise tree. -/
def treeLevel (f : Nat → Nat → Nat × BitVec 8) : List Nat → List Nat × BitVec 8
  | x :: y :: xs =>
    let r := f x y
    let rest := treeLevel f xs
    (r.1 :: rest.1, r.2 ||| rest.2)
  | xs => (xs, 0)

/-- The pairwise tree over a list of 2^k elements in k levels. -/
def treeReduce (f : Nat → Nat → Nat × BitVec 8) : Nat → List Nat → BitVec 8 → Nat × BitVec 8
  | 0, xs, fl => (xs.headD 0, fl)
  | k + 1, xs, fl => let r := treeLevel f xs; treeReduce f k r.1 (fl ||| r.2)

/-- The operators of Table 6.4. -/
def redFn : Nat → IntFn
  | 0 => xAdd
  | 1 => xMin
  | 2 => xMax
  | 3 => xAnd
  | 4 => xOr
  | _ => xXor

/-- `vred` (R123). -/
def execVred (o : Ops) (s : State) : Host.Outcome State Fault Refusal :=
  issue { op := 0x114, tags := tagsAre Tag.isInt } o (fun s v _ =>
    let t := elemTy o v.a
    let k := v.b.word.toNat
    if k ≥ 6 then .fault (fIllegal 2)
    else if satMode o ∧ k ≠ 0 then .fault (fIllegal 3)
    else
      let n := 256 / t.width
      let r := treeReduce (fun x y => intResult (redFn k) t (satMode o) x y) n.log2
        ((List.range n).map (velem t.width v.a.vbits)) 0
      .ok ((s.orFlags r.2).putS o.d (iwide t r.1))) s

/-! Lane instructions (R124). -/

/-- `vbcast`: no type means raw. -/
def execVbcast (o : Ops) (s : State) : Host.Outcome State Fault Refusal :=
  let t := o.mods.ty.getD .raw
  issue { op := 0x120, guard := .fixed t.width } o (fun s v g =>
    .ok (s.putElems o.d g t fun _ => (bits v.a.word.toNat 0 (8 * t.width), 0))) s

/-- A lane instruction on the elements of vA, whose tag the result takes. -/
def laneOp (op : Nat) (tags : State → Ops → Vals → Option (Nat × Tag)) (f : Vals → Nat → Nat → Nat) (o : Ops) (s : State) :
    Host.Outcome State Fault Refusal :=
  issue { op := op, guard := .elem 1, tags := tags } o (fun s v g =>
    let w := v.a.tag.width
    .ok (s.putV o.d g w (vofElems w (f v w)) (keptTag v.a.tag))) s

/-- `vperm`: vB carries an integer tag of width w. -/
def execVperm (o : Ops) (s : State) : Host.Outcome State Fault Refusal :=
  laneOp 0x121 (fun _ _ v => tagFail 2 v.b fun x => x.isInt && x.width == v.a.tag.width)
    (fun v w i => velem w v.a.vbits (velem w v.b.vbits i % (256 / w))) o s

/-- `vslide`. -/
def execVslide (o : Ops) (s : State) : Host.Outcome State Fault Refusal :=
  laneOp 0x122 (fun _ _ _ => none)
    (fun v w i =>
      let j := (i : Int) + sval v.b.word
      if 0 ≤ j ∧ j < 256 / w then velem w v.a.vbits j.toNat else 0) o s

/-- `vextr`: scalar guard. -/
def execVextr (o : Ops) (s : State) : Host.Outcome State Fault Refusal :=
  issue { op := 0x123 } o (fun s v _ =>
    let t := v.a.tag
    let e := velem t.width v.a.vbits (v.b.word.toNat % (256 / t.width))
    .ok (s.putS o.d (if t.isSigned then toWord (signed (8 * t.width) e) else BitVec.ofNat 64 e))) s

/-- `vins`: vD carries a tag from 0x00 to 0x18, and the written element obeys its guard bit. DESIGN CHOICE (log 45): of an
entry taken from a queue and pushed again the active elements not written are unchanged (R124) and the inactive ones zero
(R29). -/
def execVins (o : Ops) (s : State) : Host.Outcome State Fault Refusal :=
  issue { op := 0x124, guard := .elem 0, dDst := true, tags := fun _ _ v => tagFail 0 v.d (· != .freed) } o (fun s v g =>
    let t := v.d.tag
    let w := t.width
    let k := v.b.word.toNat % (256 / w)
    let x := vofElems w fun i => if i = k then bits v.a.word.toNat 0 (8 * w) else velem w v.d.vbits i
    .ok (s.putV o.d g w x t)) s

/-- The elements whose predicate bit is 1, in rising order. -/
def chosen (p : PBits) (w : Nat) : List Nat := actives p w

/-- `vcompress`. -/
def execVcompress (o : Ops) (s : State) : Host.Outcome State Fault Refusal :=
  laneOp 0x125 (fun _ _ _ => none)
    (fun v w i => match (chosen v.b.pbits w)[i]? with
      | some j => velem w v.a.vbits j
      | none => 0) o s

/-- `vexpand`. -/
def execVexpand (o : Ops) (s : State) : Host.Outcome State Fault Refusal :=
  laneOp 0x126 (fun _ _ _ => none)
    (fun v w i => match listIdx (· == i) (chosen v.b.pbits w) 0 with
      | some k => velem w v.a.vbits k
      | none => 0) o s

/-! Packed ternary (R125). -/

/-- The capsule's trit-strict flag as the slot holds it (Table 5.7). -/
def Slot.tritstrict (x : Slot) : Bool := x.fctl.getLsbD 4

/-- The byte of trit t of part p. -/
def tritByte (v : VBits) (p i : Nat) : Nat := velem 1 v ((256 * p + i) / 5)

/-- `vtrit`. -/
def execVtrit (o : Ops) (s : State) : Host.Outcome State Fault Refusal :=
  issue { op := 0x127, guard := .fixed 1, tags := fun _ _ v => tagFail 1 v.a (· == .t5) } o (fun s v g =>
    let p := v.b.word.toNat
    let a := v.a.vbits
    if p > 4 then .fault (fIllegal 2)
    else
      match (actives g 1).find? fun i => decide (tritByte a p i ≥ 243) with
      | some i =>
        if s.cur.tritstrict then
          .fault ⟨0x10, BitVec.ofNat 64 ((256 * p + i) / 5), BitVec.ofNat 64 (tritByte a p i)⟩
        else .ok ((s.orFlags flagTrit).putV o.d g 1 (vofElems 1 fun i =>
          let b := tritByte a p i
          if b ≥ 243 then 0 else wrapTo 8 (tritWeight b ((256 * p + i) % 5))) .i8)
      | none => .ok (s.putV o.d g 1 (vofElems 1 fun i =>
          let b := tritByte a p i
          if b ≥ 243 then 0 else wrapTo 8 (tritWeight b ((256 * p + i) % 5))) .i8)) s

end Sys2Proof.Machine
end

