-- ==== Sys2Proof/Machine/Convert.lean ====
section
/-!
DEFINITION. Conversion instructions (05 R97 to R105).
-/
namespace Sys2Proof.Machine

/-- The dynamic mode is asked for and `fctl.rm` holds a reserved code (R93). -/
def State.badRm (s : State) (o : Ops) : Bool :=
  o.mods.mode == 0 && decide (5 ≤ bits s.cur.fctl.toNat 0 3)
/-- The rounding mode of an instruction other than stochastic rounding (Tables 5.6, 5.7). -/
def State.rmode (s : State) (o : Ops) : RMode := rmodeOf o.mods.mode.val (bits s.cur.fctl.toNat 0 3)
def isSr (o : Ops) : Bool := o.mods.mode == 6

/-- n draws in order, and the generator after them (R92). -/
def drawN : Nat → Word → List Nat × Word
  | 0, seed => ([], seed)
  | n + 1, seed =>
    let r := draw seed
    let rest := drawN n r.2
    (r.1 :: rest.1, rest.2)

/-- The bits of a vector destination before it is written; a queue entry starts as zero (R29). -/
def State.oldV (s : State) (d : Operand) : VBits :=
  match d with
  | .v n _ => readV s.fresh s.cur n.val
  | _ => 0

/-- `vcvt` (R99). -/
def execVcvt (o : Ops) (s : State) : Host.Outcome State Fault Refusal :=
  let t := elemTy o .none
  issue { op := 0x140, guard := .elem 1
          tags := fun _ _ v => tagFail 1 v.a fun x => x.isScalarFormat && x != t && x.width == t.width } o (fun s v g =>
    if s.badRm o then .fault fReservedValue
    else .ok (s.putElems o.d g t fun i => convert v.a.tag t (s.rmode o) (v.a.el t.width i))) s

/-- The widenings of R100. -/
def widens (s t : Tag) : Bool :=
  s.isScalarFormat && (t.width == 2 * s.width || t.width == 4 * s.width || t.width == 8 * s.width)
    && (if s.isInt then (if t.isInt then t.isSigned || !s.isSigned else t.isFloat) else t.isFloat)

/-- `vunpk` (R100). -/
def execVunpk (o : Ops) (s : State) : Host.Outcome State Fault Refusal :=
  let t := elemTy o .none
  issue { op := 0x142, guard := .elem 1, tags := fun _ _ v => tagFail 1 v.a fun x => widens x t } o (fun s v g =>
    let src := v.a.tag
    let p := v.b.word.toNat
    if p ≥ t.width / src.width then .fault (fIllegal 2)
    else .ok (s.putElems o.d g t fun i => convert src t .rne (v.a.el src.width (p * (256 / t.width) + i)))) s

/-- `vtag` (R105). -/
def execVtag (o : Ops) (s : State) : Host.Outcome State Fault Refusal :=
  let t := o.mods.ty.getD .raw
  issue { op := 0x144, guard := .fixed t.width } o (fun s v g => .ok (s.putV o.d g t.width v.a.vbits t)) s

/-! Blocks (R101 to R104). -/

/-- The 32 elements of c bits as one number (R85). -/
def packBlock (c : Nat) (els : List Nat) : Nat := els.foldr (fun e acc => e % 2 ^ c + acc * 2 ^ c) 0

/-- ⌊log2⌋ of the largest magnitude of a block that is not all zero. -/
def blockLog (vals : List FV) : Option Int :=
  vals.foldl (fun acc v => match v with
    | .fin _ m e => if m = 0 then acc else
      let l := e + blen m - 1
      match acc with
      | some a => some (max a l)
      | none => some l
    | _ => acc) none

def clampInt (x lo hi : Int) : Int := if x < lo then lo else if x > hi then hi else x

/-- A number's sign, significand and exponent. -/
def FV.parts : FV → Bool × Nat × Int
  | .fin n m e => (n, m, e)
  | _ => (false, 0, 0)

/-- An encoded block: its elements, its scale byte or header, its flags. -/
structure BlockCode where
  els : List Nat
  scale : Nat
  flags : BitVec 8
  deriving DecidableEq, Repr

/-- A block holds a NaN or an infinity. -/
def blockBad (vals : List FV) : Bool := vals.any fun v => match v with | .fin _ _ _ => false | _ => true

/-- The MX encoding of a block (R102); `md` gives each value's rounding mode. A block encode never sets `uf` (R103). -/
def encodeMx (t : Tag) (vals : List (FV × RMode)) : BlockCode :=
  if blockBad (vals.map Prod.fst) then ⟨List.replicate 32 0, 0xFF, flagNv⟩
  else
    let x : Int := match blockLog (vals.map Prod.fst) with
      | some l => clampInt (l - mxEmax t) (-127) 127
      | none => -127
    let r := vals.map fun v =>
      let p := v.1.parts
      if t = .mxi8 then
        let q := roundInt v.2 p.1 p.2.1 (p.2.2 + 6 - x)
        let c := sat .i8 q.1
        (wrapTo 8 c.1, (if q.2 then flagNx else 0) ||| (if c.2 then flagSat else 0))
      else roundFin (fmtOf t) true v.2 p.1 p.2.1 (p.2.2 - x)
    ⟨r.map Prod.fst, (x + 127).toNat, r.foldl (fun a e => a ||| e.2) 0 &&& ~~~flagUf⟩

/-- The values of a block in pairs. -/
def pairs {α : Type} : List α → List (α × α)
  | a :: b :: r => (a, b) :: pairs r
  | _ => []

/-- The lb encoding of a block (R103). -/
def encodeLb (t : Tag) (vals : List (FV × RMode)) : BlockCode :=
  if blockBad (vals.map Prod.fst) then ⟨List.replicate 32 0, 0xFF, flagNv⟩
  else match blockLog (vals.map Prod.fst) with
    | none => ⟨List.replicate 32 0, 0, 0⟩
    | some l =>
      let k := lbK t
      let top : Int := 2 ^ k - 1
      let e := clampInt (l + 128) 0 254
      let mag := fun (v : FV × RMode) (mu : Int) =>
        let p := v.1.parts
        roundInt v.2 false p.2.1 (p.2.2 + 127 + k + mu - e)
      let r := (pairs vals).map fun p =>
        let mu := if (mag p.1 1).1 ≤ top ∧ (mag p.2 1).1 ≤ top then 1 else 0
        let one := fun (v : FV × RMode) =>
          let q := mag v mu
          let m := if q.1 > top then top.toNat else q.1.toNat
          ((if m = 0 then 0 else v.1.parts.1.toNat * 2 ^ k) + m,
            (if q.2 then flagNx else 0) ||| (if q.1 > top then flagOf ||| flagNx else (0 : BitVec 8)))
        (mu, one p.1, one p.2)
      let micro := (r.map fun x => x.1.toNat).foldr (fun b acc => b + 2 * acc) 0
      ⟨r.flatMap fun x => [x.2.1.1, x.2.2.1], e.toNat + 256 * micro,
        r.foldl (fun a x => a ||| x.2.1.2 ||| x.2.2.2) 0⟩

/-- The blocks encoded so far: block number and code, and the generator. -/
structure PackState where
  blocks : List (Nat × BlockCode)
  seed : Word
  deriving DecidableEq, Repr

/-- Encodes the blocks j that have an active byte, in rising order (R102). -/
def packBlocks (t : Tag) (md : RMode) (stochastic : Bool) (src : Nat → FV) : List Nat → Word → PackState
  | [], seed => ⟨[], seed⟩
  | j :: js, seed =>
    let vals := (List.range 32).map fun q => src (32 * j + q)
    let dr := if stochastic && !blockBad vals then drawN 32 seed else ([], seed)
    let mds := if dr.1.isEmpty then List.replicate 32 md else dr.1.map RMode.sr
    let c := if t.isMx then encodeMx t (vals.zip mds) else encodeLb t (vals.zip mds)
    let rest := packBlocks t md stochastic src js dr.2
    ⟨(j, c) :: rest.blocks, rest.seed⟩

/-- Byte b of vD after a block encode: encoded where active, 0 above the blocks when guard bit 0 is 1, else old. -/
def packByte (t : Tag) (g : PBits) (bl : List (Nat × BlockCode)) (old : VBits) (b : Nat) : Nat :=
  let nb := blockBytes t
  if b < 8 * nb then
    if active g 1 b then
      match bl.find? fun e => e.1 == b / nb with
      | some e => bits (packBlock (blockBits t) e.2.els) (8 * (b % nb)) 8
      | none => velem 1 old b
    else velem 1 old b
  else if active g 1 0 then 0 else velem 1 old b
/-- Byte b of vD + 1. -/
def scaleByte (t : Tag) (g : PBits) (bl : List (Nat × BlockCode)) (old : VBits) (b : Nat) : Nat :=
  let n := if t.isMx then 1 else 4
  if b < 8 * n then
    match bl.find? fun e => e.1 == b / n with
    | some e => bits e.2.scale (8 * (b % n)) 8
    | none => velem 1 old b
  else if active g 1 0 then 0 else velem 1 old b

/-- The block forms of `vpack` (R102, R103). -/
def vpackBlock (o : Ops) (t : Tag) (s : State) : Host.Outcome State Fault Refusal :=
  let a := o.a.num
  let d := o.d.num
  issue { op := 0x141, guard := .fixed 1
          vreads := fun _ => [(1, a + 1), (1, a + 2), (1, a + 3)], vwrites := fun _ => [d + 1]
          tags := fun s _ _ =>
            ([a, a + 1, a + 2, a + 3].find? fun n => (s.cur.vreg n).tag != .f32).map fun n => (1, (s.cur.vreg n).tag) } o
    (fun s _ g =>
      if s.badRm o then .fault fReservedValue
      else
        let x := s.cur
        let src := fun q => decodeF fmtF32 (velem 4 (x.vreg (a + q / 64)).bits (q % 64))
        let nb := blockBytes t
        let act := (List.range 8).filter fun j => (List.range nb).any fun i => active g 1 (nb * j + i)
        let r := packBlocks t (s.rmode o) (isSr o) src act x.srseed
        let old := s.oldV o.d
        let old1 := s.oldV (.v (Fin.ofNat 64 (d + 1)) false)
        let s := s.orFlags (r.blocks.foldl (fun f e => f ||| e.2.flags) 0)
        .ok (s.modCur fun x =>
          { ((x.setV d (vofElems 1 (packByte t g r.blocks old)) t).setV (d + 1)
              (vofElems 1 (scaleByte t g r.blocks old1)) .raw) with srseed := r.seed })) s

/-- The scalar-format forms of `vpack` (R101). -/
def vpackPart (o : Ops) (t : Tag) (s : State) : Host.Outcome State Fault Refusal :=
  issue { op := 0x141, guard := .elem 1
          tags := fun _ _ v => tagFail 1 v.a fun x => x.isScalarFormat &&
            (x.width == 2 * t.width || x.width == 4 * t.width || x.width == 8 * t.width) } o (fun s v g =>
    let src := v.a.tag
    let p := v.b.word.toNat
    if p ≥ src.width / t.width then .fault (fIllegal 2)
    else if s.badRm o then .fault fReservedValue
    else
      let n := 256 / src.width
      let act := (actives g t.width).filter fun i => decide (p * n ≤ i) && decide (i < p * n + n)
      let dr := if isSr o then drawN act.length s.cur.srseed else ([], s.cur.srseed)
      let md := fun i => match listIdx (· == i) act 0 with
        | some k => match dr.1[k]? with
          | some u => RMode.sr u
          | none => s.rmode o
        | none => s.rmode o
      let res := fun i => convert src t (md i) (v.a.el src.width (i - p * n))
      let old := s.oldV o.d
      let fl := act.foldl (fun f i => f ||| (res i).2) 0
      let s := (s.orFlags fl).modCur fun x => { x with srseed := dr.2 }
      .ok (s.putV o.d g t.width
        (vofElems t.width fun i => if p * n ≤ i ∧ i < p * n + n then (res i).1 else velem t.width old i) t)) s

/-- `vpack` (R101 to R103). -/
def execVpack (o : Ops) (s : State) : Host.Outcome State Fault Refusal :=
  let t := elemTy o .none
  if t.isMx || t.isLb then vpackBlock o t s else vpackPart o t s

/-- `vscale` (R104). -/
def execVscale (o : Ops) (s : State) : Host.Outcome State Fault Refusal :=
  let d := o.d.num
  issue { op := 0x143, guard := .fixed 4, vwrites := fun _ => [d + 1, d + 2, d + 3]
          tags := fun _ _ v => (tagFail 1 v.a fun x => x.isMx || x.isLb).or (tagFail 2 v.b (· == .raw)) } o (fun s v g =>
    let t := v.a.tag
    let c := blockBits t
    let nb := blockBytes t
    let value := fun k =>
      let j := k / 32
      let q := k % 32
      let el := bits v.a.vbits.toNat (8 * nb * j + c * q) c
      let x := if t.isMx then decodeMx t (velem 1 v.b.vbits j) el else decodeLb (lbK t) (velem 4 v.b.vbits j) el q
      match x with
      | .nan sg => (canonF fmtF32, if sg then flagNv else (0 : BitVec 8))
      | .inf n => (infF fmtF32 n, 0)
      | .fin n m e => roundFin fmtF32 false .rne n m e
    .ok ([0, 1, 2, 3].foldl (fun s r =>
      (s.orFlags (elemFlags g 4 fun i => (value (64 * r + i)).2)).putV (.v (Fin.ofNat 64 (d + r)) false) g 4
        (vofElems 4 fun i => (value (64 * r + i)).1) .f32) s)) s

end Sys2Proof.Machine
end

