-- ==== Sys2Proof/Machine/VFloat.lean ====
section
/-!
DEFINITION. Vector float instructions (06 R126 to R133).
-/
namespace Sys2Proof.Machine

/-- An element-by-element float instruction that rounds: `f` is given the format, the mode, and the elements of vA, B
and the old vD. -/
def vfloatOp (op : Nat) (dDst rounds : Bool) (f : FFmt → RMode → Nat → Nat → Nat → Nat × BitVec 8) (o : Ops) (s : State) :
    Host.Outcome State Fault Refusal :=
  issue { op := op, guard := .elem 1, dDst := dDst, tags := tagsAre Tag.isFloat } o (fun s v g =>
    let t := elemTy o v.a
    if rounds && s.badRm o then .fault fReservedValue
    else .ok (s.putElems o.d g t fun i =>
      f (fmtOf t) (s.rmode o) (v.a.el t.width i) (v.b.el t.width i) (v.d.el t.width i))) s

/-- A function of two values as one of encodings. -/
def enc2 (f : FFmt → RMode → FV → FV → Nat × BitVec 8) : FFmt → RMode → Nat → Nat → Nat → Nat × BitVec 8 :=
  fun m md a b _ => f m md (decodeF m a) (decodeF m b)
def enc1 (f : FFmt → RMode → FV → Nat × BitVec 8) : FFmt → RMode → Nat → Nat → Nat → Nat × BitVec 8 :=
  fun m md a _ _ => f m md (decodeF m a)
/-- The sign bit cleared or inverted (R130). -/
def fAbsBits (m : FFmt) (x : Nat) : Nat := bits x 0 (m.width - 1)
def fNegBits (m : FFmt) (x : Nat) : Nat := bits x 0 (m.width - 1) + (!bit x (m.width - 1)).toNat * 2 ^ (m.width - 1)

def execVfadd (o : Ops) (s : State) : Host.Outcome State Fault Refusal := vfloatOp 0x180 false true (enc2 fAdd) o s
def execVfsub (o : Ops) (s : State) : Host.Outcome State Fault Refusal :=
  vfloatOp 0x181 false true (enc2 fun m md a b => fAdd m md a b.negate) o s
def execVfmul (o : Ops) (s : State) : Host.Outcome State Fault Refusal := vfloatOp 0x182 false true (enc2 fMul) o s
/-- `vffma`: a × b + d. -/
def execVffma (o : Ops) (s : State) : Host.Outcome State Fault Refusal :=
  vfloatOp 0x183 true true (fun m md a b d => fFma m md (decodeF m a) (decodeF m b) (decodeF m d)) o s
def execVfmin (o : Ops) (s : State) : Host.Outcome State Fault Refusal :=
  vfloatOp 0x184 false false (fun m _ a b _ => fMinMax m false a b) o s
def execVfmax (o : Ops) (s : State) : Host.Outcome State Fault Refusal :=
  vfloatOp 0x185 false false (fun m _ a b _ => fMinMax m true a b) o s
def execVfabs (o : Ops) (s : State) : Host.Outcome State Fault Refusal :=
  vfloatOp 0x186 false false (fun m _ a _ _ => (fAbsBits m a, 0)) o s
def execVfneg (o : Ops) (s : State) : Host.Outcome State Fault Refusal :=
  vfloatOp 0x187 false false (fun m _ a _ _ => (fNegBits m a, 0)) o s
def execVfdiv (o : Ops) (s : State) : Host.Outcome State Fault Refusal := vfloatOp 0x188 false true (enc2 fDiv) o s
def execVfsqrt (o : Ops) (s : State) : Host.Outcome State Fault Refusal := vfloatOp 0x189 false true (enc1 fSqrt) o s
def execVfrcp (o : Ops) (s : State) : Host.Outcome State Fault Refusal := vfloatOp 0x18A false true (enc1 fRcp) o s
def execVfrsq (o : Ops) (s : State) : Host.Outcome State Fault Refusal := vfloatOp 0x18B false true (enc1 fRsq) o s
def execVfexp2 (o : Ops) (s : State) : Host.Outcome State Fault Refusal := vfloatOp 0x18C false true (enc1 fExp2) o s
def execVflog2 (o : Ops) (s : State) : Host.Outcome State Fault Refusal := vfloatOp 0x18D false true (enc1 fLog2) o s

/-- `vfcmp` (R131): every element's flag counts, under the scalar guard. -/
def execVfcmp (o : Ops) (s : State) : Host.Outcome State Fault Refusal :=
  issue { op := 0x18E, tags := tagsAre Tag.isFloat } o (fun s v _ =>
    let t := elemTy o v.a
    let m := fmtOf t
    let r := fun i => condF o.mods.mode.val (decodeF m (v.a.el t.width i)) (decodeF m (v.b.el t.width i))
    .ok ((s.orFlags (elemFlags (BitVec.allOnes 256) t.width fun i => (r i).2)).putP o.d (pofElems t.width fun i => (r i).1))) s

/-- The integer tag of a class mask (R132). -/
def classTag (t : Tag) : Tag :=
  match t with
  | .f64 => .n64
  | .f32 => .n32
  | _ => .n16

/-- `vfclass` (R132). -/
def execVfclass (o : Ops) (s : State) : Host.Outcome State Fault Refusal :=
  issue { op := 0x190, guard := .elem 1, tags := tagsAre Tag.isFloat } o (fun s v g =>
    let t := elemTy o v.a
    .ok (s.putElems o.d g (classTag t) fun i => (fClass (fmtOf t) (v.a.el t.width i), 0))) s

/-- One combination of a float reduction (R133). -/
def fCombine (m : FFmt) (md : RMode) (k : Nat) (x y : Nat) : Nat × BitVec 8 :=
  match k with
  | 0 => fAdd m md (decodeF m x) (decodeF m y)
  | 1 => fMinMax m false x y
  | _ => fMinMax m true x y

/-- Reduction in lane order. -/
def seqReduce (f : Nat → Nat → Nat × BitVec 8) (xs : List Nat) : Nat × BitVec 8 :=
  match xs with
  | [] => (0, 0)
  | x :: xs => xs.foldl (fun a e => let r := f a.1 e; (r.1, a.2 ||| r.2)) (x, 0)

/-- `vfred` and `vfred.seq` (R133). -/
def vfredOp (op : Nat) (seq : Bool) (o : Ops) (s : State) : Host.Outcome State Fault Refusal :=
  issue { op := op, tags := tagsAre Tag.isFloat } o (fun s v _ =>
    let t := elemTy o v.a
    let m := fmtOf t
    let k := v.b.word.toNat
    if k ≥ 3 then .fault (fIllegal 2)
    else if k ≠ 0 ∧ o.mods.mode ≠ 0 then .fault (fIllegal 3)
    else if k = 0 ∧ s.badRm o then .fault fReservedValue
    else
      let n := 256 / t.width
      let xs := (List.range n).map (velem t.width v.a.vbits)
      let f := fCombine m (s.rmode o) k
      let r := if seq then seqReduce f xs else treeReduce f n.log2 xs 0
      .ok ((s.orFlags r.2).putS o.d (BitVec.ofNat 64 r.1))) s

def execVfred (o : Ops) (s : State) : Host.Outcome State Fault Refusal := vfredOp 0x18F false o s
def execVfredSeq (o : Ops) (s : State) : Host.Outcome State Fault Refusal := vfredOp 0x191 true o s

end Sys2Proof.Machine
end

