-- ==== Sys2Proof/Machine/Matrix.lean ====
section
/-!
DEFINITION. Matrix instructions, the matrix queue and matrix commands (07 R135 to R168).
-/
namespace Sys2Proof.Machine

/-! Slots and tiles. -/

def Core.setBank (c : Core) (n : Nat) (b : Bank) : Core := { c with banks := c.banks.put n b }
def Core.setTile (c : Core) (n : Nat) (t : Tile) : Core := { c with tiles := c.tiles.put n t }

/-- The holder of a firing's claims (R137). -/
def Firing.holder (f : Firing) : Claim :=
  match f.kind with
  | .actor | .message => .actor f.actor
  | _ => .firing f.id

/-- A slot of the list is not claimed by the firing's holder: the first, as Capability-refused names it. -/
def unclaimed (c : Core) (f : Firing) (xs : List Nat) : Option FaultInfo :=
  (xs.find? fun x => decide (x < 16) && decide ((c.bank x).claim ≠ f.holder)).map fun x => fCapability (BitVec.ofNat 64 x)

/-- A kind-4 value outside the row's class (R144). -/
def classFail (f n lo hi : Nat) : Option FaultInfo := if lo ≤ n ∧ n ≤ hi then none else some (fIllegal f)

/-- The checks of R146 on an L range. -/
def checkMatL (ea : Int) (n : Nat) : Option FaultInfo := checkL ea n 64

/-- Runs the checks in order: the first failure is the fault. -/
def guardAll (fs : List (Option FaultInfo)) (e : Eff) : Eff :=
  match fs.findSome? id with
  | some f => .fault f
  | none => e

/-! The matrix queue (R138 to R142). -/

/-- Slots and tiles an operation names. -/
def MatKind.names (k : MatKind) : List Nat := k.dest ++ k.srcs
def MatKind.slotsRead (k : MatKind) : List Nat := (k.srcs.filter (· < 16)).eraseDups

/-- A slot that the operation names has a held write: it waits at issue (R139). -/
def Core.heldNamed (c : Core) (k : MatKind) : Bool := c.held.any fun h => k.names.contains h.slot

/-- Reference counts of the slots read rise by 1, or fall (R138). -/
def Core.count (c : Core) (xs : List Nat) (up : Bool) : Core :=
  xs.foldl (fun c x => let b := c.bank x; c.setBank x { b with count := if up then b.count + 1 else b.count - 1 }) c

/-- The A and W tags that a part of a joint operation has as it issues (R141, R158); nothing of another operation. -/
def MatKind.partTags (c : Core) : MatKind → Tag × Tag
  | .mmaj a w _ => (c.issueTag a, c.issueTag w)
  | _ => (.raw, .raw)
/-- The operation takes an entry of the matrix queue (R140). -/
def Core.enqueue (c : Core) (o : MatOp) : Core := { c.count o.op.slotsRead true with mq := c.mq ++ [o] }

/-- Issue of an operation of the matrix queue: it waits for an entry, for held writes of what it names, and for an earlier
acquire (R183). DESIGN CHOICE (log 48): an operation that finds a held write at issue has passed the checks of steps 9 and 10
against the slot's tag of before it; R139 says that the operation waits and not which checks come first. -/
def State.queueMat (s : State) (op : MatKind) (opcode : Nat) (wtag : Tag) : Eff :=
  let c := s.curC
  if c.mq.length ≥ Config.matrixQueueDepth ∨ c.heldNamed op ∨ s.acqPending then .wait
  else .ok { s.modCurC (fun c => c.enqueue
      { id := s.fresh, fir := s.curF.id, op := op, opcode := opcode, wtag := wtag, strict := s.cur.tritstrict
        atag := (op.partTags c).1, btag := (op.partTags c).2 }) with
    fresh := s.fresh + 1 }

/-- A tag check of field f on tile value n. -/
def tileTag (c : Core) (f n : Nat) (ok : Tag → Bool) : Option (Nat × Tag) :=
  let t := c.issueTag n
  if ok t then none else some (f, t)

/-! Claims (R145). -/

/-- `tclaim`. -/
def execTclaim (o : Ops) (s : State) : Host.Outcome State Fault Refusal :=
  issue { op := 0x200 } o (fun s _ _ =>
    let x := o.d.num
    let b := s.curC.bank x
    guardAll [classFail 0 x 0 15]
      (if b.claim = s.curF.holder then .ok s
        else if b.claim = .free then .ok (s.modCurC fun c => c.setBank x { b with claim := s.curF.holder })
        else .wait)) s

/-- `trel`. -/
def execTrel (o : Ops) (s : State) : Host.Outcome State Fault Refusal :=
  issue { op := 0x201 } o (fun s _ _ =>
    let x := o.d.num
    guardAll [classFail 0 x 0 15, unclaimed s.curC s.curF [x]]
      (.ok (s.modCurC fun c => c.setBank x { c.bank x with claim := .free }))) s

/-! Moving data (R146 to R153). -/

/-- Bytes a fill or drain of a slot moves: MX slots take their side-area along. -/
def slotBytes (t : Tag) : Nat := if t.isMx then 16896 else 16384

/-- `tfill`. -/
def execTfill (o : Ops) (s : State) : Host.Outcome State Fault Refusal :=
  let t := o.mods.ty.getD .raw
  issue { op := 0x202 } o (fun s v _ =>
    let x := o.d.num
    let ea := sval v.a.word + sval v.b.word
    guardAll [classFail 0 x 0 15, unclaimed s.curC s.curF [x], checkMatL ea (slotBytes t)]
      (s.queueMat (.tfill x ea.toNat t) 0x202 t)) s

/-- `tdrain`. -/
def execTdrain (o : Ops) (s : State) : Host.Outcome State Fault Refusal :=
  issue { op := 0x203, tiles := fun o => [(2, o.b.num)] } o (fun s v _ =>
    let y := o.b.num
    let ea := sval v.d.word + sval v.a.word
    let n := if y < 16 then slotBytes (s.curC.issueTag y) else 65536
    guardAll [unclaimed s.curC s.curF [y], checkMatL ea n] (s.queueMat (.tdrain y ea.toNat) 0x203 (s.curC.issueTag y))) s

/-- `tscale`. -/
def execTscale (o : Ops) (s : State) : Host.Outcome State Fault Refusal :=
  issue { op := 0x20C, tiles := fun o => [(0, o.d.num)], tags := fun s o _ => tileTag s.curC 0 o.d.num Tag.isMx } o
    (fun s v _ =>
      let x := o.d.num
      let ea := sval v.a.word + sval v.b.word
      guardAll [classFail 0 x 0 15, unclaimed s.curC s.curF [x], checkMatL ea 512]
        (s.queueMat (.tscale x ea.toNat) 0x20C (s.curC.issueTag x))) s

/-- `tzero`. -/
def execTzero (o : Ops) (s : State) : Host.Outcome State Fault Refusal :=
  issue { op := 0x204 } o (fun s _ _ =>
    guardAll [classFail 0 o.d.num 16 23] (s.queueMat (.tzero o.d.num) 0x204 .f32)) s

/-- `tmov` (R151): with a type, the narrowing of a tile into a slot; without, a copy. The f32 tag is asked for of the
narrowing form alone. DESIGN CHOICE (log 45): the order of its checks of step 10. -/
def execTmov (o : Ops) (s : State) : Host.Outcome State Fault Refusal :=
  issue { op := 0x209, tiles := fun o => [(1, o.a.num)]
          tags := fun s o _ =>
            if o.mods.ty.isSome ∧ o.d.num < 16 ∧ 16 ≤ o.a.num then tileTag s.curC 1 o.a.num (· == .f32) else none } o (fun s v _ =>
    let d := o.d.num
    let a := o.a.num
    match o.mods.ty with
    | some t =>
      let p := v.b.word.toNat
      guardAll
        [if a < 16 ∨ 16 ≤ d ∨ o.b.kind ≠ .imm then some (fIllegal 3) else none,
         if p < t.width then none else some (fIllegal 2),
         unclaimed s.curC s.curF [d],
         if s.badRm o then some fReservedValue else none]
        (s.queueMat (.tnarrow d a p t (if o.mods.mode = 0 then bits s.cur.fctl.toNat 0 3 + 1 else o.mods.mode.val)) 0x209 t)
    | none =>
      guardAll
        [if o.b.kind = .none then none else some (fIllegal 2),
         if (d < 16) = (a < 16) then none else some (fIllegal 3),
         unclaimed s.curC s.curF [d, a]]
        (s.queueMat (.tmov d a) 0x209 (s.curC.issueTag a))) s

/-- Tags a slot transpose takes (R152). -/
def ttrTag (t : Tag) : Bool := t == .raw || t == .i8 || t == .n8 || t == .e4m3 || t == .e5m2

/-- `ttr`: the tag is asked for between slots alone. -/
def execTtr (o : Ops) (s : State) : Host.Outcome State Fault Refusal :=
  issue { op := 0x20A, tiles := fun o => [(1, o.a.num)]
          tags := fun s o _ => if o.d.num < 16 ∧ o.a.num < 16 then tileTag s.curC 1 o.a.num ttrTag else none } o (fun s _ _ =>
    let d := o.d.num
    let a := o.a.num
    guardAll [if (d < 16) = (a < 16) then none else some (fIllegal 3), unclaimed s.curC s.curF [d, a]]
      (s.queueMat (.ttr d a) 0x20A (s.curC.issueTag a))) s

/-- `ttrit` (R153): a source that is not t5, or a part beyond 4, is an illegal operand. -/
def execTtrit (o : Ops) (s : State) : Host.Outcome State Fault Refusal :=
  issue { op := 0x20B, tiles := fun o => [(1, o.a.num)] } o (fun s v _ =>
    let d := o.d.num
    let a := o.a.num
    let p := v.b.word.toNat
    guardAll
      [classFail 0 d 0 15, classFail 1 a 0 15, if s.curC.issueTag a = .t5 then none else some (fIllegal 1),
       classFail 2 p 0 4, unclaimed s.curC s.curF [d, a]]
      (s.queueMat (.ttrit d a p) 0x20B .i8)) s

/-! Held slot writes (R139). -/

/-- A slot written whole. -/
def Core.writeSlot (c : Core) (x : Nat) (data side : Nat) (tag : Tag) : Core :=
  c.setBank x { c.bank x with data := BitVec.ofNat _ data, side := BitVec.ofNat _ side, tag := tag }

/-- The held writes of slots whose count has reached 0, oldest first. -/
def Core.releaseHeld (c : Core) : Core :=
  let ready := c.held.filter fun h => (c.bank h.slot).count == 0
  ready.foldl (fun c h => { c.writeSlot h.slot h.data.toNat h.side.toNat h.tag with
    held := c.held.filter fun g => g.id != h.id }) c

/-! Multiply (R154 to R159). -/

/-- The row of Table 7.4 that a tag stands in. -/
def mmaRow (t : Tag) : Option Nat :=
  match t with
  | .f16 | .bf16 => some 0
  | .i8 | .n8 | .e4m3 | .e5m2 => some 1
  | .lb8 => some 3
  | .lb5 => some 4
  | .lb3 => some 5
  | .t5 => some 6
  | t => if t.isMx then some 2 else none

/-- The tag check of R154. -/
def mmaTags (c : Core) (d a w : Nat) : Option (Nat × Tag) :=
  (tileTag c 0 d (· == .f32)).or ((tileTag c 1 a fun t => (mmaRow t).isSome).or
    (tileTag c 2 w fun t => (mmaRow t).isSome && mmaRow t == mmaRow (c.issueTag a)))

/-- `mma`. -/
def execMma (o : Ops) (s : State) : Host.Outcome State Fault Refusal :=
  issue { op := 0x205, tiles := fun o => [(0, o.d.num), (1, o.a.num), (2, o.b.num)]
          tags := fun s o _ => mmaTags s.curC o.d.num o.a.num o.b.num } o (fun s _ _ =>
    guardAll [classFail 0 o.d.num 16 23, classFail 1 o.a.num 0 7, classFail 2 o.b.num 8 15,
        unclaimed s.curC s.curF [o.a.num, o.b.num]]
      (s.queueMat (.mma o.d.num o.a.num o.b.num) 0x205 .f32)) s

/-- The four cores of a core's square. -/
def squareCores (ep : Nat) : List Nat := (List.range 4).map fun q => ep / 4 * 4 + q

def ctiles : List Nat := [16, 17, 18, 19, 20, 21, 22, 23]

/-- The part of joint operation k that a core has queued. -/
def Core.jointPart (c : Core) (k : Nat) : Option (Nat × MatOp) :=
  match listIdx (fun (o : MatOp) => match o.op with | .mmaj _ _ j => j == k | _ => false) c.mq 0 with
  | some i => c.mq[i]?.map fun o => (i, o)
  | none => none

def jointOf : MatKind → Option (Nat × Nat × Nat)
  | .mmaj a w k => some (a, w, k)
  | _ => none

/-- The parts of a formed joint operation: core, queue position, operation, A slot, W slot. -/
structure JPart where
  ep : Nat
  idx : Nat
  op : MatOp
  a : Nat
  w : Nat

def State.jointParts (s : State) (ep k : Nat) : Option (List JPart) :=
  (squareCores ep).mapM fun e => match (s.core e).jointPart k with
    | some (i, o) => match jointOf o.op with
      | some (a, w, _) => some { ep := e, idx := i, op := o, a := a, w := w }
      | none => none
    | none => none

/-- The operation that the fourth part forms checks agreement of the four A tags and the four W tags, which the parts had as
they issued (R141); without it the operation is discarded on the four cores, each of which defers Format-tag fault (R158). -/
def State.formJoint (s : State) (ep k : Nat) : State :=
  match s.jointParts ep k with
  | none => s
  | some ps =>
    let agree : (MatOp → Tag) → Bool := fun f => match ps with
      | [] => true
      | p :: _ => ps.all fun q => f q.op == f p.op
    if agree MatOp.atag && agree MatOp.btag then s
    else
      let f : Nat := if agree MatOp.atag then 2 else 1
      ps.foldl (fun s' p => s'.modCore p.ep fun c =>
        let c := ({ c with mq := listDel c.mq p.idx }.count p.op.op.slotsRead false).releaseHeld
        let d : Deferred :=
          { code := 0x05, info0 := BitVec.ofNat 64 f
            info1 := BitVec.ofNat 64 (if agree MatOp.atag then p.op.btag else p.op.atag).code
            names := p.op.op.names.eraseDups, opcode := p.op.opcode }
        { c with deferred := c.deferred ++ [d] }) s

/-- `mmaj` (R157). DESIGN CHOICE (log 48): Capability-refused for cores that form no square has 0 in fltinfo0, since `mmaj` has no
capability, handle or mailbox address for Table 21.1 to give. -/
def execMmaj (o : Ops) (s : State) : Host.Outcome State Fault Refusal :=
  issue { op := 0x206
          tiles := fun o => ctiles.map (fun n => (0, n)) ++ [(1, o.a.num), (2, o.b.num), (2, o.b.num + 1)] } o (fun s _ _ =>
    let c := s.curC
    let a := o.a.num
    let w := o.b.num
    let tag := match (mmaTags c 16 a w).or ((tileTag c 2 (w + 1) (· == c.issueTag w)).or
        (ctiles.findSome? fun n => tileTag c 0 n (· == .f32))) with
      | some e => some (fTag e.1 e.2)
      | none => none
    let op := MatKind.mmaj a w (c.jointSeq + 1)
    guardAll
      [classFail 0 o.d.num 16 16, classFail 1 a 0 7, classFail 2 w 8 15, if w % 2 = 0 then none else some (fIllegal 2),
       if (squareCores s.curCore).all fun e => (s.core e).cap == some s.curF.cap then none else some (fCapability 0),
       unclaimed c s.curF [a, w, w + 1], tag]
      (match s.queueMat op 0x206 .f32 with
        | .ok s =>
          let k := s.curC.jointSeq + 1
          .ok ((s.modCurC fun c => { c with jointSeq := k }).formJoint s.curCore k)
        | e => e)) s

/-! Status and waiting (R161, R162). -/

/-- The holder field of Table 7.5. DESIGN CHOICE (log 45): a manifest index above 255 shows its low 8 bits. -/
def Claim.code : Claim → Nat
  | .free => 0xFF
  | .actor i => i % 256
  | .firing _ => 0xFE

def Core.tileStatus (c : Core) (y : Nat) : Word :=
  if y < 16 then
    let b := c.bank y
    BitVec.ofNat 64 (b.claim.code * 2 ^ 16 + b.count * 2 ^ 6 + (c.held.any fun h => h.slot == y).toNat * 32 + (c.issueTag y).code)
  else BitVec.ofNat 64 (0xFF * 2 ^ 16 + (c.issueTag y).code)

/-- Table 7.6. -/
def Core.matrixStatus (c : Core) : Word :=
  let d := match c.deferred with | e :: _ => e.code | [] => 0
  BitVec.ofNat 64 (d * 2 ^ 40 + (!c.deferred.isEmpty).toNat * 2 ^ 39 + c.jd.toNat * 2 ^ 38
    + c.jointSeq % 256 * 2 ^ 24 + c.mq.length * 2 ^ 16 + c.mflags.toNat)

/-- `mstat`. -/
def execMstat (o : Ops) (s : State) : Host.Outcome State Fault Refusal :=
  issue { op := 0x20D } o (fun s v _ =>
    match o.a with
    | .imm _ =>
      let k := v.a.word.toNat
      if k = 0 then .ok (s.putS o.d s.curC.matrixStatus)
      else if k = 1 then .ok ((s.putS o.d s.curC.matrixStatus).modCurC fun c => { c with mflags := 0, jd := false })
      else .fault (fIllegal 1)
    | _ => .ok (s.putS o.d (s.curC.tileStatus o.a.num))) s

/-- The oldest deferred fault that names y, or for none the oldest, with its place in the list (R163). -/
def Core.deferredFor (c : Core) (y : Option Nat) : Option (Nat × Deferred) :=
  let hit := fun (d : Deferred) => match y with
    | some n => d.names.contains n
    | none => true
  (listIdx hit c.deferred 0).bind fun k => (c.deferred[k]?).map fun d => (k, d)

/-- What a deferred fault's record says at a `mwait` (R163). -/
def Deferred.info (d : Deferred) : FaultInfo :=
  ⟨d.code, d.info0, BitVec.ofNat 64 (bits d.info1.toNat 0 48 + d.opcode * 2 ^ 48)⟩

/-- The `mwait` of the current slot has finished waiting: the fault it raises is taken, or execution goes on (R162,
R163). -/
def State.mwaitEnd (s : State) (y : Option Nat) : State :=
  match s.curC.deferredFor y with
  | some (k, d) => (s.modCurC fun c => { c with deferred := listDel c.deferred k }).trapHere d.info clsDeferred
  | none => (s.modCur fun x => { x with wait := .none }).advance

/-- `mwait`: a slot it names must be claimed (R137); at issue it notes the operations it awaits, and it stays its slot's word until they have finished. -/
def execMwait (o : Ops) (s : State) : Host.Outcome State Fault Refusal :=
  issue { op := 0x20E } o (fun s _ _ =>
    let y : Option Nat := match o.d with | .tile n => some n.val | _ => none
    let ids := (s.curC.mq.filter fun m => match y with
      | some n => m.op.names.contains n
      | none => true).map MatOp.id
    guardAll [unclaimed s.curC s.curF y.toList]
      (.hold (if ids.isEmpty then s.mwaitEnd y else s.modCur fun x => { x with wait := .mwait ids y }))) s

/-- A `mwait` in slot k of core ep ends once every operation it awaits has finished (R162): its next word may issue in
that cycle. -/
def State.mwaitTest (s : State) (ep k : Nat) : State :=
  match (s.slot ep k).wait with
  | .mwait ids y =>
    if (s.core ep).mq.any fun m => ids.contains m.id then s
    else { s with curCore := ep, curSlot := k }.mwaitEnd y
  | _ => s

/-! Capabilities and commands (R164 to R166). -/

/-- `mcap` with an op other than revocation: minting, or an illegal op. -/
def execMcapMint (o : Ops) (s : State) : Host.Outcome State Fault Refusal :=
  issue { op := 0x208 } o (fun s v _ =>
    if v.b.word ≠ 0 then .fault (fIllegal 2)
    else
      let c := s.curC
      match (List.range 16).find? fun e => match c.captab.find e with | some x => !x.live | none => true with
      | none => .ok (s.putS o.d 0)
      | some e =>
        let mask := bits v.a.word.toNat 0 24
        let s := s.modCurC fun c => { c with
          captab := c.captab.put e { gen := c.capGen, mask := mask, cap := s.curF.cap, live := true }
          capGen := if c.capGen = 0xFFFFF then 1 else c.capGen + 1 }
        .ok (s.putS o.d (BitVec.ofNat 64 (s.curCore % 2 ^ 16 * 2 ^ 48 + mask * 2 ^ 24 + e * 2 ^ 20 + c.capGen)))) s

/-- The live entry that a capability names on a core, by its index (Table 7.7). -/
def Core.liveCap (c : Core) (ep : Nat) (h : Word) : Option (Nat × CapEnt) :=
  let e := bits h.toNat 20 4
  match c.captab.find e with
  | some x => if x.live ∧ x.gen = bits h.toNat 0 20 ∧ bits h.toNat 48 16 = ep then some (e, x) else none
  | none => none

/-- `mcap` with op 1: revocation. -/
def execMcapRevoke (o : Ops) (s : State) : Host.Outcome State Fault Refusal :=
  issue { op := 0x208 } o (fun s v _ =>
    match s.curC.liveCap s.curCore v.a.word with
    | some (e, x) => .ok ((s.modCurC fun c => { c with captab := c.captab.put e { x with live := false } }).putS o.d 1)
    | none => .ok (s.putS o.d 0)) s

/-- Commands of a firing not yet accepted at their targets (R165). -/
def State.commandsOut (s : State) (fir : Nat) : Nat :=
  (s.cores.map fun e => (e.2.cmdIn.filter fun m => m.fir == fir).length).foldl (· + ·) 0

/-- `mcmd`. DESIGN CHOICE (log 48): a capability that names an endpoint which is no core of the pod is refused as one that
names another core is; R166 has a core make the checks. -/
def execMcmd (o : Ops) (s : State) : Host.Outcome State Fault Refusal :=
  issue { op := 0x207 } o (fun s v _ =>
    let f := s.curF
    if s.commandsOut f.id ≥ 8 ∨ s.acqPending then .wait
    else .ok (s.bump.modCore (bits v.d.word.toNat 48 16) fun c => { c with
      cmdIn := c.cmdIn ++ [{ seq := s.fresh, cap := f.cap, fir := f.id, handle := v.d.word, word := v.a.word, stamp := s.cur.dline.toNat }] })) s

/-- A status of a commanded operation (R166): its message, or with no mailbox its fault outside any firing. -/
def State.commandStatus (s : State) (ep : Nat) (m : CmdInfo) (status : Nat) : State :=
  let box := bits m.word.toNat 48 16
  if box = 0xFFFF then
    if status = 0 then s else s.faultOutside m.cap ep status m.word (BitVec.ofNat 64 status) 2
  else s.postTyped (.matrix ep) m.cap box [3]
    (mkMsg (BitVec.ofNat 64 status) (BitVec.ofNat 64 ep) m.word 0 m.stamp) ep 2

/-- The operation of a command word with its opcode and tag, or the code of the check it fails (R166). DESIGN CHOICE
(log 45): a reserved op uses no tile, so it answers 0x03. DESIGN CHOICE (log 48): the mask asked is the table entry's, as
minted, whatever the handle's own mask field holds. -/
def Core.command (c : Core) (ep : Nat) (m : CmdInfo) : Except Nat (MatKind × Nat × Tag) :=
  let w := m.word.toNat
  let op := bits w 0 4
  let d := bits w 5 5
  let a := bits w 10 5
  let b := bits w 15 5
  let used := match op with
    | 0 => [d, a, b]
    | 1 => [d]
    | 2 | 3 => [d, a]
    | _ => []
  match c.liveCap ep m.handle with
  | none => .error 0x0E
  | some (_, x) =>
    if x.cap ≠ m.cap then .error 0x0E
    else if used.any (fun t => !bit x.mask t || decide (24 ≤ t)) then .error 0x0E
    else if bit w 4 ∨ bits w 20 28 ≠ 0 ∨ 4 ≤ op then .error 0x03
    else
      let okTiles := match op with
        | 0 => decide (16 ≤ d) && decide (d ≤ 23) && decide (a ≤ 7) && decide (8 ≤ b) && decide (b ≤ 15)
        | 1 => decide (16 ≤ d) && decide (d ≤ 23) && a == 0 && b == 0
        | _ => decide ((d < 16) = (a < 16)) && b == 0
      if !okTiles then .error 0x02
      else
        let srcs := match op with
          | 0 => [d, a, b]
          | 1 => []
          | _ => [a]
        if srcs.any fun t => c.issueTag t == .poison then .error 0x0C
        else
          let tag := match op with
            | 0 => mmaTags c d a b
            | 3 => if a < 16 then tileTag c 1 a ttrTag else none
            | _ => none
          if tag.isSome then .error 0x05
          else match op with
            | 0 => .ok (.mma d a b, 0x205, .f32)
            | 1 => .ok (.tzero d, 0x204, .f32)
            | 2 => .ok (.tmov d a, 0x209, c.issueTag a)
            | _ => .ok (.ttr d a, 0x20A, c.issueTag a)

/-- The command a core accepts next: the first that its input sees. The input sees a firing's command only once its
firing's earlier ones have been accepted, wherever they went (R165). -/
def State.nextCommand (s : State) (ep : Nat) : Option CmdInfo :=
  (s.core ep).cmdIn.find? fun m => s.cores.all fun e => e.2.cmdIn.all fun n => n.fir != m.fir || decide (m.seq ≤ n.seq)

/-- Event MATRIX_COMMAND_ACCEPT (R166): the next command of a core's input, when the matrix queue has a free entry and
the completion buffer room (Table 14.13). -/
def execMatrixCommandAccept (ep : Nat) (s : State) : Host.Outcome State Fault Refusal :=
  let c := s.core ep
  match s.nextCommand ep with
  | none => .next s
  | some m =>
    let ms := c.cmdIn.filter fun n => n.seq != m.seq
    if c.mq.length ≥ Config.matrixQueueDepth
      ∨ (s.held.filter fun h => h.src == .matrix ep).length ≥ Config.completionBufferDepth then .next s
    else match c.command ep m with
      | .error status => .next ((s.modCore ep fun c => { c with cmdIn := ms }).commandStatus ep m status)
      | .ok (op, code, tag) =>
        if c.heldNamed op then .next s
        else .next { s.modCore ep (fun c => { c with cmdIn := ms }.enqueue
            { id := s.fresh, fir := m.fir, op := op, opcode := code, wtag := tag, strict := (s.cap m.cap).tritstrict, cmd := some m }) with
          fresh := s.fresh + 1 }

/-! Operands of the array (Tables 7.1, 7.4, R155). -/

def matK (t : Tag) : Nat :=
  match t with
  | .f16 | .bf16 => 64
  | .lb8 => 96
  | .lb5 => 160
  | .lb3 => 256
  | .t5 => 640
  | _ => 128

def Bank.byte (b : Bank) (i : Nat) : Nat := bits b.data.toNat (8 * i) 8
/-- Where the headers of an lb slot begin. -/
def lbHeaders (t : Tag) : Nat := if t = .lb5 then 0x3200 else 0x3000

/-- `Value(x, r, k)`, and the flag its decoding sets. -/
def matValue (t : Tag) (b : Bank) (r k : Nat) : FV :=
  match t with
  | .t5 =>
    let x := b.byte (128 * r + k / 5)
    if x ≥ 243 then .fin false 0 0
    else let w := tritWeight x (k % 5); .fin (decide (w < 0)) w.natAbs 0
  | t =>
    if t.isMx then
      let nb := blockBytes t
      let c := blockBits t
      decodeMx t (bits b.side.toNat (8 * (4 * r + k / 32)) 8) (bits b.data.toNat (8 * (4 * nb * r + nb * (k / 32)) + c * (k % 32)) c)
    else if t.isLb then
      let nb := blockBytes t
      let c := blockBits t
      let n := matK t / 32
      decodeLb (lbK t) (bits b.data.toNat (8 * (lbHeaders t + 4 * (n * r + k / 32))) 32)
        (bits b.data.toNat (8 * (nb * n * r + nb * (k / 32)) + c * (k % 32)) c) (k % 32)
    else decodeElem t (bits b.data.toNat (8 * (128 * r + t.width * k)) (8 * t.width))

def matRow (t : Tag) (b : Bank) (r : Nat) : List FV := (List.range (matK t)).map (matValue t b r)

/-- An exact product, with the flags of its factors. DESIGN CHOICE (log 45): a product of zero has the sign that the signs
of its factors give, the integer and the ternary zero being positive. -/
def mulExact (a b : FV) : FV × BitVec 8 :=
  match a, b with
  | .fin na ma ea, .fin nb mb eb => (.fin (na != nb) (ma * mb) (ea + eb), 0)
  | .inf n, .fin k m _ => if m = 0 then (.nan false, flagNv) else (.inf (n != k), 0)
  | .fin k m _, .inf n => if m = 0 then (.nan false, flagNv) else (.inf (n != k), 0)
  | .inf n, .inf k => (.inf (n != k), 0)
  | x, y => (.nan false, nvOf [x, y])

/-- The block sum s of the products P, rounded once to f32. -/
def blockSum (ps : List FV) : Nat × BitVec 8 :=
  if ps.any FV.isNan then (canonF fmtF32, 0)
  else
    let pos := ps.any (· == .inf false)
    let neg := ps.any (· == .inf true)
    if pos && neg then (canonF fmtF32, flagNv)
    else if pos || neg then (infF fmtF32 neg, 0)
    else match ps with
      | [] => (0, 0)
      | p :: ps =>
        let r := ps.foldl (fun (a : Bool × Nat × Int) q =>
          let x := q.parts
          addFin false a.1 a.2.1 a.2.2 x.1 x.2.1 x.2.2) p.parts
        roundFin fmtF32 false .rne r.1 r.2.1 r.2.2

/-- The blocks of 32 products in order, added to the accumulator; the fuel is the number of blocks. -/
def accumulate : Nat → List (FV × FV) → Nat → BitVec 8 → Nat × BitVec 8
  | 0, _, acc, fl => (acc, fl)
  | n + 1, xs, acc, fl =>
    let ps := (xs.take 32).map fun p => mulExact p.1 p.2
    let s := blockSum (ps.map Prod.fst)
    let r := fAdd fmtF32 .rne (decodeF fmtF32 acc) (decodeF fmtF32 s.1)
    accumulate n (xs.drop 32) r.1 (ps.foldl (fun f p => f ||| p.2) fl ||| s.2 ||| r.2)

/-- One element of a product. -/
def mmaElem (k : Nat) (a w : List FV) (acc : Nat) : Nat × BitVec 8 := accumulate (k / 32) (a.zip w) acc 0

def Tile.elem (t : Tile) (i : Nat) : Nat := bits t.data.toNat (32 * i) 32
/-- A tile from its 16,384 elements in order. -/
def tileOf (els : List Nat) (tag : Tag) : Tile := { data := BitVec.ofNat 524288 (els.foldr (fun e acc => e % 2 ^ 32 + acc * 2 ^ 32) 0), tag := tag }

/-- A tile with a product added (R155): rows of the left operand, and columns. -/
def mmaTile (k : Nat) (rows cols : List (List FV)) (t : Tile) : Tile × BitVec 8 :=
  let r := (List.range 128).flatMap fun i => (List.range 128).map fun j =>
    mmaElem k (rows.getD i []) (cols.getD j []) (t.elem (128 * i + j))
  (tileOf (r.map Prod.fst) .f32, r.foldl (fun f e => f ||| e.2) 0)

/-- The first illegal t5 byte of a slot: index and value. -/
def badTrit (b : Bank) : Option (Nat × Nat) :=
  ((List.range 16384).find? fun i => decide (b.byte i ≥ 243)).map fun i => (i, b.byte i)

/-! What an operation does when it finishes. -/

/-- The outcome of an operation: the core it leaves, flags, or the deferred fault. -/
inductive MatResult where
  | ok (c : Core) (flags : BitVec 8)
  | fault (code : Nat) (i0 i1 : Word)

/-- A destination's tag alone becomes poison (R167). -/
def Core.poisonDest (c : Core) (xs : List Nat) : Core :=
  xs.foldl (fun c x => if x < 16 then c.setBank x { c.bank x with tag := .poison }
    else c.setTile (x - 16) { c.tile (x - 16) with tag := .poison }) c

/-- The bytes of a slot's data and, for an MX tag, its side-area. -/
def Bank.bytes (b : Bank) (mx : Bool) : List Byte :=
  toBytes 16384 b.data.toNat ++ (if mx then toBytes 512 b.side.toNat else [])
def Tile.bytes (t : Tile) : List Byte := toBytes 65536 t.data.toNat

/-- Trit-code when the operands hold an illegal byte and the operation is strict; else whether one is there. -/
def tritCheck (strict : Bool) (bad : Option (Nat × Nat)) : Except MatResult Bool :=
  match bad with
  | none => .ok false
  | some (i, v) => if strict then .error (.fault 0x10 (BitVec.ofNat 64 i) (BitVec.ofNat 64 v)) else .ok true

/-- An operation of one core, its sources not poisoned. A `tdrain` moves what its source's tag at issue asks for. DESIGN
CHOICE (log 48): an operation that issued against the tag of an earlier one which then deferred a fault, and wrote nothing,
takes its slot or tile with the tag it has; R163 does not say. DESIGN CHOICE (log 48): a `tfill` or `tscale` that reads bytes of
the L store marked poisoned gives its slot the tag 0x1F with a report to the Errors core, as R72 and R167 give a poisoned load
and a poisoned slot; the spec says nothing of these two. -/
def Core.perform (c : Core) (o : MatOp) : MatResult :=
  match o.op with
  | .tfill x off ty =>
    let r := c.lread off (slotBytes ty)
    let side := if ty.isMx then ofBytes (r.1.drop 16384) else 0
    let b := c.bank x
    .ok (c.setBank x { b with data := BitVec.ofNat _ (ofBytes (r.1.take 16384)), side := BitVec.ofNat _ side
                              tag := if r.2 then .poison else ty }) 0
  | .tdrain y off =>
    let bs := if y < 16 then (c.bank y).bytes o.wtag.isMx else (c.tile (y - 16)).bytes
    .ok (c.lwrite off bs (c.doneTag y == .poison)) 0
  | .tscale x off =>
    let r := c.lread off 512
    let b := c.bank x
    .ok (c.setBank x { b with side := BitVec.ofNat _ (ofBytes r.1), tag := if r.2 then .poison else b.tag }) 0
  | .tzero d => .ok (c.setTile (d - 16) { data := 0, tag := .f32 }) 0
  | .mma d a w =>
    let ba := c.bank a
    let bw := c.bank w
    let bad := if ba.tag = .t5 then (badTrit ba).or (badTrit bw) else none
    match tritCheck o.strict bad with
    | .error r => r
    | .ok t =>
      let rows := (List.range 128).map (matRow ba.tag ba)
      let cols := (List.range 128).map (matRow bw.tag bw)
      let r := mmaTile (matK ba.tag) rows cols (c.tile (d - 16))
      .ok (c.setTile (d - 16) r.1) (r.2 ||| if t then flagTrit else 0)
  | .mmaj _ _ _ => .ok c 0
  | .tmov d a =>
    if d < 16 then
      let s := c.bank a
      .ok (c.setBank d { c.bank d with data := s.data, side := s.side, tag := s.tag }) 0
    else .ok (c.setTile (d - 16) (c.tile (a - 16))) 0
  | .tnarrow d a p ty mode =>
    let k := 128 / ty.width
    let t := c.tile (a - 16)
    let r := (List.range 128).flatMap fun i => (List.range k).map fun j =>
      convert .f32 ty (rmodeOf mode 0) (t.elem (128 * i + p * k + j))
    let data := (r.map Prod.fst).foldr (fun e acc => e % 2 ^ (8 * ty.width) + acc * 2 ^ (8 * ty.width)) 0
    .ok (c.setBank d { c.bank d with data := BitVec.ofNat _ data, side := 0, tag := ty }) (r.foldl (fun f e => f ||| e.2) 0)
  | .ttr d a =>
    if d < 16 then
      let s := c.bank a
      let data := ((List.range 16384).map fun i => s.byte (128 * (i % 128) + i / 128)).foldr (fun e acc => e + acc * 256) 0
      .ok (c.setBank d { c.bank d with data := BitVec.ofNat _ data, side := 0, tag := s.tag }) 0
    else
      let t := c.tile (a - 16)
      .ok (c.setTile (d - 16) (tileOf ((List.range 16384).map fun i => t.elem (128 * (i % 128) + i / 128)) t.tag)) 0
  | .ttrit d a p =>
    let s := c.bank a
    let idx := fun (i : Nat) => 128 * (i / 128) + (128 * p + i % 128) / 5
    let bad := ((List.range 16384).find? fun i => decide (s.byte (idx i) ≥ 243)).map fun i => (idx i, s.byte (idx i))
    match tritCheck o.strict bad with
    | .error r => r
    | .ok t =>
      let data := ((List.range 16384).map fun i =>
        let b := s.byte (idx i)
        if b ≥ 243 then 0 else wrapTo 8 (tritWeight b ((128 * p + i % 128) % 5))).foldr (fun e acc => e + acc * 256) 0
      .ok (c.setBank d { c.bank d with data := BitVec.ofNat _ data, side := 0, tag := .i8 }) (if t then flagTrit else 0)

/-- Event HELD_SLOT_WRITE (R139): held write idx of a core, once its slot's count is 0. A write is performed in the very
cycle the count reaches 0, so a held write whose count is 0 is one that has just been let go. -/
def execHeldSlotWrite (ep idx : Nat) (s : State) : Host.Outcome State Fault Refusal :=
  match (s.core ep).held[idx]? with
  | some h =>
    if ((s.core ep).bank h.slot).count = 0 then
      .next (s.modCore ep fun c => { c.writeSlot h.slot h.data.toNat h.side.toNat h.tag with held := listDel c.held idx })
    else .next s
  | none => .next s

/-! Starting and finishing (R142, R158, R159, R163). -/

def MatKind.isArray : MatKind → Bool
  | .mma _ _ _ | .mmaj _ _ _ => true
  | _ => false

/-- Two operations touch the same slot or tile, one of them writing it. -/
def conflicts (a b : MatKind) : Bool :=
  a.dest.any (b.names.contains ·) || b.dest.any (a.names.contains ·)

/-- The operation at idx may start: every earlier one on its pipe, and every one it conflicts with, has finished. -/
def Core.canStart (c : Core) (idx : Nat) : Bool :=
  match c.mq[idx]? with
  | some o => !o.started && (c.mq.take idx).all fun p => p.op.isArray != o.op.isArray && !conflicts p.op o.op
  | none => false

/-- Event MATRIX_OP_START: the operation at idx of a core's matrix queue starts. A joint operation starts on the four
arrays together, once it is formed and each can start its part (R159). -/
def execMatrixOpStart (ep idx : Nat) (s : State) : Host.Outcome State Fault Refusal :=
  let start := fun (s : State) (e i : Nat) => s.modCore e fun c =>
    match c.mq[i]? with
    | some o => { c with mq := listSet c.mq i { o with started := true } }
    | none => c
  match (s.core ep).mq[idx]? with
  | none => .next s
  | some o =>
    match jointOf o.op with
    | none => if (s.core ep).canStart idx then .next (start s ep idx) else .next s
    | some (_, _, k) =>
      let parts := (squareCores ep).map fun e => (e, (s.core e).jointPart k)
      if parts.all fun p => match p.2 with | some (i, _) => (s.core p.1).canStart i | none => false then
        .next (parts.foldl (fun s p => match p.2 with | some (i, _) => start s p.1 i | none => s) s)
      else .next s

/-- The entry leaves the queue: counts fall, held writes of free slots are performed (R138, R139). -/
def Core.retire (c : Core) (idx : Nat) (o : MatOp) : Core :=
  ({ c with mq := listDel c.mq idx }.count o.op.slotsRead false).releaseHeld
/-- The pulses of an operation that has finished (Table 14.8). -/
def State.opPulses (s : State) (ep : Nat) (o : MatOp) : State :=
  let s := s.pulseSource ep 6
  if o.op.isArray then s.pulseSource ep 7 else s

/-- The operation ends with a deferred fault: recorded with what it names (R163), or a command's status (R166). -/
def State.deferFault (s : State) (ep : Nat) (o : MatOp) (code : Nat) (i0 i1 : Word) : State :=
  match o.cmd with
  | some m => s.commandStatus ep m code
  | none => s.modCore ep fun c => { c with
      deferred := c.deferred ++ [{ code := code, info0 := i0, info1 := i1, names := o.op.names.eraseDups, opcode := o.opcode }] }

/-- A finished operation's status to its commander. -/
def State.finishCmd (s : State) (ep : Nat) (o : MatOp) : State :=
  match o.cmd with
  | some m => s.commandStatus ep m 0
  | none => s

/-- An operation of one core finishes. One that meets poison spoils its whole destination, with a RAS report (R167,
R415). -/
def State.finishOp (s : State) (ep idx : Nat) (o : MatOp) : State :=
  let c := s.core ep
  let isDrain := match o.op with | .tdrain _ _ => true | _ => false
  if !isDrain && o.op.srcs.any fun x => c.doneTag x == .poison then
    (((s.setCore ep ((c.poisonDest o.op.dest).retire idx o)).opPulses ep o).ras ep).finishCmd ep o
  else
    let tell := fun (s : State) (k : Core) =>
      if (isDrain && o.op.srcs.any fun x => c.doneTag x == .poison) || o.op.dest.any fun x => k.doneTag x == .poison
      then s.ras ep else s
    match c.perform o with
    | .ok c fl => (tell ((s.setCore ep ({ c with mflags := c.mflags ||| fl }.retire idx o)).opPulses ep o) c).finishCmd ep o
    | .fault code i0 i1 => ((s.setCore ep (c.retire idx o)).opPulses ep o).deferFault ep o code i0 i1

/-- The column operands of a joint operation: 1,024 rows of the four W quarters (R158). -/
def jointCols (s : State) (ps : List JPart) : List (List FV) :=
  ps.flatMap fun p => [p.w, p.w + 1].flatMap fun x =>
    let b := (s.core p.ep).bank x
    (List.range 128).map (matRow b.tag b)

/-- One core's part of a joint operation: its eight tiles. -/
def Core.jointPerform (c : Core) (p : JPart) (cols : List (List FV)) : Core :=
  let ba := c.bank p.a
  let rows := (List.range 128).map (matRow ba.tag ba)
  (List.range 8).foldl (fun c n =>
    let r := mmaTile (matK ba.tag) rows ((cols.drop (128 * n)).take 128) (c.tile n)
    { c.setTile n r.1 with mflags := c.mflags ||| r.2 }) c

/-- The first illegal t5 byte of a core's A quarter, and of its W quarter. -/
def State.badQuarter (s : State) (x : JPart → List Nat) (p : JPart) : Option (Nat × Nat) :=
  (x p).findSome? fun n => let b := (s.core p.ep).bank n; if b.tag = .t5 then badTrit b else none

/-- A joint operation finishes on all four cores together (R158, R159). An illegal t5 byte sets `tritbad` on each core
that reads it. DESIGN CHOICE (log 45): under trit-strict the one operation defers its fault on all four cores and leaves
every tile. -/
def State.finishJoint (s : State) (ps : List JPart) : State :=
  let retire := fun (s : State) (p : JPart) => (s.modCore p.ep fun c => c.retire p.idx p.op).opPulses p.ep p.op
  let poisoned := ps.any fun p => p.op.op.srcs.any fun x => (s.core p.ep).doneTag x == .poison
  if poisoned then
    ps.foldl (fun s p => (retire (s.modCore p.ep fun c => c.poisonDest ctiles) p).ras p.ep) s
  else
    let badA := s.badQuarter fun p => [p.a]
    let badW := ps.findSome? (s.badQuarter fun p => [p.w, p.w + 1])
    match tritCheck (ps.any fun p => p.op.strict) ((ps.findSome? badA).or badW) with
    | .error (.fault code i0 i1) => ps.foldl (fun s p => (retire s p).deferFault p.ep p.op code i0 i1) s
    | .error (.ok _ _) => s
    | .ok _ =>
      let cols := jointCols s ps
      ps.foldl (fun s' p => retire (s'.modCore p.ep fun c =>
        let c := c.jointPerform p cols
        { c with mflags := c.mflags ||| if ((badA p).or badW).isSome then flagTrit else 0 }) p) s

/-- Event MATRIX_OP_FINISH: a started operation finishes; a joint one on its four cores together. -/
def execMatrixOpFinish (ep idx : Nat) (s : State) : Host.Outcome State Fault Refusal :=
  match (s.core ep).mq[idx]? with
  | none => .next s
  | some o =>
    if !o.started then .next s
    else match jointOf o.op with
      | none => .next (s.finishOp ep idx o)
      | some (_, _, k) => match s.jointParts ep k with
        | some ps => .next (s.finishJoint ps)
        | none => .next s

/-- A save begins on a core of a square: partly formed joint operations are discarded on all four cores (R160). -/
def State.dropJoint (s : State) (ep : Nat) : State :=
  let es := squareCores ep
  let whole := fun k => es.all fun e => ((s.core e).jointPart k).isSome
  let part := fun (o : MatOp) => match jointOf o.op with
    | some (_, _, k) => !whole k
    | none => false
  let any := es.any fun e => (s.core e).mq.any part
  let top := es.foldl (fun m e => max m (s.core e).jointSeq) 0
  if !any then s
  else es.foldl (fun s' e => s'.modCore e fun c =>
    let drop := c.mq.filter part
    let c := drop.foldl (fun c o => c.count o.op.slotsRead false) c
    { c with mq := c.mq.filter (fun o => !part o), jd := true, jointSeq := top }.releaseHeld) s

end Sys2Proof.Machine
end

