-- ==== Sys2Proof/Machine/Order.lean ====
section
/-!
DEFINITION. The ordering machine (09): paths and read paths, what a read finds, the conditions under which a request
of an issue queue may be performed, and what performing leaves.
-/
namespace Sys2Proof

/-- Points by rank (Table 9.2); `.fir` needs no entry to reach anywhere (R185). -/
def Scope.level : Scope → Nat
  | .none | .fir => 0
  | .core => 1
  | .sq => 2
  | .die => 3
  | .dev => 4
  | .sys => 5

end Sys2Proof

namespace Sys2Proof.Machine

/-! Paths (R174). -/

def Place.level : Place → Nat
  | .sb _ | .gw _ _ => 0
  | .core _ => 1
  | .sq _ => 2
  | .die _ => 3
  | .dev _ => 4
  | .pod => 5

/-- The location is homed on another chip than core ep's; host memory (64) is not (R174). -/
def remoteHome (ep home : Nat) : Bool := home != 64 && home != chipOf ep
def Entry.remote (e : Entry) : Bool := remoteHome e.core (homeOf e.key)

/-- The chip is a member of the pod as chip c's configuration record lists it (R358). -/
def State.isMember (s : State) (c peer : Nat) : Bool :=
  match (s.chip c).config with
  | some r => decide (peer < 64) && r.members.getLsbD peer
  | none => false
/-- Peer index (R359). -/
def State.peerIndex (s : State) (c peer : Nat) : Nat :=
  ((List.range peer).filter fun m => m != c && s.isMember c m).length
/-- The gateway of chip c that is the peer's home gateway (R359). -/
def State.homeGateway (s : State) (c peer : Nat) : Nat := s.peerIndex c peer / 4
/-- Chip c can reach the peer (R358, R371). -/
def State.reachable (s : State) (c peer : Nat) : Bool :=
  s.isMember c peer && !(s.chip c).fabric.unreachable.contains peer

/-- E(gateway) of core ep's chip toward a chip (R174). -/
def State.gateOut (s : State) (ep home : Nat) : Place := .gw (chipOf ep) (s.homeGateway (chipOf ep) home)
/-- The reduction gateway of a location (R372). -/
def reductionGate (key : Nat) : Place := .gw (homeOf key) (addrOf key / 64 % 16)

/-- The next place of an entry; none is M. An operation entry leaves the fabric at M (R189, R199). -/
def State.nextPlace (s : State) (e : Entry) : Option Place :=
  match e.place with
  | .sb _ => some (if e.remote then s.gateOut e.core (homeOf e.key) else .core e.core)
  | .core ep => some (if e.remote then s.gateOut ep (homeOf e.key) else .sq (squareOf ep))
  | .sq _ => some (.die (dieOf e.core))
  | .die _ => some (.dev (chipOf e.core))
  | .dev _ => some .pod
  | .pod => none
  | .gw c _ =>
    match e.op with
    | none => some .pod
    | some o => if o.quantum = 0 ∧ c ≠ homeOf e.key then some (reductionGate e.key) else none

/-- The entry has reached the point of a scope (R174). -/
def Entry.reached (e : Entry) (sc : Scope) : Bool :=
  sc.level == 0 || e.place == .pod || (!e.remote && decide (sc.level ≤ e.place.level))

/-- The read path of a firing on core ep (R174, R179); firing 0 stands for an engine, whose store buffer is empty
(R190). -/
def readPlaces (fir ep home : Nat) (k : OKind) : List Place :=
  let sb := if fir = 0 then [] else [Place.sb fir]
  if k = .strong ∨ remoteHome ep home then sb ++ [.pod]
  else sb ++ [.core ep, .sq (squareOf ep), .die (dieOf ep), .dev (chipOf ep), .pod]

/-! Code images (R200). -/

/-- A capsule's code image as it stands on the instruction-fetch path of a chip (R200): header and as many bytes as it
gives, none beyond the committed bytes of the extent, which read as zero once they are (R330). Of several unfenced unordered
entries that a byte may be read from, the one is as `tick` has it (R175, log 2). -/
def State.codeImage (s : State) (cap chip : Nat) : List Byte :=
  match (s.cap cap).extents.find 0 with
  | none => []
  | some e =>
    let key := keyOf e.homeKey e.base
    let ps := fetchPlaces chip e.homeKey
    let head := (s.readPath ps key s.tick (min 12 e.comm)).1
    (s.readPath ps key s.tick (min (codeImageLen head) e.comm)).1

/-! Conditions. -/

def overlap (p q : Nat × Nat) : Bool := decide (p.1 < q.1 + q.2) && decide (q.1 < p.1 + p.2)

def Use.free : Use → Bool
  | .unp | .com | .qnt => true
  | _ => false

/-- Passes acquires, releases and fences (Table 9.4). -/
def Item.relaxed (i : Item) : Bool :=
  match i.act with
  | .amo _ _ _ _ _ u _ _ => u.free
  | .red _ _ _ _ => true
  | _ => false
def Item.isAccess (i : Item) : Bool :=
  match i.act with
  | .load _ _ _ _ | .store _ _ | .amo _ _ _ _ _ _ _ _ | .qpub _ _ _ | .fork _ _ | .join _ _ _ _ _ => true
  | _ => false
def Item.isAtomic (i : Item) : Bool :=
  match i.act with
  | .amo _ _ _ _ _ _ _ _ | .join _ _ _ _ _ | .ramo _ _ _ _ _ _ _ => true
  | .red _ _ _ _ => true
  | _ => false
def Item.isFence (i : Item) : Bool :=
  match i.act with
  | .fence | .fenceEng _ => true
  | _ => false
def Item.isStore (i : Item) : Bool :=
  match i.act with
  | .store _ _ | .qpub _ _ _ => true
  | _ => false

/-- The locations of a request; a vector load has all of its locations until its last element is read (R175). -/
def Item.spans (i : Item) : List (Nat × Nat) :=
  match i.act with
  | .load es _ _ _ => if i.spread.isEmpty then es.map fun e => (e.key, e.w) else i.spread
  | .store es _ => es.map fun e => (e.key, e.w)
  | .amo _ ty key _ _ _ _ _ => [(key, ty.width)]
  | .red _ _ ty es => es.map fun e => (e.1, ty.width)
  | .qpub _ _ e => [(e.key, e.w)]
  | .fork key _ => [(key, 64)]
  | .join key _ _ _ _ => [(key, 8)]
  | .ramo _ _ _ t key _ _ => [(key, t.width)]
  | _ => []
def Item.meets (i j : Item) : Bool := i.spans.any fun p => j.spans.any (overlap p)

/-- The firing's requests before this one that are not yet performed. -/
def State.earlier (s : State) (it : Item) : List Item := s.iq.filter fun i => i.fir == it.fir && decide (i.id < it.id)
/-- An earlier acquire or fence is unperformed (R180, R183, R185). -/
def State.barred (s : State) (it : Item) : Bool := (s.earlier it).any fun i => i.acq || i.isFence

/-- The conditions on a plain access of its extent's kind (R179 to R181). -/
def State.plainReady (s : State) (it : Item) : Bool :=
  !s.barred it &&
    match it.kind with
    | .strong => (s.earlier it).all fun i => !(i.isAccess && i.kind == .strong) || i.relaxed
    | .release => (s.earlier it).all fun i => !(i.isAccess && i.x == it.x && i.meets it) || i.relaxed
    | .unordered => true

/-- Every earlier store of the firing has reached the point of a scope (R184). -/
def State.storesReached (s : State) (fir before : Nat) (sc : Scope) : Bool :=
  s.entries.all fun e => e.party != fir || decide (before ≤ e.id) || e.op.isSome || e.reached sc
/-- What a send waits for (R183, R185, R194): accesses, a reduction that is performed at M among them (R189), acquires and
fences. An engine request is none (R184 names them apart). -/
def Item.beforeSend (i : Item) : Bool :=
  i.isAccess || i.acq || i.isFence || (match i.act with | .red _ _ _ _ => !remoteHome i.ep i.home | _ => false)
/-- Every earlier access of the firing has been performed, and its stores have reached the point (R194). -/
def State.sendReady (s : State) (fir before : Nat) (sc : Scope) : Bool :=
  (s.iq.all fun i => i.fir != fir || decide (before ≤ i.id) || !i.beforeSend) && s.storesReached fir before sc
/-- Every earlier access and engine request of the firing has been performed, and its stores have reached the point of a
release (R184): relaxed atomics and reductions pass it (Table 9.4, R373). -/
def State.releaseReady (s : State) (fir before : Nat) (sc : Scope) : Bool :=
  (s.iq.all fun i => i.fir != fir || decide (before ≤ i.id) || i.relaxed) && s.storesReached fir before sc
/-- The conditions on a release or a fence (R184, R185), which come behind the firing's earlier sends too. -/
def State.relReady (s : State) (it : Item) (sc : Scope) : Bool :=
  s.releaseReady it.fir it.id sc
    && (s.slot it.ep it.slot).stream.all fun e => e.fir != it.fir || decide (it.id ≤ e.after)
/-- The firing's store buffer holds no entry (R190, R297), and no store of an earlier instruction is still to enter it. -/
def State.bufferEmpty (s : State) (it : Item) : Bool :=
  ((s.earlier it).all fun i => !i.isStore) && s.entries.all fun e => e.place != .sb it.fir
/-- The entry holds what a request of the firing before `before` left: its value, or an operation it took part in. -/
def Entry.earlierOf (e : Entry) (fir before : Nat) : Bool :=
  match e.op with
  | some o => o.parties.any fun p => p.1 == fir && decide (p.2 < before)
  | none => e.party == fir && decide (e.id < before)
/-- Every earlier entry of the firing for these locations has reached M (R186), those of operations it took part in
among them. -/
def State.atHome (s : State) (fir before : Nat) (spans : List (Nat × Nat)) : Bool :=
  s.entries.all fun e => !e.earlierOf fir before || !spans.any (overlap (e.key, e.bytes.length))
/-- A later atomic of the firing for these locations is on its way to their home: no earlier entry of the firing may come
between (R186). DEDUCED (log 27): a store that an atomic of its firing may pass waits to become an entry until that atomic
has been performed at the home. -/
def State.amoAhead (s : State) (it : Item) : Bool :=
  remoteHome it.ep it.home && s.remote.any fun q => q.fir == it.fir && decide (it.id < q.id) && !q.performed &&
    match q.kind with
    | .amo _ t key _ _ => it.spans.any (overlap (key, t.width))
    | _ => false
/-- The firing's earlier atomics for the location that are requests on their way to its home have been performed. -/
def State.amosDone (s : State) (it : Item) : Bool :=
  s.remote.all fun q => q.fir != it.fir || decide (it.id ≤ q.id) || q.performed ||
    match q.kind with
    | .amo _ t key _ _ => !it.spans.any (overlap (key, t.width))
    | _ => true
/-- Earlier requests let an atomic be performed, what is on the way to M aside: atomics of one firing to one location keep
their program order (Table 9.4), and a use that is not free is ordered as an access of its extent's kind. -/
def State.amoPlaceable (s : State) (it : Item) : Bool :=
  ((s.earlier it).all fun i => !(i.isAtomic && i.meets it)) && s.amosDone it
    && (it.relaxed || (s.plainReady it && (match it.rel with | some sc => s.relReady it sc | none => true)))
/-- Whether an atomic may be performed at M (R186). -/
def State.amoReady (s : State) (it : Item) : Bool := s.amoPlaceable it && s.atHome it.fir it.id it.spans

/-! Effects of performing. -/

def State.dropItem (s : State) (id : Nat) : State := { s with iq := s.iq.filter fun i => i.id != id }
def State.setItem (s : State) (it : Item) : State := { s with iq := s.iq.map fun i => if i.id = it.id then it else i }
/-- The slot held for a request goes on. -/
def State.wake (s : State) (ep k id : Nat) : State :=
  s.modSlot ep k fun x => if x.wait = .item id then { x with wait := .none } else x
/-- A request is performed: it leaves the issue queue. -/
def State.done (s : State) (it : Item) : State := (s.dropItem it.id).wake it.ep it.slot it.id
/-- A performed request with a scalar result. -/
def State.doneS (s : State) (it : Item) (v : Word) (poison : Bool) : State :=
  (s.done it).arriveS it.ep it.slot it.dst it.id v poison

/-- Releases and fences of `.sq` scope or wider let the core's quantum entries move (R188). -/
def State.freeQuanta (s : State) (ep : Nat) : State :=
  { s with entries := s.entries.map fun e =>
      match e.place, e.op with
      | .core c, some o => if c = ep then { e with op := some { o with freed := true } } else e
      | _, _ => e }
def State.released (s : State) (ep : Nat) (sc : Scope) : State := if 2 ≤ sc.level then s.freeQuanta ep else s
/-- A fence marks every earlier entry of its firing (R185). -/
def State.markFenced (s : State) (fir before : Nat) : State :=
  { s with entries := s.entries.map fun e => if e.party = fir ∧ e.id < before then { e with fenced := true } else e }

/-- Remote-outcome-unknown (R226): raised before the firing's next instruction, or outside any firing where it has
ended. -/
def State.unknownOutcome (s : State) (cap ep k fir : Nat) (u : Unknown) : State :=
  if (s.slot ep k).firing.any (fun f => f.id == fir) then
    s.modSlot ep k fun x => x.modFiring fun f => { f with unknown := f.unknown ++ [u] }
  else s.faultOutside cap ep 0x12 u.ptr (BitVec.ofNat 64 u.opcode) 3
def Item.unknown (i : Item) : Unknown := { word := i.word, ptr := i.ptr, opcode := i.opcode, raw := i.raw }

/-- The flags and target of a job card (Table 13.4). -/
def cardAny (card : List Byte) : Bool := bit (lget card 0x0C 2) 3
def cardChip (card : List Byte) : Nat := lget card 0x0E 2 / 1024
def cardCore (card : List Byte) : Nat := lget card 0x0E 2 % 1024

/-- The request is one of R227's remote requests: an access through an extent homed on another chip, a copy, wherever its
ends are, or a card for another chip. -/
def Item.isRemote (i : Item) : Bool :=
  remoteHome i.ep i.home || (match i.act with
    | .rcopy _ _ _ _ _ _ => true
    | .spawn card _ => cardChip card != chipOf i.ep
    | _ => false)
/-- Remote requests of a firing not yet acknowledged (R227), the request `but` aside. -/
def State.outstanding (s : State) (fir ep k : Nat) (but : Nat := 0) : Nat :=
  let items := s.iq.filter fun i => i.fir == fir && i.id != but && i.isRemote
  items.length
    + (s.remote.filter fun r => r.fir == fir && r.id != but && !(match r.kind with | .segment _ => true | _ => false)
        && !items.any fun i => i.id == r.id).length
    + ((s.slot ep k).stream.filter fun e => e.fir == fir && e.opcode != 0x300).length
/-- Remote requests of a core's endpoint not yet acknowledged, those of firings that have ended among them. -/
def State.outstandingAt (s : State) (ep : Nat) : Nat :=
  let items := s.iq.filter fun i => i.ep == ep && i.isRemote
  items.length
    + (s.remote.filter fun r => r.ep == ep && !(match r.kind with | .segment _ => true | _ => false)
        && !items.any fun i => i.id == r.id).length
    + ((s.core ep).slots.foldl (fun n x => n + (x.2.stream.filter fun e => e.opcode != 0x300).length) 0)
/-- One more remote request of the current firing has to wait at issue: 16 to a firing (R227), and DEDUCED (log 27) 64 to an
endpoint, which R370 says never has more, though those of firings that have ended count on. -/
def State.remoteFull (s : State) : Bool :=
  decide (16 ≤ s.outstanding s.curF.id s.curCore s.curSlot) || decide (64 ≤ s.outstandingAt s.curCore)

/-! Adding a request at issue. -/

/-- A request of the current instruction, in program order; its number is the request's place in that order. -/
def State.newItem (s : State) (opcode : Nat) (act : Act) : Item :=
  let f := s.curF
  { id := s.fresh, fir := f.id, ep := s.curCore, slot := s.curSlot, cap := f.cap, word := f.pc
    raw := rawWord s s.curCore f f.pc, opcode := opcode, act := act, home := chipOf s.curCore
    stamp := s.cur.dline.toNat }
/-- The request is in the issue queue, its destination waits. -/
def State.addItem (s : State) (it : Item) (d : Operand) (t : Tag) : State :=
  let s := s.pendD d it.id t
  { s with iq := s.iq ++ [it], fresh := s.fresh + 1 }
/-- The instruction holds its slot until the request is performed; execution then goes on behind it. -/
def State.holdItem (s : State) (it : Item) (d : Operand) : Eff :=
  .hold (((s.addItem it d .raw).modCur fun x => { x with wait := .item it.id }).advance)

/-! Scope of a pair of cores, and stamps. -/

/-- The lowest point shared by two cores (R194). -/
def sharedScope (a b : Nat) : Scope :=
  if a = b then .core else if squareOf a = squareOf b then .sq else if dieOf a = dieOf b then .die
  else if chipOf a = chipOf b then .dev else .sys

/-! Atomic operations (Table 10.2). -/

/-- The new value; `cmp` is the compare value of a cas. -/
def amoNew (op : AmoOp) (t : Tag) (old b cmp : Nat) : Nat :=
  let w := 8 * t.width
  match op with
  | .add => (old + b) % 2 ^ w
  | .and => old &&& b
  | .or => old ||| b
  | .xor => old ^^^ b
  | .min => if iread t old ≤ iread t b then old else b
  | .max => if iread t old ≤ iread t b then b else old
  | .swap => b
  | .cas => if old = cmp then b else old
  | .fadd => (fAdd (fmtOf t) .rne (decodeF (fmtOf t) old) (decodeF (fmtOf t) b)).1
  | .inc => if iread t b ≤ iread t old then 0 else (old + 1) % 2 ^ w
  | .fmin => (fMinMax (fmtOf t) false old b).1
  | .fmax => (fMinMax (fmtOf t) true old b).1

/-- An atomic at M in one step (R186, R204): what it read, and whether that met an uncorrectable error, which leaves the
location as it was. -/
def State.atM (s : State) (op : AmoOp) (t : Tag) (key : Nat) (b cmp : Word) : State × Nat × Bool :=
  let r := s.readM key t.width
  let old := ofBytes r.1
  if r.2 then (s, old, true)
  else
    let low := fun (x : Word) => bits x.toNat 0 (8 * t.width)
    (s.writeM key (toBytes t.width (amoNew op t old (low b) (low cmp))), old, false)

end Sys2Proof.Machine
end

