-- ==== Sys2Proof/Machine/LoadStore.lean ====
section
/-!
DEFINITION. Loads and stores (04 R67 to R76): issue of the extent forms and their performance in the ordering machine,
and the L-store forms, performed in issue order.
-/
namespace Sys2Proof.Machine

/-- An access at issue: Table 4.4, then the wait for room among the remote requests (R227). -/
def State.access (s : State) (x : Nat) (ea : Int) (n a need : Nat) (k : Nat → Extent → Eff) : Eff :=
  match checkAccess s.curCap s.curSlot x ea n a need with
  | .fail f => .fault f
  | .grow y upto => .grow y upto (fBound (mkPtr x ea) n)
  | .ok key e => if remoteHome s.curCore e.homeKey && s.remoteFull then .wait else k key e

/-- The request of an access through an extent. -/
def Item.through (it : Item) (x : Nat) (e : Extent) (ptr : Word) : Item :=
  { it with x := x, kind := e.kind, home := e.homeKey, window := e.window, ptr := ptr }
def Item.ordered (it : Item) (m : Mods) : Item :=
  { it with
    acq := m.order == .acq || m.order == .ar
    rel := if m.order = .rel ∨ m.order = .ar then some m.scope else none }

/-- Effective address of a pointer and an offset, exact (R68). -/
def effAddr (p off : Val) : Int := (ptrOff p.word : Int) + sval off.word

/-- `ld` (R68). -/
def execLd (o : Ops) (s : State) : Host.Outcome State Fault Refusal :=
  issue { op := 0x240 } o (fun s v _ =>
    let t := scalarTy o
    let x := ptrSlot v.a.word
    s.access x (effAddr v.a v.b) t.width t.width permR fun key e =>
      let it := (s.newItem 0x240 (.load [{ key := key, w := t.width, idx := 0 }] t false false)).through x e (mkPtr x (effAddr v.a v.b))
      .ok (s.addItem { it.ordered o.mods with dst := dstOf o.d } o.d .raw)) s

/-- `st` (R68). -/
def execSt (o : Ops) (s : State) : Host.Outcome State Fault Refusal :=
  issue { op := 0x241 } o (fun s v _ =>
    let t := scalarTy o
    let x := ptrSlot v.d.word
    s.access x (effAddr v.d v.a) t.width t.width permW fun key e =>
      let it := (s.newItem 0x241 (.store [{ key := key, w := t.width, idx := 0 }] (v.b.word.setWidth 2048))).through x e
        (mkPtr x (effAddr v.d v.a))
      .ok (s.addItem (it.ordered o.mods) .none .raw)) s

/-- Elements of a vector access: their offsets from the lowest. -/
def vecElems (g : PBits) (w : Nat) : List Nat := actives g w
def vecLo (is : List Nat) (w : Nat) : Nat := w * (is.headD 0)
def vecLen (is : List Nat) (w : Nat) : Nat := w * (is.getLastD 0 + 1) - vecLo is w

/-- The bits a destination holds before a vector load (R29): zero in a queue entry. -/
def State.oldBits (s : State) (d : Operand) : VBits :=
  match d with
  | .v n _ => readV s.fresh s.cur n.val
  | _ => 0

/-- `ldv` (R69). -/
def execLdv (o : Ops) (s : State) : Host.Outcome State Fault Refusal :=
  let t := o.mods.ty.getD .raw
  issue { op := 0x244, guard := .fixed t.width } o (fun s v g =>
    let w := t.width
    let x := ptrSlot v.a.word
    let is := vecElems g w
    s.access x (effAddr v.a v.b + vecLo is w) (vecLen is w) w permR fun key e =>
      let es := is.map fun i => { key := key + w * i - vecLo is w, w := w, idx := i : Elem }
      let it := (s.newItem 0x244 (.load es t true false)).through x e (mkPtr x (effAddr v.a v.b + vecLo is w))
      .ok (s.addItem { it.ordered o.mods with
        dst := dstOf o.d, acc := s.oldBits o.d, spread := es.map fun e => (e.key, e.w) } o.d t)) s

/-- `stv` (R69): with a type, the tag must be that type. -/
def stvTag (o : Ops) (v : Vals) : Option (Nat × Tag) :=
  match o.mods.ty with
  | some t => if v.b.tag = t then none else some (2, v.b.tag)
  | none => none
def execStv (o : Ops) (s : State) : Host.Outcome State Fault Refusal :=
  issue { op := 0x245, guard := .elem 2, tags := fun _ o v => stvTag o v } o (fun s v g =>
    let w := (o.mods.ty.getD v.b.tag).width
    let x := ptrSlot v.d.word
    let is := vecElems g w
    s.access x (effAddr v.d v.a + vecLo is w) (vecLen is w) w permW fun key e =>
      let es := is.map fun i => { key := key + w * i - vecLo is w, w := w, idx := i : Elem }
      let it := (s.newItem 0x245 (.store es v.b.vbits)).through x e (mkPtr x (effAddr v.d v.a + vecLo is w))
      .ok (s.addItem (it.ordered o.mods) .none .raw)) s

/-! L store (R75, R76), with the interlocks of R149. -/

/-- An unfinished matrix operation reads L-store bytes of a range (`tfill`, `tscale`), or writes them (`tdrain`). -/
def Core.matReadsL (c : Core) (lo n : Nat) : Bool :=
  c.mq.any fun o => match o.op with
    | .tfill _ off t => overlap (lo, n) (off, slotBytes t)
    | .tscale _ off => overlap (lo, n) (off, 512)
    | _ => false
def Core.matWritesL (c : Core) (lo n : Nat) : Bool :=
  c.mq.any fun o => match o.op with
    | .tdrain y off => overlap (lo, n) (off, if y < 16 then slotBytes o.wtag else 65536)
    | _ => false

/-- A pipeline access of n bytes at L offset ea. -/
def State.accessL (s : State) (ea : Int) (n a : Nat) (store : Bool) (k : Nat → Eff) : Eff :=
  match checkL ea n a with
  | some f => .fault f
  | none =>
    if s.curC.matWritesL ea.toNat n || (store && s.curC.matReadsL ea.toNat n) then .wait else k ea.toNat

/-- A scalar result with its poison flag (R72). -/
def State.putSP (s : State) (d : Operand) (v : Word) (poison : Bool) : State :=
  let s' := s.putS d v
  if !poison then s'
  else match d with
    | .s n _ => s'.modCur fun x => x.setSReg n.val { x.sreg n.val with poison := true }
    | .q n => s'.modCurC fun c =>
        { c with sq := c.sq.put n.val ((c.sq' n.val).take ((c.sq' n.val).length - 1) ++ [{ val := v, poison := true, pend := none, fir := s.curF.id }]) }
    | _ => s'

/-- `ldl` (R75). -/
def execLdl (o : Ops) (s : State) : Host.Outcome State Fault Refusal :=
  issue { op := 0x242 } o (fun s v _ =>
    let t := scalarTy o
    s.accessL (sval v.a.word + sval v.b.word) t.width t.width false fun a =>
      let r := s.curC.lread a t.width
      .ok ((if r.2 then s.ras s.curCore else s).putSP o.d (iwide t (ofBytes r.1)) r.2)) s

/-- `stl` (R75). -/
def execStl (o : Ops) (s : State) : Host.Outcome State Fault Refusal :=
  issue { op := 0x243 } o (fun s v _ =>
    let t := scalarTy o
    s.accessL (sval v.d.word + sval v.a.word) t.width t.width true fun a =>
      .ok (s.modCurC fun c => c.lwrite a (toBytes t.width v.b.word.toNat) false)) s

/-- `ldlv` (R75). -/
def execLdlv (o : Ops) (s : State) : Host.Outcome State Fault Refusal :=
  let t := o.mods.ty.getD .raw
  issue { op := 0x246, guard := .fixed t.width } o (fun s v g =>
    let w := t.width
    let ea := sval v.a.word + sval v.b.word
    let is := vecElems g w
    s.accessL (ea + vecLo is w) (vecLen is w) w false fun _ =>
      let at_ := fun i => (ea + w * i).toNat
      let bad := is.any fun i => (s.curC.lread (at_ i) w).2
      let new := vofElems w fun i => if is.contains i then ofBytes (s.curC.lread (at_ i) w).1 else 0
      .ok ((if bad then s.ras s.curCore else s).putV o.d g w new (if bad then .poison else t))) s

/-- `stlv` (R75). -/
def execStlv (o : Ops) (s : State) : Host.Outcome State Fault Refusal :=
  issue { op := 0x247, guard := .elem 2, tags := fun _ o v => stvTag o v } o (fun s v g =>
    let w := (o.mods.ty.getD v.b.tag).width
    let ea := sval v.d.word + sval v.a.word
    let is := vecElems g w
    s.accessL (ea + vecLo is w) (vecLen is w) w true fun _ =>
      .ok (s.modCurC fun c => is.foldl (fun (c : Core) (i : Nat) => c.lwrite (ea + w * i).toNat (toBytes w (velem w v.b.vbits i)) false) c)) s

/-! Performance (R175, R179 to R184, R201). -/

/-- Register bits with one element replaced. -/
def vset (w : Nat) (v : VBits) (i x : Nat) : VBits := vofElems w fun j => if j = i then x else velem w v j

/-- A load with every element read: its destination takes the value (R68, R72). -/
def State.finishLoad (s : State) (it : Item) (t : Tag) (vec poison : Bool) : State :=
  let s := if poison then s.ras it.ep else s
  if vec then (s.done it).arriveV it.ep it.slot it.dst it.id it.acc (if poison then .poison else t)
  else s.doneS it (iwide t (velem 8 it.acc 0)) poison

/-- One element of a load is read; `pick` chooses the element and what each byte returns. -/
def State.readElem (s : State) (it : Item) (es : List Elem) (t : Tag) (vec poison : Bool) (pick : Nat) : Item :=
  let j := pick % es.length
  match es[j]? with
  | none => it
  | some e =>
    let r := s.readPath (readPlaces it.fir it.ep it.home it.kind) e.key (pick / es.length) e.w
    { it with
      acc := if vec then vset e.w it.acc e.idx (ofBytes r.1) else BitVec.ofNat 2048 (ofBytes r.1)
      act := .load (listDel es j) t vec (poison || r.2) }

/-- A store's element becomes an entry. -/
def storeEntry (it : Item) (e : Elem) (v : VBits) (remote : Bool) : Entry :=
  { id := it.id, place := if it.kind = .strong then .pod else .sb it.fir, key := e.key
    bytes := toBytes e.w (velem e.w v e.idx), party := it.fir, cap := it.cap, core := it.ep, kind := it.kind
    fenced := false, req := if remote then some it.id else none }

/-- What a request on its way to another chip records of the instruction that made it. -/
def State.mkRemote (s : State) (it : Item) (kind : RKind) : Remote :=
  { id := it.id, chip := chipOf it.ep, ep := it.ep, gw := s.homeGateway it.home (chipOf it.ep), home := it.home
    seqNo := 0, epoch := (s.chip (chipOf it.ep)).fabric.epochs.get 0 it.home, fir := it.fir, cap := it.cap
    slot := it.slot, word := it.word, raw := it.raw, opcode := it.opcode, kind := kind, ptr := it.ptr
    stamp := it.stamp }

/-- The next k sequence numbers of an endpoint toward a chip's gateway, by the first of them (R369): they count from 1. -/
def State.numbersOf (s : State) (ep home gw k : Nat) : State × Nat :=
  let key := ep * 1024 + home * 16 + gw
  let n := (s.chip (chipOf ep)).fabric.seqs.get 0 key + 1
  (s.modChip (chipOf ep) fun h => { h with fabric := { h.fabric with seqs := h.fabric.seqs.put key (n + k - 1) } }, n)
def State.number (s : State) (r : Remote) : State × Nat := s.numbersOf r.ep r.home r.gw 1

/-- A segment of a copy that began at offset `a` ends at offset `d`: 3,584 bytes, or a 4 KiB boundary of the destination
(R368). -/
def segmentEnds (dkey a d : Nat) : Bool := decide (3584 ≤ d - a) || (dkey + d) % 4096 == 0
/-- The segments of the bytes of a copy from offset a on; the fuel bounds them. -/
def segmentsFrom (dkey len : Nat) : Nat → Nat → Nat
  | 0, _ => 0
  | n + 1, a => if len ≤ a then 0 else segmentsFrom dkey len n (min (a + 3584) (a + (4096 - (dkey + a) % 4096))) + 1
/-- The copy-segment messages of a copy (R368): two to a 4 KiB block of the destination at most, and two more. -/
def segmentsOf (dkey len : Nat) : Nat := segmentsFrom dkey len (2 * (len / 4096) + 4) 0
/-- The numbers of its pair that a request takes: one, of a copy to another chip one for each of its segments (R368). -/
def Remote.span (r : Remote) : Nat :=
  match r.kind with
  | .copy _ dkey _ len _ => if remoteHome r.ep (homeOf dkey) then segmentsOf dkey len else 1
  | _ => 1
/-- A request enters E(gateway) with its numbers, which requests placed later follow (R369). A copy between places of one
chip is a request to none. -/
def State.placeRemote (s : State) (r : Remote) : State :=
  let numbered := match r.kind with | .copy _ _ _ _ _ => remoteHome r.ep r.home | _ => true
  if numbered then
    let p := s.numbersOf r.ep r.home r.gw r.span
    { p.1 with remote := p.1.remote ++ [{ r with seqNo := p.2 }] }
  else { s with remote := s.remote ++ [r] }

/-- A request toward a chip that cannot be reached is performed zero times (R358, R371): the plain access has the
outcome of R226. -/
def State.failItem (s : State) (it : Item) (vec : Bool) : State :=
  let s := s.unknownOutcome it.cap it.ep it.slot it.fir it.unknown
  let s := if it.dst = .none then s else s.ras it.ep
  if vec then (s.done it).arriveV it.ep it.slot it.dst it.id it.acc .poison else s.doneS it 0 true

/-- A load: local, one element in a step; remote, its request is placed (R71). -/
def State.performLoad (s : State) (it : Item) (es : List Elem) (t : Tag) (vec poison : Bool) (pick : Nat) : State :=
  if !s.plainReady it then s
  else if remoteHome it.ep it.home then
    if s.remote.any fun r => r.item == some it.id then s
    else if !s.reachable (chipOf it.ep) it.home then s.failItem it vec
    else s.placeRemote { s.mkRemote it (.load (es.headD { key := 0, w := 0, idx := 0 }).key t) with item := some it.id }
  else
    let it' := s.readElem it es t vec poison pick
    match it'.act with
    | .load [] t vec p => s.finishLoad it' t vec p
    | _ => s.setItem it'

/-- A store with every entry placed is performed. -/
def State.storeDone (s : State) (it : Item) : State :=
  match it.rel with
  | some sc => (s.done it).released it.ep sc
  | none => s.done it
/-- One element of a store is placed; `pick` chooses it. -/
def State.placeElem (s : State) (it : Item) (es : List Elem) (v : VBits) (far : Bool) (pick : Nat) : State :=
  let j := pick % es.length
  match es[j]? with
  | none => s.done it
  | some e =>
    let s := { s with entries := s.entries ++ [storeEntry it e v far] }
    match listDel es j with
    | [] => s.storeDone it
    | es' => s.setItem { it with act := .store es' v }
/-- The store's conditions hold (R179 to R181, R184, R186). -/
def State.storeReady (s : State) (it : Item) : Bool :=
  s.plainReady it && !s.amoAhead it && (match it.rel with | some sc => s.relReady it sc | none => true)

/-- A store: one element in a step. One to another chip is one request (R71): through a strong extent it is placed in
E(gateway), and its entries in Q(pod) as the home performs it (R179); else its entries enter the store buffer together, and
it takes its number as the first leaves for E(gateway). -/
def State.performStore (s : State) (it : Item) (es : List Elem) (v : VBits) (pick : Nat) : State :=
  if !s.storeReady it then s
  else if !remoteHome it.ep it.home then s.placeElem it es v false pick
  else if s.remote.any fun r => r.item == some it.id then s
  else if !s.reachable (chipOf it.ep) it.home then s.failItem it false
  else if it.kind = .strong then s.placeRemote { s.mkRemote it .store with item := some it.id }
  else
    ({ s with entries := s.entries ++ es.map fun e => storeEntry it e v true
              remote := s.remote ++ [s.mkRemote it .store] }).storeDone it

end Sys2Proof.Machine
end

