-- ==== Sys2Proof/Machine/Atomic.lean ====
section
/-!
DEFINITION. Atomics and fences (09 R185 to R189, 10 R201 to R209), the movement of entries (09 R176), and merges.
-/
namespace Sys2Proof.Machine

/-! Issue. -/

/-- The relaxed use of a mode field (Table 9.4). -/
def useOf : Nat → Use
  | 1 => .unp
  | 2 => .com
  | 4 => .qnt
  | 5 => .spc
  | _ => .nor

/-- The quantum of a `.qnt` atomic (R205). -/
def quantumOf (d : Word) : Nat := let q := bits d.toNat 0 16; if q = 0 then 1 else min q 256

/-- A PCI Express AtomicOp exists for the operation (R206). -/
def hostAmo (op : AmoOp) (u : Use) : Bool :=
  (op == .add || op == .swap || op == .cas) && !(u == .com || u == .qnt)

def Operand.isQ : Operand → Bool
  | .q _ => true
  | _ => false

/-- Every atomic (R204 to R206). -/
def amoIssue (opcode : Nat) (op : AmoOp) (o : Ops) (s0 : State) : Host.Outcome State Fault Refusal :=
  issue { op := opcode, dDst := op == .cas } o (fun s v _ =>
    let t := scalarTy o
    let u := useOf o.mods.mode
    let p := v.a.word
    s.access (ptrSlot p) (ptrOff p) t.width t.width (permR ||| permW ||| permA) fun key e =>
      if e.homeKey = 64 ∧ !hostAmo op u then .fault (fPerm p (permR ||| permW ||| permA))
      else
        let silent := u == .com || u == .qnt
        let early := u == .spc && e.kind != .strong && e.homeKey == s.curCap.chip
          && !(Operand.isQ o.d || Operand.isQ o.a || Operand.isQ o.b)
        let kept : Option Early := if early then some { cycle := s0.curC.cycles.toNat + 1, slot := s0.cur } else none
        let it := (s.newItem opcode (.amo op t key v.b.word v.d.word u (quantumOf v.d.word) kept)).through (ptrSlot p) e p
        let it := it.ordered o.mods
        .ok (s.addItem { it with dst := if silent then .none else dstOf o.d } (if silent then .none else o.d) .raw)) s0

/-- `amo.add`. -/
def execAmoAdd (o : Ops) (s : State) : Host.Outcome State Fault Refusal := amoIssue 0x280 .add o s
/-- `amo.and`. -/
def execAmoAnd (o : Ops) (s : State) : Host.Outcome State Fault Refusal := amoIssue 0x281 .and o s
/-- `amo.or`. -/
def execAmoOr (o : Ops) (s : State) : Host.Outcome State Fault Refusal := amoIssue 0x282 .or o s
/-- `amo.xor`. -/
def execAmoXor (o : Ops) (s : State) : Host.Outcome State Fault Refusal := amoIssue 0x283 .xor o s
/-- `amo.min`. -/
def execAmoMin (o : Ops) (s : State) : Host.Outcome State Fault Refusal := amoIssue 0x284 .min o s
/-- `amo.max`. -/
def execAmoMax (o : Ops) (s : State) : Host.Outcome State Fault Refusal := amoIssue 0x285 .max o s
/-- `amo.swap`. -/
def execAmoSwap (o : Ops) (s : State) : Host.Outcome State Fault Refusal := amoIssue 0x286 .swap o s
/-- `amo.cas`. -/
def execAmoCas (o : Ops) (s : State) : Host.Outcome State Fault Refusal := amoIssue 0x287 .cas o s
/-- `amo.fadd`. -/
def execAmoFadd (o : Ops) (s : State) : Host.Outcome State Fault Refusal := amoIssue 0x288 .fadd o s
/-- `amo.inc`. -/
def execAmoInc (o : Ops) (s : State) : Host.Outcome State Fault Refusal := amoIssue 0x289 .inc o s

/-- `fence` (R208): it holds its slot until it is performed. -/
def execFence (o : Ops) (s : State) : Host.Outcome State Fault Refusal :=
  issue { op := 0x290 } o (fun s _ _ => s.holdItem { s.newItem 0x290 .fence with rel := some o.mods.scope } .none) s

/-- `fence.eng` (R209): scope `.core` where none is written, mask 0 for all four. -/
def execFenceEng (o : Ops) (s : State) : Host.Outcome State Fault Refusal :=
  issue { op := 0x291 } o (fun s v _ =>
    let m := sval v.a.word
    if m < 0 ∨ m > 15 then .fault (fIllegal 1)
    else
      let mask := if m = 0 then 15 else m.toNat
      let sc := if o.mods.scope = .none then Scope.core else o.mods.scope
      s.holdItem { s.newItem 0x291 (.fenceEng mask) with rel := some sc } .none) s

/-! Requests in the fabric. -/

/-- A request is performed: its reply is kept and on its way. -/
def Remote.replied (r : Remote) : Remote :=
  { r with performed := true, copies := r.copies - 1, replies := r.replies + 1 }

/-- Every entry of a request lies in Q(pod) or M. -/
def State.landed (s : State) (id : Nat) : Bool := s.entries.all fun e => e.req != some id || e.place == .pod
/-- The request is a part of the one. -/
def Remote.isPart (q : Remote) (whole : Nat) : Bool :=
  match q.kind with
  | .segment c => c == whole
  | _ => false
/-- The request has been performed at its home: of a store every entry lies in Q(pod) or M, of reductions every entry has
been applied (R373), of a copy every word lies in Q(pod) or M (R223). -/
def State.remoteDone (s : State) (r : Remote) : Bool :=
  let queued := s.iq.any fun i => i.id == r.id
  match r.kind with
  | .store => r.seqNo != 0 && !queued && s.landed r.id
  | .red => !queued && s.entries.all fun e => match e.op with | some o => !o.reqs.contains r.id | none => true
  | .copy _ _ _ _ _ => r.performed && s.landed r.id && s.remote.all fun q => !q.isPart r.id || s.landed q.id
  | .segment _ => r.performed && s.landed r.id
  | _ => r.performed

/-- Two requests are of one pair of endpoint and destination gateway (R369). -/
def Remote.pairs (q r : Remote) : Bool := q.ep == r.ep && q.home == r.home && q.gw == r.gw
/-- The request is a copy, or a segment of one. -/
def State.copies (s : State) (q : Remote) : Bool :=
  match q.kind with
  | .copy _ _ _ _ _ => true
  | .segment c => s.remote.any fun r => r.id == c && match r.kind with | .copy _ _ _ _ _ => true | _ => false
  | _ => false
/-- Every request of the pair with a lower number has been performed (R369); a copy's segments are its own. DEDUCED (log 46):
a store through an extent does not wait for the words of earlier copies, since R385 lets one that follows a placed copy be
acquired before them. -/
def State.inSequence (s : State) (r : Remote) : Bool :=
  s.remote.all fun q => !(q.pairs r && q.seqNo != 0 && decide (q.seqNo < r.seqNo)) || r.isPart q.id
    || (r.kind == .store && s.copies q) || s.remoteDone q

/-- The lowest number of a request not yet confirmed; of a copy to another chip the next one that a segment takes, its begun
segments having their own (R370). -/
def Remote.lowest (q : Remote) : Option Nat :=
  if q.seqNo = 0 then none
  else match q.kind with
  | .copy _ dkey _ _ _ =>
    if remoteHome q.ep (homeOf dkey) then if q.segs < q.span then some (q.seqNo + q.segs) else none else some q.seqNo
  | _ => some q.seqNo
/-- The window of the request's pair holds a number: fewer than 64 above the lowest not yet confirmed (R370). -/
def State.fits (s : State) (r : Remote) (n : Nat) : Bool :=
  s.remote.all fun q => !q.pairs r || match q.lowest with | some m => decide (n < m + 64) | none => true
def State.inWindow (s : State) (r : Remote) : Bool := s.fits r r.seqNo

/-- The locations a load to another chip reads. -/
def State.loadSpans (s : State) (q : Remote) : List (Nat × Nat) :=
  match q.kind with
  | .load key t => match q.item.bind fun id => s.iq.find? fun i => i.id == id with
    | some it => it.spans
    | none => [(key, t.width)]
  | _ => []
/-- A plain store may take its number (R369): the firing's stores performed before it toward the same gateway have theirs,
and no load of a later instruction that is placed and still to be performed reads its locations. -/
def State.mayNumber (s : State) (r : Remote) : Bool :=
  ((s.remote.takeWhile fun q => q.id != r.id).all fun q =>
    q.fir != r.fir || q.home != r.home || !(q.kind == .store && q.seqNo == 0))
  && s.remote.all fun q => q.fir != r.fir || q.home != r.home || decide (q.id ≤ r.id) || q.performed
      || s.entries.all fun e => e.req != some r.id || !(s.loadSpans q).any (overlap (e.key, e.bytes.length))

/-! Movement of entries (R176). -/

/-- The entry is not behind an older one of its place for its location, except two unfenced unordered ones of one
firing. -/
def State.leads (s : State) (idx : Nat) (e : Entry) : Bool :=
  (s.entries.take idx).all fun o =>
    o.place != e.place || !overlap (o.key, o.bytes.length) (e.key, e.bytes.length)
      || (o.kind == .unordered && e.kind == .unordered && !o.fenced && !e.fenced && o.party == e.party && e.party != 0)

/-- A quantum entry moves once it has combined its quantum or has been let go (R188). -/
def Entry.quantumMet (e : Entry) : Bool :=
  match e.place, e.op with
  | .core _, some o => o.quantum == 0 || decide (o.quantum ≤ o.count) || o.freed
  | _, _ => true

/-- One request of each endpoint that contributes to an operation entry (R372). -/
def State.contributors (s : State) (o : EOp) : List Remote :=
  (s.remote.filter fun r => o.reqs.contains r.id).foldl (fun (rs : List Remote) r => if rs.any fun q => q.ep == r.ep then rs else rs ++ [r]) []
/-- The next number that an endpoint gives a request (R369). -/
def State.nextNumber (s : State) (r : Remote) : Nat :=
  (s.chip (chipOf r.ep)).fabric.seqs.get 0 (r.ep * 1024 + r.home * 16 + r.gw) + 1
/-- A load that an instruction makes at issue comes behind the endpoint's earlier requests toward the location's home, its
firing's stores in E(gateway) among them (R71, R369). -/
def State.behindOwn (s : State) (it : Item) : Bool :=
  !remoteHome it.ep it.home ||
    (let r := s.mkRemote it (.load 0 .raw)
     s.inSequence { r with seqNo := s.nextNumber r })
/-- Such a load is toward a chip that cannot be reached (R226). -/
def State.lostLoad (s : State) (it : Item) : Bool := remoteHome it.ep it.home && !s.reachable (chipOf it.ep) it.home
/-- What holds an operation entry in its gateway: one for a reduction gateway waits for the windows of its contributors
(R370), a quantum one for its request's turn (R369). -/
def State.opReady (s : State) (e : Entry) (o : EOp) : Bool :=
  match e.place, reductionGate e.key with
  | .gw c _, .gw home g =>
    if o.quantum ≠ 0 then (s.remote.filter fun r => o.reqs.contains r.id).all fun r => s.inSequence r && s.inWindow r
    else c == home || (s.contributors o).all fun r => let q := { r with gw := g }; s.fits q (s.nextNumber q)
  | _, _ => true

/-- Requests of two operation entries are different ones of one endpoint. -/
def State.sameSender (s : State) (o p : EOp) : Bool :=
  (s.remote.filter fun r => o.reqs.contains r.id).any fun r => (s.remote.filter fun q => p.reqs.contains q.id).any fun q =>
    r.ep == q.ep && r.id != q.id
/-- Of the entries of a list, one stands in e's gateway queue for e's reduction gateway and carries an endpoint's request that
has to take effect before or after one of e's (R369). -/
def State.sendersMeet (s : State) (es : List Entry) (e : Entry) : Bool :=
  es.any fun d => d.place == e.place && reductionGate d.key == reductionGate e.key &&
    match d.op, e.op with
    | some o, some p => o.quantum == 0 && p.quantum == 0 && s.sameSender o p
    | _, _ => false
/-- A reduction leaves its gateway queue after every earlier one of its senders there, so that the requests of an endpoint
toward one reduction gateway take effect in the order they were placed (R369, R372). -/
def State.reductionFirst (s : State) (idx : Nat) (e : Entry) : Bool :=
  match e.place with
  | .gw _ _ => !s.sendersMeet (s.entries.take idx) e
  | _ => true

/-- What holds an entry in the fabric: its request's number and window, and the requests of its pair before it. -/
def State.fabricReady (s : State) (idx : Nat) (e : Entry) : Bool :=
  e.op.all (s.opReady e) && s.reductionFirst idx e &&
  match e.req with
  | none => true
  | some id =>
    match s.remote.find? fun r => r.id == id with
    | none => true
    | some r =>
      match e.place with
      | .sb _ => r.seqNo != 0 || s.mayNumber r
      | .gw _ _ => s.inSequence r && (s.copies r || s.inWindow r) && match r.kind with
          | .segment _ => (s.entries.take idx).all fun o => o.req != some id || o.place != e.place
          | _ => true
      | _ => true

def State.mayMove (s : State) (idx : Nat) (e : Entry) : Bool := s.leads idx e && e.quantumMet && s.fabricReady idx e

/-- An entry takes effect at M (R176): bytes are written, an operation is performed in one step; one that meets an
uncorrectable error writes nothing and is reported (R205). The requests that count it have been performed (R373). -/
def State.entryToM (s : State) (e : Entry) : State :=
  match e.op with
  | none =>
    let s := s.writeM e.key e.bytes
    if e.poison then s.markM e.key else s
  | some o =>
    let r := s.atM o.op o.ty e.key o.operand 0
    let t := if r.2.2 then r.1.ras e.core else r.1
    { t with remote := t.remote.map fun q =>
        if o.nums.contains q.id || (o.reqs.contains q.id && q.seqNo != 0) then q.replied else q }

/-- The operations of a quantum entry that leaves its core for another chip are requests from then on (R206, R226): one
message carries them, under one number of the pair of its core (R369). -/
def State.trackOp (s : State) (e : Entry) : State × Entry :=
  match e.op with
  | some o =>
    if e.remote && !o.made.isEmpty then
      let home := homeOf e.key
      let p := s.numbersOf e.core home (s.homeGateway home (chipOf e.core)) 1
      ({ p.1 with remote := p.1.remote ++ o.made.map fun it => { s.mkRemote it .red with seqNo := p.2 } },
        { e with op := some { o with reqs := o.reqs ++ o.made.map Item.id, made := [] } })
    else (s, e)
  | none => (s, e)

/-- A quantum entry that leaves its core for a chip that cannot be reached: it leaves without reaching M, and every firing
whose operation it carries has the outcome of R226 (R199, R358, R371). -/
def State.opLost (s : State) (e : Entry) : Bool :=
  match e.place, e.op with
  | .core ep, some o => e.remote && !o.made.isEmpty && !s.reachable (chipOf ep) (homeOf e.key)
  | _, _ => false
def State.loseOp (s : State) (e : Entry) : State :=
  match e.op with
  | some o => o.made.foldl (fun s it => s.unknownOutcome it.cap it.ep it.slot it.fir it.unknown) s
  | none => s

/-- A store's request takes its number as its first entry leaves the store buffer. -/
def State.numberStore (s : State) (e : Entry) : State :=
  match e.place, e.req with
  | .sb _, some id =>
    match s.remote.find? fun r => r.id == id with
    | some r =>
      if r.seqNo = 0 then
        let p := s.number r
        { p.1 with remote := p.1.remote.map fun q => if q.id = id then { q with seqNo := p.2 } else q }
      else s
    | none => s
  | _, _ => s

/-- An operation entry leaves for its reduction gateway: it counts as one request of each contributing pair (R372), which
takes its number as it arrives; those of one endpoint arrive, and are applied, in the order they were placed (R369). -/
def State.numberRed (s : State) (e : Entry) (p : Place) : State × Entry :=
  match e.place, e.op, p with
  | .gw _ _, some o, .gw _ g =>
    let r := (s.contributors o).foldl (fun (a : State × List Nat) r =>
      let q : Remote := { r with id := a.1.fresh, kind := .segment r.id, gw := g, item := none, reply := none }
      (State.placeRemote a.1.bump q, a.2 ++ [q.id])) (s, [])
    (r.1, { e with op := some { o with nums := o.nums ++ r.2 } })
  | _, _, _ => (s, e)

/-- Event ENTRY_MOVE (R176): the entry becomes the newest of its next place, or takes effect at M. -/
def execEntryMove (idx : Nat) (s : State) : Host.Outcome State Fault Refusal :=
  match s.entries[idx]? with
  | none => .next s
  | some e =>
    if !s.mayMove idx e then .next s
    else
      let rest := { s with entries := listDel s.entries idx }
      if s.opLost e then .next (rest.loseOp e)
      else match s.nextPlace e with
      | none => .next (rest.entryToM e)
      | some p =>
        let r := (rest.numberStore e).trackOp e
        let r := r.1.numberRed r.2 p
        .next { r.1 with entries := r.1.entries ++ [{ r.2 with place := p }] }

/-- Event REDUCTION_WAIT_EXPIRY (R372): an entry in its reduction gateway is applied at M without a partner. -/
def execReductionWaitExpiry (idx : Nat) (s : State) : Host.Outcome State Fault Refusal :=
  match s.entries[idx]? with
  | none => .next s
  | some e =>
    if e.op.isSome && e.place == reductionGate e.key && s.leads idx e && s.reductionFirst idx e then
      .next ({ s with entries := listDel s.entries idx }.entryToM e)
    else .next s

/-- Two pending operations combined (R189): exact with wrap for integers, one rounding for a floating addition. -/
def combine (op : AmoOp) (t : Tag) (a b : Word) : Word :=
  let low := fun (x : Word) => bits x.toNat 0 (8 * t.width)
  BitVec.ofNat 64 (amoNew op t (low a) (low b) 0)

/-- Event GATEWAY_MERGE (R189, R372): entries i and j of one gateway queue become one at i's place, unless j's would pass another
request of one of its senders on the way there (R369). -/
def execGatewayMerge (i j : Nat) (s : State) : Host.Outcome State Fault Refusal :=
  match s.entries[i]?, s.entries[j]? with
  | some a, some b =>
    match a.place, a.op, b.op with
    | .gw _ _, some p, some q =>
      if i ≠ j ∧ a.place = b.place ∧ a.key = b.key ∧ p.op = q.op ∧ p.ty = q.ty ∧ p.quantum = 0 ∧ q.quantum = 0
          ∧ s.sendersMeet ((s.entries.take (max i j)).drop (min i j + 1)) b = false then
        let o := { p with operand := combine p.op p.ty p.operand q.operand, count := p.count + q.count
                          reqs := p.reqs ++ q.reqs, parties := p.parties ++ q.parties, made := p.made ++ q.made, nums := p.nums ++ q.nums }
        .next { s with entries := listDel (listSet s.entries i { a with op := some o }) j }
      else .next s
    | _, _, _ => .next s
  | _, _ => .next s

/-! Performing atomics. -/

/-- The firing holds an early atomic (R187). -/
def State.spcHeld (s : State) (fir : Nat) : Bool := s.iq.any fun i => i.fir == fir && i.held

/-- The atomic's operation entry, placed at p. -/
def opEntry (it : Item) (p : Place) (op : AmoOp) (t : Tag) (key : Nat) (b : Word) (quantum : Nat) (reqs : List Nat) : Entry :=
  { id := it.id, place := p, key := key, bytes := List.replicate t.width 0, party := it.fir, cap := it.cap, core := it.ep
    kind := it.kind, fenced := false
    op := some { op := op, ty := t, operand := b, count := 1, quantum := quantum, freed := false, parties := [(it.fir, it.id)]
                 reqs := reqs } }

/-- A quantum atomic joins the entry of its core, or makes one (R188). -/
def State.addQuantum (s : State) (it : Item) (op : AmoOp) (t : Tag) (key : Nat) (b : Word) (q : Nat) : State :=
  let here := fun (e : Entry) => e.place == .core it.ep && e.key == key &&
    match e.op with
    | some o => o.op == op && o.ty == t && o.quantum != 0
    | none => false
  if s.entries.any here then
    { s with entries := s.entries.map fun e => if here e then
        { e with op := e.op.map fun o => { o with operand := combine op t o.operand b, count := o.count + 1, quantum := q
                                                  parties := o.parties ++ [(it.fir, it.id)], made := o.made ++ [it] } } else e }
  else
    let e := opEntry it (.core it.ep) op t key b q []
    { s with entries := s.entries ++ [{ e with op := e.op.map fun o => { o with made := [it] } }] }

/-- Every earlier entry of the firing for the location that the operation entry to be made would not follow on its path has
reached M: value entries, and of the operation entries those of the other path, that of a quantum or that of a gateway. -/
def State.valuesHome (s : State) (it : Item) (quantum : Bool := false) : Bool :=
  s.entries.all fun e => !e.earlierOf it.fir it.id || (e.op.any fun o => (o.quantum != 0) == quantum)
    || !it.spans.any (overlap (e.key, e.bytes.length))

/-- An atomic that is not performed at M from the issue queue: a quantum one (R188), or one to another chip (R206). -/
def State.performAmo (s : State) (it : Item) (op : AmoOp) (t : Tag) (key : Nat) (b cmp : Word) (u : Use) (q : Nat) : State :=
  if !s.amoPlaceable it then s
  else if u = .qnt then
    if remoteHome it.ep it.home && !s.reachable (chipOf it.ep) it.home then s.failItem it false
    else if s.valuesHome it true then (s.addQuantum it op t key b q).done it else s
  else if !remoteHome it.ep it.home then s
  else if s.remote.any fun r => r.id == it.id then s
  else if !s.reachable (chipOf it.ep) it.home then s.failItem it false
  else if u = .com then
    if it.window then
      if s.valuesHome it then
        let s := { s with entries := s.entries ++ [opEntry it (s.gateOut it.ep it.home) op t key b 0 [it.id]]
                          remote := s.remote ++ [s.mkRemote it .red] }
        s.done it
      else s
    else if s.atHome it.fir it.id it.spans then (s.placeRemote (s.mkRemote it (.amo op t key b cmp))).done it else s
  else if !s.atHome it.fir it.id it.spans then s
  else s.placeRemote { s.mkRemote it (.amo op t key b cmp) with item := some it.id }

/-- A reduction (R222): at M where homed here, one element in a step, else one request, an entry of E(gateway) for each
element. -/
def State.performRed (s : State) (it : Item) (op : AmoOp) (t : Tag) (es : List (Nat × Word)) (pick : Nat) : State :=
  if remoteHome it.ep it.home then
    if !s.amoPlaceable it then s
    else if !s.reachable (chipOf it.ep) it.home then s.failItem it false
    else if !s.valuesHome it then s
    else State.done { s with
      entries := s.entries ++ es.map fun e => opEntry it (s.gateOut it.ep it.home) op t e.1 e.2 0 [it.id]
      remote := s.remote ++ [s.mkRemote it .red] } it
  else
    let j := pick % es.length
    match es[j]? with
    | none => s.done it
    | some e =>
      let one := { it with act := .red it.ptr op t [e] }
      if !s.amoPlaceable one || !s.atHome it.fir it.id one.spans then s
      else
        let r := s.atM op t e.1 e.2 0
        let s := if r.2.2 then r.1.ras it.ep else r.1
        match listDel es j with
        | [] => s.done it
        | es' => s.setItem { it with act := .red it.ptr op t es' }

/-- A performed atomic's result (R203, R204). -/
def State.finishAmo (s : State) (it : Item) (t : Tag) (old : Nat) (bad : Bool) : State :=
  let s := if bad then s.ras it.ep else s
  let s := s.doneS it (iwide t old) bad
  match it.rel with
  | some sc => s.released it.ep sc
  | none => s

/-- An atomic at M. On host memory it is a PCI Express AtomicOp, which its completer may refuse: nothing is written, and
the result is poisoned (R206). -/
def State.amoAtM (s : State) (it : Item) (op : AmoOp) (t : Tag) (key : Nat) (b cmp : Word) : State × Nat × Bool :=
  if it.home == 64 && Config.completerRefuses it.id then (s, 0, true) else s.atM op t key b cmp

/-- Event ATOMIC_PERFORM (R186): an atomic of the issue queue at M in one step; `early` asks for the speculative read of
R187. -/
def execAtomicPerform (idx : Nat) (early : Bool) (s : State) : Host.Outcome State Fault Refusal :=
  match s.iq[idx]? with
  | none => .next s
  | some it =>
    match it.act with
    | .amo op t key b cmp u q kept =>
      if early then
        match kept with
        | some e =>
          let x := s.slot it.ep it.slot
          let r := s.readM key t.width
          if e.old.isSome || x.issuedAt != e.cycle || !(x.firing.any fun f => f.id == it.fir)
            || r.2 || decide (2 ≤ (s.iq.filter fun i => i.fir == it.fir && i.held).length) then .next s
          else
            let old := iwide t (ofBytes r.1)
            .next ((s.setItem { it with act := .amo op t key b cmp u q (some { e with old := some old }) }).arriveS it.ep it.slot it.dst it.id old false)
        | none => .next s
      else if u == .qnt || remoteHome it.ep it.home || it.held || !s.amoReady it
        || ((s.earlier it).any fun i => i.held) then .next s
      else
        let r := s.amoAtM it op t key b cmp
        .next (r.1.finishAmo it t r.2.1 r.2.2)
    | _ => .next s

/-- F is replayed from the atomic (R187): registers as before it, the budget as it stands, later requests gone. -/
def State.replay (s : State) (it : Item) (e : Early) : State :=
  let s := { s with iq := s.iq.filter fun i => i.fir != it.fir || decide (i.id < it.id) }
  s.modSlot it.ep it.slot fun x =>
    { e.slot with
      stream := x.stream, age := x.age, delay := x.delay, issuedAt := x.issuedAt, wait := .none, regResult := x.regResult, regLatest := x.regLatest
      firing := match x.firing, e.slot.firing with
        | some f, some g => if f.id = g.id then some { g with budget := f.budget, unknown := f.unknown } else x.firing
        | y, _ => y }

/-- Event SPC_COMMIT (R187): M is read again in one step; the held write is placed, or the firing replayed. -/
def execSpcCommit (idx : Nat) (s : State) : Host.Outcome State Fault Refusal :=
  match s.iq[idx]? with
  | none => .next s
  | some it =>
    match it.act with
    | .amo op t key b cmp _ _ (some e) =>
      match e.old with
      | none => .next s
      | some old =>
        if !s.amoReady it || ((s.earlier it).any fun i => i.held) then .next s
        else
          let r := s.atM op t key b cmp
          if r.2.2 || iwide t r.2.1 != old then .next (s.replay it e) else .next (r.1.done it)
    | _ => .next s

/-! Performing fences. -/

/-- A channel still has work of a firing for the porter (bit 0) or the dealer (bit 1): its last entry, once begun, is of
one of the two; what is not yet begun may be of either. -/
def Chan.owes (c : Chan) (fir b : Nat) : Bool :=
  match c.reqs with
  | [] => false
  | r :: rs => rs.any (fun q => q.fir == fir) || (r.fir == fir &&
      match c.work with
      | some w => decide (1 < r.left) || bit w.control 19 == (b == 1)
      | none => true)
/-- The requests of the kinds that a mask names have finished (R192, R209): porter channels, the dealer, the matrix queues,
this core's and those that the firing commands (R140, R166), the gateways. DESIGN CHOICE (log 27): bit 3 waits for no `amsg` or
`amsgc` that still stands in the firing's send stream: it is placed in E(gateway) only as it leaves that stream. -/
def State.enginesDone (s : State) (it : Item) (mask : Nat) : Bool :=
  let c := s.core it.ep
  let placed := (s.earlier it).all fun i => match i.act with | .pgo _ _ => false | _ => true
  let porters := fun b => placed && c.chans.all fun e => !e.2.owes it.fir b
  let gate := fun (i : Item) => match i.act with
    | .rld _ _ _ _ | .rst _ _ _ _ _ | .ramo _ _ _ _ _ _ _ | .red _ _ _ _ | .rcopy _ _ _ _ _ _ | .spawn _ _ => true
    | _ => remoteHome i.ep i.home && (i.isAccess)
  (!bit mask 0 || porters 0) && (!bit mask 1 || porters 1)
  && (!bit mask 2 || s.cores.all fun e => (e.2.mq.all fun o => o.fir != it.fir) && e.2.cmdIn.all fun m => m.fir != it.fir)
  && (!bit mask 3 || ((s.remote.all fun r => r.fir != it.fir || s.remoteDone r) && (s.earlier it).all fun i => !gate i))

/-- A fence (R185). -/
def State.performFence (s : State) (it : Item) (sc : Scope) : State :=
  if s.barred it || !s.relReady it sc then s
  else ((s.markFenced it.fir it.id).released it.ep sc).done it

/-- `fence.eng` (R192): the requests have finished and their writes have reached the point. -/
def State.performFenceEng (s : State) (it : Item) (mask : Nat) (sc : Scope) : State :=
  if s.barred it || !s.enginesDone it mask
      || s.entries.any (fun e => e.eng == it.fir && bit mask e.engBit && !e.reached sc) then s
  else s.done it

end Sys2Proof.Machine
end

