-- ==== Sys2Proof/Machine/Extents.lean ====
section
/-!
DEFINITION. Committed memory: the count against owner reserves (17 R330), growth of extents (04 R67, 15 R310), and the
event that serves a growth request.
-/
namespace Sys2Proof.Machine

/-- A committed range of locations: first key and one past the last. -/
abbrev Range := Nat × Nat

/-- The committed ranges of an extent; slot 1 is four views, each committed at its top (R309). -/
def Extent.ranges (e : Extent) (x : Nat) : List Range :=
  if x = 1 then
    (List.range 4).map fun k =>
      let top := keyOf e.homeKey (e.viewBase 1 k) + e.viewLen 1
      (top - e.viewComm 1, top)
  else let k := keyOf e.homeKey e.base; [(k, k + e.comm)]

/-- Bytes that the first of two range lists has beyond the ranges counted before it. -/
def beyond (r : Range) : List Range → Nat
  | [] => r.2 - r.1
  | q :: qs => if q.2 ≤ r.1 ∨ r.2 ≤ q.1 then beyond r qs
    else (if r.1 < q.1 then beyond (r.1, q.1) qs else 0) + (if q.2 < r.2 then beyond (q.2, r.2) qs else 0)

/-- Bytes of ranges, each counted once (R330). -/
def measure : List Range → Nat
  | [] => 0
  | r :: rs => beyond r rs + measure rs

/-- The committed ranges that a chip's Memory core counts for an owner tag: running capsules' extents, and growth kept
for successors (R334). -/
def State.committed (s : State) (chip owner : Nat) : List Range :=
  (s.caps.filter fun e => e.2.chip == chip).flatMap (fun e =>
    (e.2.extents.filter fun x => x.2.owner == owner && !x.2.derived).flatMap fun x => x.2.ranges x.1)
  ++ ((s.chip chip).kept.filter fun k => k.owner == owner).map fun k =>
    (keyOf k.home k.base, keyOf k.home k.base + k.comm)

/-- The reserve of an owner tag (Table 22.3). -/
def Chip.reserve (c : Chip) (owner : Nat) : Nat :=
  match c.config with
  | some r => match r.tags.find? fun t => t.tag == owner with
    | some t => t.reserve
    | none => 0
  | none => 0

/-- A byte range meets a retired 4 KiB page of the chip it lies on (R415). -/
def State.meetsRetired (s : State) (r : Range) : Bool :=
  decide (homeOf r.1 < 64) && (s.chip (homeOf r.1)).telemetry.retiredPages.any fun p =>
    decide (keyOf (homeOf r.1) (p * 4096) < r.2) && decide (r.1 < keyOf (homeOf r.1) (p * 4096) + 4096)

/-- An entry made before the bytes of a range became others: it holds those too, so that no read path and no later move
brings the old ones back. A pending operation on the range goes. -/
def Entry.covered (r : Range) (f : Nat → Byte) (e : Entry) : Option Entry :=
  let inside := fun a => decide (r.1 ≤ a) && decide (a < r.2)
  let as := (List.range e.bytes.length).map fun i => e.key + i
  if !as.any inside then some e
  else if e.op.isSome then none
  else some { e with
    bytes := (as.zip e.bytes).map fun p => if inside p.1 then f p.1 else p.2
    poison := e.poison && !as.all inside }
def State.cover (s : State) (r : Range) (f : Nat → Byte) : State := { s with entries := s.entries.filterMap (Entry.covered r f) }

/-- Zero-fill of a byte range, before any core reaches it: of M, and of what an earlier owner of the bytes left on its way
there (R330). -/
def State.zeroM (s : State) (r : Range) : State :=
  { s.cover r (fun _ => 0) with
    mem := s.mem.filter fun e => e.1 < r.1 || r.2 ≤ e.1
    poison := poisonWrite s.poison r.1 (r.2 - r.1) }

/-- Committed length after one growth step; it never passes the length. -/
def Extent.nextComm (e : Extent) (x : Nat) : Nat := min (e.comm + (if x = 1 then 262144 else 65536)) e.length

/-- One growth step of extent x of a capsule: committed and zero-filled, or not backed (R330). -/
def State.growStep (s : State) (cap x : Nat) : Option State :=
  let c := s.cap cap
  match c.extents.find x with
  | none => none
  | some e =>
    let e' := { e with comm := e.nextComm x }
    if e'.comm = e.comm then none
    else
      let old := e.ranges x
      let new := (e'.ranges x).zip old |>.map fun p => if x = 1 then (p.1.1, p.2.1) else (p.2.2, p.1.2)
      let total := measure (new ++ s.committed c.chip e.owner)
      if total > (s.chip c.chip).reserve e.owner ∨ new.any s.meetsRetired then none
      else some (new.foldl State.zeroM (s.modCap cap fun c => { c with extents := c.extents.put x e' }))

/-- Growth in steps until the byte reached is committed, and whether it is; the fuel bounds the steps by the extent's length.
Steps that were backed before one that is not stay committed: each raises the committed length (R310). DEDUCED (log 47). -/
def growGo : Nat → State → Nat → Nat → Int → State × Bool
  | 0, s, _, _, _ => (s, false)
  | n + 1, s, cap, x, upto =>
    match (s.cap cap).extents.find x with
    | none => (s, false)
    | some e =>
      let short := if x = 1 then decide (upto < (e.viewLen x : Int) - e.viewComm x) else decide ((e.comm : Int) < upto)
      if !short then (s, true)
      else match s.growStep cap x with
        | some s' => growGo n s' cap x upto
        | none => (s, false)

def State.growExtent (s : State) (cap x : Nat) (upto : Int) : State × Bool :=
  match (s.cap cap).extents.find x with
  | some e => growGo (e.length / 65536 + 2) s cap x upto
  | none => (s, false)

/-- Growth that a firing's instruction asked for is not backed: the instruction raises the fault of its access. Where the
word not reached is the first of the trap entry, whose fetch asked, that is Handler-fetch (R394). -/
def State.growthDenied (s : State) (ep k : Nat) (f : Firing) (i : FaultInfo) : State :=
  let e := (s.cap f.cap).trapEntry
  let w := codeEntry f.code e
  match f.trap with
  | some t =>
    if f.pc = w ∧ (fetchGrowth (s.cap f.cap) f.pc).isSome then s.handlerFails ep k f t.record e w i.code
    else s.takeFault ep k i clsPrecise f.pc f.pc
  | none => s.takeFault ep k i clsPrecise f.pc f.pc

/-- Event STACK_GROWTH (R67): the Memory core serves a slot's growth request, but not during a warm reboot (Table 22.4).
The firing's instruction issues again; one whose growth cannot be backed raises Extent-bound instead. An outcome that came
to be unknown meanwhile is raised before the instruction (R226), which then asks again. -/
def execStackGrowth (ep slot : Nat) (s : State) : Host.Outcome State Fault Refusal :=
  let x := s.slot ep slot
  match x.firing, x.wait with
  | some f, .growth e upto i =>
    if (s.chip (chipOf ep)).frozen then .next s
    else
      let r := s.growExtent f.cap e upto
      let t := r.1.modSlot ep slot fun x => { x with wait := .none }
      .next (if r.2 || !f.unknown.isEmpty then t else t.growthDenied ep slot f i)
  | _, _ => .next s

end Sys2Proof.Machine
end

