-- ==== Sys2Proof/Machine/Porter.lean ====
section
/-!
DEFINITION. Porter channels and the dealer (09 R190, R193; 10 R210 to R217). A channel performs one entry at a time:
it begins it, copies it word by word, and finishes it, each a step of the ordering machine.
-/
namespace Sys2Proof.Machine

/-! Instructions. -/

/-- Field D names a channel (R210). -/
def channel (v : Val) (k : Nat → Eff) : Eff :=
  let c := sval v.word
  if c < 0 ∨ c > 3 then .fault (fIllegal 0) else k c.toNat

def Operand.val : Operand → Val
  | .imm x => .imm (BitVec.signExtend 64 x)
  | _ => .none

/-- One 8-byte store of the current firing, as a request of its own. -/
def State.storeWord (s : State) (opcode : Nat) (ptr : Word) (key : Nat) (e : Extent) (v : Word) : State :=
  let it := (s.newItem opcode (.store [{ key := key, w := 8, idx := 0 }] (v.setWidth 2048))).through (ptrSlot ptr) e ptr
  s.addItem it .none .raw

/-- `pappend` (R212). -/
def execPappend (o : Ops) (s : State) : Host.Outcome State Fault Refusal :=
  issue { op := 0x298 } o (fun s v _ =>
    channel (Operand.val o.d) fun ch =>
      let p := v.a.word
      if ptrOff p % 64 ≠ 0 then .fault (fMisaligned p 64)
      else s.access (ptrSlot p) (ptrOff p) 64 64 (permR ||| permW) fun key e =>
        let link := fun (s : State) => s.modChan s.curCore ch fun c =>
          { c with first := some (c.first.getD p), last := some p, count := c.count + 1 }
        match (s.curC.chan ch).last with
        | none => .ok (link (s.storeWord 0x298 p (key + 0x28) e 0))
        | some l =>
          s.access (ptrSlot l) ((ptrOff l : Int) + 0x28) 8 8 permW fun key' e' =>
            let s' := s.storeWord 0x298 p (key + 0x28) e 0
            if remoteHome s.curCore e'.homeKey && s'.remoteFull then .wait
            else .ok (link (s'.storeWord 0x298 l key' e' p))) s

def State.releaser (s : State) : Releaser :=
  { stamp := s.cur.dline.toNat, fir := s.curF.id, cap := s.curF.cap, view := s.curSlot }

/-- `pgo` (R213): the entries are taken in issue order; the request is placed when the store buffer is empty (R190). -/
def execPgo (o : Ops) (s : State) : Host.Outcome State Fault Refusal :=
  issue { op := 0x299 } o (fun s _ _ =>
    channel (Operand.val o.d) fun ch =>
      let p := (s.curC.chan ch).take s.releaser
      let s := s.modChan s.curCore ch fun _ => p.1
      .ok (s.addItem (s.newItem 0x299 (.pgo ch p.2)) .none .raw)) s

/-- Performing `pgo`: with nothing taken it only lets a halted channel go on (R213, R215). -/
def State.performPgo (s : State) (it : Item) (ch : Nat) (q : Option PReq) : State :=
  if s.barred it || !s.bufferEmpty it
    || ((s.earlier it).any fun i => match i.act with | .pgo _ _ => true | _ => false) then s
  else (s.modChan it.ep ch fun c => c.place q).done it

/-- Channel state (Table 10.8). -/
def Chan.word (c : Chan) : Word :=
  BitVec.ofNat 64 ((!c.reqs.isEmpty).toNat * 2 ^ 63 + c.halted.toNat * 2 ^ 62 + c.status % 256 * 2 ^ 40 + c.doneSeq % 2 ^ 32)

/-- `pseq` (R216). -/
def execPseq (o : Ops) (s : State) : Host.Outcome State Fault Refusal :=
  issue { op := 0x29A } o (fun s _ _ =>
    channel (Operand.val o.d) fun ch => .ok (s.putS o.a (s.curC.chan ch).word)) s

/-- `pdeal` (R217). -/
def execPdeal (o : Ops) (s : State) : Host.Outcome State Fault Refusal :=
  issue { op := 0x29B } o (fun s v _ =>
    channel (Operand.val o.d) fun ch => .ok (s.modChan s.curCore ch fun c => { c with deal := v.a.word })) s

/-! Beginning an entry. -/

/-- What an access of an engine comes to: the bytes' location, a fault, or a wait. -/
inductive Reach where
  | ok (s : State) (key : Nat) (e : Extent)
  | fail (s : State) (f : FaultInfo)
  | wait

/-- An access of an engine: Table 4.4, growth served at once (R214), but not during a warm reboot (Table 22.4). -/
def State.engineAccess (s : State) (cap view : Nat) (p : Word) (n a need : Nat) : Reach :=
  match checkAccess (s.cap cap) view (ptrSlot p) (ptrOff p) n a need with
  | .ok key e => .ok s key e
  | .fail f => .fail s f
  | .grow x upto =>
    if (s.chip (s.cap cap).chip).frozen then .wait
    else
      let r := s.growExtent cap x upto
      let t := r.1
      if !r.2 then .fail t (fBound p n)
      else match checkAccess (t.cap cap) view (ptrSlot p) (ptrOff p) n a need with
        | .ok key e => .ok t key e
        | .fail f => .fail t f
        | .grow _ _ => .fail t (fBound p n)

def OKind.code : OKind → Nat
  | .strong => 0
  | .release => 1
  | .unordered => 2
def kindOf : Nat → OKind
  | 0 => .strong
  | 1 => .release
  | _ => .unordered

/-- Bytes read along the read path of core ep by an engine (R190); which of several unfenced unordered entries a byte is
taken from is as `tick` has it (R175, log 2). -/
def State.engineRead (s : State) (ep key : Nat) (k : OKind) (n : Nat) : List Byte × Bool :=
  s.readPath (readPlaces 0 ep (homeOf key) k) key s.tick n

/-- Tags that `tfill` accepts (Table 7.3). -/
def fillTag (t : Nat) : Option Tag :=
  match Tag.ofCode t with
  | some t => if [0, 1, 2, 8, 9, 0x0C, 0x0D, 0x0E, 0x0F, 0x10, 0x11, 0x12, 0x13, 0x14, 0x15, 0x16, 0x17].contains t.code then some t else none
  | none => none

/-- The fields of an entry (Tables 10.6, 10.7). -/
structure PFields where
  source : Nat
  dest : Nat
  length : Nat
  control : Nat
  spare : Nat

def pFields (bs : List Byte) : PFields :=
  { source := lget bs 0 8, dest := lget bs 8 8, length := lget bs 16 8, control := lget bs 24 8, spare := lget bs 0x30 16 }
def PFields.toL (f : PFields) : Bool := bit f.control 16
def PFields.fromL (f : PFields) : Bool := bit f.control 17
def PFields.toSlot (f : PFields) : Bool := bit f.control 18
def PFields.deal (f : PFields) : Bool := bit f.control 19
def PFields.tag (f : PFields) : Nat := bits f.control 24 5

/-- Status of the first two checks of step 2: reserved fields, then the combination of control bits. -/
def PFields.bad (f : PFields) (deal : Word) : Option Nat :=
  let tagged := f.toSlot || (f.deal && bits deal.toNat 50 2 == 1)
  if bits f.control 29 35 ≠ 0 ∨ bits f.control 20 4 ≠ 0 ∨ f.spare ≠ 0 ∨ (f.toSlot ∧ f.dest / 16 ≠ 0) then some 0x03
  else if (f.toL && f.toSlot) || (f.deal && (f.toL || f.toSlot))
    || (if tagged then (fillTag f.tag).isNone else f.tag != 0) then some 0x02
  else none

/-- Length and 8-byte alignment (step 2). DEDUCED (log 46): the destination of a deal is held to it for either target,
though Table 10.6 gives it no meaning for slots. -/
def PFields.misaligned (f : PFields) : Bool :=
  let src := if f.fromL then f.source else f.source % 2 ^ 58
  let dst := if f.toL || f.deal then f.dest else f.dest % 2 ^ 58
  f.length == 0 || f.length % 8 != 0 || src % 8 != 0 || (!f.toSlot && dst % 8 != 0)

/-- The receiving cores of a deal pattern (R217), or its status. DEDUCED (log 13): the order of the pattern's checks.
DEDUCED (log 46): a block or a length that does not fit its slots has the status of R214's own length check (0x06), and a
length that is not the pattern's the one of a wrong combination (0x02). -/
def dealTargets (c : Capsule) (f : PFields) (deal : Word) : Except Nat PEnd :=
  let d := deal.toNat
  let b := bits d 0 16
  let n := bits d 16 10 + 1
  let stride := bits d 36 10
  let target := bits d 50 2
  if bits d 52 12 ≠ 0 ∨ target ≥ 2 ∨ stride = 0 ∨ b = 0 ∨ b % 64 ≠ 0 then .error 0x03
  else
    let eps := (List.range n).map fun i => c.cores[bits d 26 10 + i * stride]?
    if eps.any Option.isNone then .error 0x0E
    else
      let eps := eps.filterMap id
      if f.length % b ≠ 0 then .error 0x02
      else if target = 0 then
        let rows := ceilDiv (f.length / b) n
        if f.dest + rows * b > Config.lBytes then .error 0x06 else .ok (.dealL f.dest eps b)
      else
        let want := match fillTag f.tag with
          | some t => slotBytes t
          | none => 16384
        if b ≠ want then .error 0x06 else if f.length ≠ n * b then .error 0x02
        else .ok (.dealSlot (bits d 46 4) eps b)

/-- What the checks of an entry's ends come to: the two ends, a status, or a wait for growth; each with the state after the
growth made so far. -/
inductive Ends where
  | ok (s : State) (src dst : PEnd)
  | status (s : State) (st : Nat)
  | wait

/-- The destination of an entry whose source is checked. DESIGN CHOICE (log 13): the deal pattern's own checks come behind those
of the entry's fields, alignment and source range; R217 gives them no place among the checks of step 2. -/
def State.porterDest (s : State) (r : PReq) (f : PFields) (a : PEnd) : Ends :=
  if f.deal then
    match dealTargets (s.cap r.cap) f r.deal with
    | .error st => .status s st
    | .ok b => .ok s a b
  else if f.toL then if f.dest + f.length > Config.lBytes then .status s 0x06 else .ok s a (.l f.dest)
  else if f.toSlot then
    let want := match fillTag f.tag with
      | some t => slotBytes t
      | none => 16384
    if f.length ≠ want then .status s 0x06 else .ok s a (.slot f.dest)
  else match s.engineAccess r.cap r.view (BitVec.ofNat 64 f.dest) f.length 8 permW with
    | .fail s i => .status s i.code
    | .ok s key e => .ok s a (.ext key e.kind.code)
    | .wait => .wait

/-- Source and destination checked (step 2). -/
def State.porterEnds (s : State) (r : PReq) (f : PFields) : Ends :=
  if f.fromL then if f.source + f.length > Config.lBytes then .status s 0x06 else s.porterDest r f (.l f.source)
  else match s.engineAccess r.cap r.view (BitVec.ofNat 64 f.source) f.length 8 permR with
    | .fail s i => .status s i.code
    | .ok s key e => s.porterDest r f (.ext key e.kind.code)
    | .wait => .wait

/-- The channel halts after a failed read at step 1: the rest of that request is dropped (R215). -/
def State.porterLost (s : State) (ep ch : Nat) (r : PReq) (p : Word) (code : Nat) : State :=
  let n := (((s.core ep).chan ch).seqNo + 1) % 2 ^ 32
  let s := s.modChan ep ch fun c => { c with seqNo := n, halted := true, reqs := c.reqs.drop 1 }
  s.faultOutside r.cap ep code p (BitVec.ofNat 64 n) 1

/-- Steps 1 and 2 of R214 for the entry at p. DESIGN CHOICE (log 32): its 64 bytes are read in one step, so of the fields that a
program rewrites behind the `pgo` each has the value of that step; R212 leaves open which one the porter uses. -/
def State.porterBegin (s : State) (ep ch : Nat) (r : PReq) (p : Word) : State :=
  match s.engineAccess r.cap r.view p 64 64 (permR ||| permW) with
  | .wait => s
  | .fail s i => s.porterLost ep ch r p i.code
  | .ok s key e =>
    let bs := s.engineRead ep key e.kind 64
    if bs.2 then s.porterLost ep ch r p 0x0C
    else
      let f := pFields bs.1
      let n := (((s.core ep).chan ch).seqNo + 1) % 2 ^ 32
      let w : PWork := { ptr := p, key := key, kind := e.kind.code, seqNo := n, dest := BitVec.ofNat 64 f.dest
                         length := f.length, control := f.control }
      let fail := fun (s : State) st => s.modChan ep ch fun c => { c with seqNo := n, work := some { w with status := st, done := f.length } }
      match f.bad r.deal with
      | some st => fail s st
      | none =>
        if f.misaligned then fail s 0x0D
        else match s.porterEnds r f with
          | .wait => s
          | .status s st => fail s st
          | .ok s a b => s.modChan ep ch fun c => { c with seqNo := n, work := some { w with src := a, dst := b } }

/-- The next entry of the channel: a request's first, or the one that the finished entry's next field names (R213). A next
field that can no longer be read is a failed read of step 1 that names the finished entry. DESIGN CHOICE (log 32): the spec
says nothing of it. -/
def State.porterNext (s : State) (ep ch : Nat) (r : PReq) : State :=
  if !r.begun then s.porterBegin ep ch r r.next
  else match s.engineAccess r.cap r.view r.next 64 64 (permR ||| permW) with
    | .wait => s
    | .fail s i => s.porterLost ep ch r r.next i.code
    | .ok s key e =>
      let bs := s.engineRead ep (key + 0x28) e.kind 8
      if bs.2 then s.porterLost ep ch r r.next 0x0C else s.porterBegin ep ch r (BitVec.ofNat 64 (ofBytes bs.1))

/-! Copying. -/

/-- An engine's write of one word (R177, R190): in Q(core), or E(gateway) for another chip. DEDUCED (log 46): an entry that
no firing made is past every fence, since a fence marks the entries of its own firing alone (R185). `eb` is the kind of
the request by its bit of R209. -/
def State.engineWrite (s : State) (ep cap fir eb key : Nat) (k : OKind) (bs : List Byte) (poison : Bool) : State × Nat :=
  let place := if remoteHome ep (homeOf key) then s.gateOut ep (homeOf key) else .core ep
  ({ s with
      entries := s.entries ++ [{ id := s.fresh, place := place, key := key, bytes := bs, party := 0, eng := fir, engBit := eb
                                 cap := cap, core := ep, kind := k, fenced := true, poison := poison }]
      fresh := s.fresh + 1 }, s.fresh)

/-- A slot written whole, or held while its count is above 0 (R139). -/
def State.engineSlot (s : State) (ep x : Nat) (bs : List Byte) (t : Tag) (src : HeldBy) : State × Option Nat :=
  let c := s.core ep
  let data := ofBytes (bs.take 16384)
  let side := ofBytes (bs.drop 16384)
  if (c.bank x).count = 0 && !(c.held.any fun h => h.slot == x) then (s.setCore ep (c.writeSlot x data side t), none)
  else
    ({ s.setCore ep { c with held := c.held ++ [{ id := s.fresh, slot := x, data := BitVec.ofNat _ data, side := BitVec.ofNat _ side
                                                  tag := t, src := src }] } with fresh := s.fresh + 1 }, some s.fresh)

/-- One word is copied (step 3). -/
def State.porterWord (s : State) (ep ch : Nat) (r : PReq) (w : PWork) : State :=
  let d := w.done
  let rd := match w.src with
    | .l off => (s.core ep).lread (off + d) 8
    | .ext key k => s.engineRead ep (key + d) (kindOf k) 8
    | _ => ([], false)
  let first := rd.2 && w.poisonAt.isNone
  let s := if first then s.ras ep else s
  let w := { w with done := d + 8, poisonAt := if first then some d else w.poisonAt, status := if rd.2 then 0x0C else w.status }
  let tag := (fillTag (bits w.control 24 5)).getD .raw
  let put := fun (s : State) (w : PWork) => s.modChan ep ch fun c => { c with work := some w }
  let whole := fun (s : State) (target x : Nat) (w : PWork) =>
    let t := s.engineSlot target x w.buf (if w.bad then .poison else tag) (.porter ep ch)
    put t.1 { w with buf := [], bad := false, held := w.held ++ (t.2.map fun id => (target, id)).toList }
  match w.dst with
  | .l off => put (s.modCore ep fun c => c.lwrite (off + d) rd.1 rd.2) w
  | .ext key k =>
    let t := s.engineWrite ep r.cap r.fir (bit w.control 19).toNat (key + d) (kindOf k) rd.1 rd.2
    put t.1 { w with writes := w.writes ++ [t.2] }
  | .slot x =>
    let w := { w with buf := w.buf ++ rd.1, bad := w.bad || rd.2 }
    if w.done = w.length then whole s ep x w else put s w
  | .dealL off eps b =>
    let i := d / b
    match eps[i % eps.length]? with
    | some q => put (s.modCore q fun c => c.lwrite (off + i / eps.length * b + d % b) rd.1 rd.2) w
    | none => put s w
  | .dealSlot x eps b =>
    let w := { w with buf := w.buf ++ rd.1, bad := w.bad || rd.2 }
    if w.done % b = 0 then
      match eps[d / b]? with
      | some q => whole s q x w
      | none => put s w
    else put s w

/-! Finishing. -/

/-- Every remote write lies in Q(pod) or M, and every held slot write has been performed (R190, R139, R193). -/
def State.porterSettled (s : State) (w : PWork) : Bool :=
  (s.entries.all fun e => !w.writes.contains e.id || !e.remote || e.place == .pod)
  && w.held.all fun h => (s.core h.1).held.all fun g => g.id != h.2

/-- The completion message in the form of its mailbox's type (R214, Table 13.1). -/
def PWork.message (w : PWork) (ch ty stamp : Nat) : Msg :=
  let off := if w.status = 0x0C then w.poisonAt.getD 0 else 0
  if ty = 1 then
    mkMsg (BitVec.ofNat 64 w.seqNo) (BitVec.ofNat 64 (w.status + ch * 256 + off * 2 ^ 24)) w.dest (BitVec.ofNat 64 w.length) stamp
  else mkMsg (BitVec.ofNat 64 w.seqNo) (BitVec.ofNat 64 ch) (BitVec.ofNat 64 w.status) (BitVec.ofNat 64 off) stamp

/-- Step 4: the completion word is placed, the message posted, the pulses given; a status of a check halts the channel
(R215). -/
def State.porterFinish (s : State) (ep ch : Nat) (r : PReq) (w : PWork) : State :=
  let failed := w.status ≠ 0 ∧ w.status ≠ 0x0C ∨ (w.status = 0x0C ∧ w.poisonAt.isNone)
  let word := toBytes 8 (w.seqNo + w.status * 2 ^ 32)
  let s := (s.engineWrite ep r.cap r.fir (bit w.control 19).toNat (w.key + 0x20) (kindOf w.kind) word false).1
  let box := w.control % 2 ^ 16
  let s :=
    if box = 0xFFFF then
      if failed then s.faultOutside r.cap ep w.status w.ptr (BitVec.ofNat 64 w.status) 1 else s
    else s.postTyped (.porter ep ch) r.cap box [1, 3] (w.message ch (((s.cap r.cap).boxTy box).getD 3) r.stamp) ep 1
  let deal := bit w.control 19
  let s := if w.status ≠ 0 then s.pulseSource ep 4 else if deal then (s.pulseSource ep ch).pulseSource ep 5 else s.pulseSource ep ch
  s.modChan ep ch fun c => { c with
    work := none, doneSeq := w.seqNo, status := w.status, halted := c.halted || decide failed
    reqs := match c.reqs with
      | q :: qs => if q.left ≤ 1 then qs else { q with left := q.left - 1, next := w.ptr, begun := true } :: qs
      | [] => [] }

/-- One step of a channel; `deal` says which of the two events asks. -/
def State.channelStep (s : State) (ep ch : Nat) (deal : Bool) : State :=
  let c := (s.core ep).chan ch
  match c.reqs with
  | [] => s
  | r :: _ =>
    match c.work with
    | none =>
      if deal || c.halted || (s.held.any fun h => h.src == .porter ep ch) then s else s.porterNext ep ch r
    | some w =>
      if bit w.control 19 != deal then s
      else if w.done < w.length then s.porterWord ep ch r w
      else if s.porterSettled w then s.porterFinish ep ch r w else s

/-- Event PORTER_ENTRY (R214): the channel begins its next entry, copies a word of it, or finishes it. -/
def execPorterEntry (ep ch : Nat) (s : State) : Host.Outcome State Fault Refusal := .next (s.channelStep ep ch false)

/-- Event DEAL_ENTRY (R193, R217): the same for an entry in deal mode, once begun. -/
def execDealEntry (ep ch : Nat) (s : State) : Host.Outcome State Fault Refusal := .next (s.channelStep ep ch true)

end Sys2Proof.Machine
end

