-- ==== Sys2Proof/Machine/Remote.lean ====
section
/-!
DEFINITION. Publication and remote instructions (10 R218 to R227), the gateways' requests and replies (19 R368 to R371),
active messages (10 R224, R225) and fabric barriers (19 R374 to R377).
-/
namespace Sys2Proof.Machine

/-! Publication. -/

/-- `qpub` (R218). -/
def execQpub (o : Ops) (s : State) : Host.Outcome State Fault Refusal :=
  issue { op := 0x2A0 } o (fun s v _ =>
    let x := ptrSlot v.d.word
    s.access x (effAddr v.d v.a) 256 256 permW fun key e =>
      let act := Act.qpub key v.b.word { key := key + 0xFC, w := 4, idx := 0 }
      let it := (s.newItem 0x2A0 act).through x e (mkPtr x (effAddr v.d v.a))
      .ok (s.addItem { it with rel := some o.mods.scope } .none .raw)) s

/-- The doorbell at the issuing chip's Parser. -/
def State.ringBell (s : State) (it : Item) (phys : Nat) : State :=
  s.modChip (chipOf it.ep) fun h => { h with doorbells := h.doorbells ++ [{ key := phys, entry := it.id, scope := it.rel.getD .sys }] }
/-- Performing it: the trailer as a release, then the doorbell, which follows a trailer that has been placed. -/
def State.performQpub (s : State) (it : Item) (phys : Nat) (trailer : Word) (e : Elem) : State :=
  let t := s.performStore { it with act := .store [e] (trailer.setWidth 2048) } [e] (trailer.setWidth 2048) 0
  if (t.iq.any fun i => i.id == it.id) || (remoteHome it.ep it.home && !s.reachable (chipOf it.ep) it.home) then t
  else t.ringBell it phys

/-! Issue of the remote instructions. -/

/-- An access that must be homed on another chip (R221). -/
def State.farAccess (s : State) (p : Word) (n need : Nat) (k : Nat → Extent → Eff) : Eff :=
  s.access (ptrSlot p) (ptrOff p) n n need fun key e =>
    if remoteHome s.curCore e.homeKey then k key e else .fault (fPerm p (need ||| permE))

/-- `rld` (R221). -/
def execRld (o : Ops) (s : State) : Host.Outcome State Fault Refusal :=
  issue { op := 0x2C0 } o (fun s v _ =>
    let t := scalarTy o
    if bits v.d.word.toNat 0 16 = 0xFFFF then .fault (fIllegal 0)
    else s.farAccess v.a.word t.width permR fun key e =>
      let it := (s.newItem 0x2C0 (.rld v.d.word v.a.word t key)).through (ptrSlot v.a.word) e v.a.word
      .ok (s.addItem it .none .raw)) s

/-- `rst` (R221). -/
def execRst (o : Ops) (s : State) : Host.Outcome State Fault Refusal :=
  issue { op := 0x2C1 } o (fun s v _ =>
    let t := scalarTy o
    s.farAccess v.a.word t.width permW fun key e =>
      let it := (s.newItem 0x2C1 (.rst v.d.word v.a.word key t.width v.b.word)).through (ptrSlot v.a.word) e v.a.word
      .ok (s.addItem it .none .raw)) s

/-- The op of a `ramo` reply word (Table 10.12) that its type allows (Table 10.1). -/
def ramoOp (n : Nat) (t : Tag) : Option AmoOp :=
  if t.isFloat then if n = 8 then some .fadd else none
  else match n with
    | 0 => some .add
    | 1 => some .and
    | 2 => some .or
    | 3 => some .xor
    | 4 => some .min
    | 5 => some .max
    | 6 => some .swap
    | 7 => some .cas
    | 9 => some .inc
    | _ => none

/-- `ramo` (R221): for cas, B is an even register that holds the compare value, the next one the new value. DESIGN CHOICE
(log 49): that second register is known only from D's value, and the spec does not say at which step it is read; it is checked
for a freed or poisoned value behind all of step 9 and behind the check for an odd register, so that a poisoned D, A or B is
reported before it. -/
def execRamo (o : Ops) (s : State) : Host.Outcome State Fault Refusal :=
  issue { op := 0x2C2 } o (fun s v _ =>
    let t := scalarTy o
    match ramoOp (bits v.d.word.toNat 16 4) t with
    | none => .fault (fIllegal 0)
    | some op =>
      let go := fun (b cmp : Word) => s.farAccess v.a.word t.width (permR ||| permW ||| permA) fun key e =>
        let it := (s.newItem 0x2C2 (.ramo v.d.word v.a.word op t key b cmp)).through (ptrSlot v.a.word) e v.a.word
        .ok (s.addItem it .none .raw)
      if op = .cas then
        match o.b with
        | .s n _ =>
          if n.val % 2 ≠ 0 then .fault (fIllegal 2)
          else
            let r := v.old.sreg (n.val + 1)
            if r.pend.isSome then .wait
            else if r.freed && s.curCap.strict then .fault ⟨0x04, 2, BitVec.ofNat 64 (n.val + 1)⟩
            else if r.poison then .fault ⟨0x0C, 2, BitVec.ofNat 64 (n.val + 1)⟩
            else go (v.reg (n.val + 1)) v.b.word
        | _ => .fault (fIllegal 2)
      else go v.b.word 0) s

/-- A "first of four" operand (R219): its register number, which must be 60 or less. -/
def fourRegs : Operand → Option Nat
  | .s n _ => if n.val ≤ 60 then some n.val else none
  | _ => none
/-- The further registers of a block of four, with the field that names it (R269). -/
def blockReads (f : Nat) (o : Operand) : List (Nat × Nat) :=
  match fourRegs o with
  | some n => [(f, n + 1), (f, n + 2), (f, n + 3)]
  | none => []

/-- A send that would exceed the production of an actor or message firing (R248). -/
def State.overProduced (s : State) : Option Nat :=
  let f := s.curF
  match f.kind with
  | .task | .node => none
  | _ =>
    let p := match s.curCap.actors[f.actor]? with | some a => a.production | none => 255
    if p ≠ 255 ∧ f.produced + 1 > p then some p else none
def State.produce (s : State) : State := s.modF fun f => { f with produced := f.produced + 1 }

/-- An active message joins the slot's send stream (R224, R225, R276). -/
def State.sendActive (s : State) (opcode ep handler : Nat) (code : List (BitVec 96))
    (w : Word × Word × Word × Word) : Eff :=
  match s.overProduced with
  | some p => .fault ⟨0x0F, BitVec.ofNat 64 ep, BitVec.ofNat 64 p⟩
  | none =>
    if s.cur.stream.length ≥ 8 ∨ s.remoteFull then .wait
    else
      let f := s.curF
      let e : SendEnt :=
        { fir := f.id, cap := f.cap, after := s.fresh, addr := none, endpoint := ep, handler := handler, code := code
          w0 := w.1, w1 := w.2.1, w2 := w.2.2.1, w3 := w.2.2.2, stamp := s.cur.dline.toNat, word := f.pc
          raw := rawWord s s.curCore f f.pc, opcode := opcode }
      .ok ({ s.modCur fun x => { x with stream := x.stream ++ [e] } with fresh := s.fresh + 1 }.produce)

/-- `amsg` (R224, R375). DESIGN CHOICE (log 49): at step 10 the check of B as the first of four registers (R219) comes before
that of the reserved bits; the spec gives no order between them. -/
def execAmsg (o : Ops) (s : State) : Host.Outcome State Fault Refusal :=
  issue { op := 0x2C3, reads := fun o => blockReads 2 o.b } o (fun s v _ =>
    let d := v.d.word.toNat
    let h := v.a.word.toNat
    match fourRegs o.b with
    | none => .fault (fIllegal 2)
    | some n =>
      if d / 2 ^ 16 ≠ 0 ∨ h / 2 ^ 48 ≠ 0 then .fault fReservedValue
      else if h ≥ 0x100 then
        if h % 12 ≠ 0 then .fault (fMisaligned v.a.word 12) else s.sendActive 0x2C3 d h [] (v.four n)
      else if h ≠ 6 then .fault (fIllegal 1)
      else if d % 1024 ≠ 0 then .fault (fIllegal 0)
      else s.sendActive 0x2C3 d 6 [] (v.four n)) s

/-- Code words read at issue through slot 0, each with the checks of a fetch: growth is asked for as an access does, and a
fault is the instruction's own (R225, R27, R67). DESIGN CHOICE (log 47): they are those of the image that the firing's own
fetches find, as its dispatch found it (R200), not those that memory holds at issue; R225 does not say which. -/
def inlineWords (s : State) (w : Int) : Nat → Except Eff (List (BitVec 96))
  | 0 => .ok []
  | n + 1 =>
    match fetchGrowth s.curCap w with
    | some g => .error (.grow g.1 g.2 (fetchBound w))
    | none => match fetchImage s.curCap s.curF.code w with
    | .error e => .error (.fault e)
    | .ok x => match inlineWords s (w + 1) n with
      | .error e => .error e
      | .ok xs => .ok (BitVec.ofNat 96 x :: xs)

/-- `amsgc` (R225). DESIGN CHOICE (log 49): the check of B as the first of four registers comes before that of the reserved bits,
as in `amsg`; a code pointer that is not in slot 0 raises Extent-permission, and one that is no multiple of 12 raises Misaligned,
where R225 names no fault. -/
def execAmsgc (o : Ops) (s : State) : Host.Outcome State Fault Refusal :=
  issue { op := 0x2C4, reads := fun o => blockReads 2 o.b } o (fun s v _ =>
    let d := v.d.word.toNat
    match fourRegs o.b with
    | none => .fault (fIllegal 2)
    | some n =>
      if d / 2 ^ 20 ≠ 0 then .fault fReservedValue
      else if ptrSlot v.a.word ≠ 0 then .fault (fPerm v.a.word permX)
      else if ptrOff v.a.word % 12 ≠ 0 then .fault (fMisaligned v.a.word 12)
      else match inlineWords s (ptrOff v.a.word / 12 : Nat) (bits d 16 4 + 1) with
        | .error e => e
        | .ok code => s.sendActive 0x2C4 (d % 65536) 0 code (v.four n)) s

/-- The operation of a reduction op (Table 6.4). -/
def redOp (n : Int) (float : Bool) : Option AmoOp :=
  if float then match n with
    | 0 => some .fadd
    | 1 => some .fmin
    | 2 => some .fmax
    | _ => none
  else match n with
    | 0 => some .add
    | 1 => some .min
    | 2 => some .max
    | 3 => some .and
    | 4 => some .or
    | 5 => some .xor
    | _ => none

def Operand.isVec : Operand → Bool
  | .v _ _ => true
  | .q n => decide (12 ≤ n.val)
  | _ => false

/-- `red` (R222). -/
def execRed (o : Ops) (s : State) : Host.Outcome State Fault Refusal :=
  let t := scalarTy o
  let vec := Operand.isVec o.a
  issue { op := 0x2C5, guard := if vec then .fixed t.width else .scalar
          tags := fun _ _ v => if vec && v.a.tag != t then some (1, v.a.tag) else none } o (fun s v g =>
    match redOp (sval v.b.word) t.isFloat with
    | none => .fault (fIllegal 2)
    | some op =>
      let w := t.width
      let p := v.d.word
      let is := if vec then vecElems g w else [0]
      s.access (ptrSlot p) ((ptrOff p : Int) + vecLo is w) (vecLen is w) w (permW ||| permA) fun key e =>
        if !e.window then .fault (fPerm p (permW ||| permA))
        else
          let es := is.map fun i => (key + w * i - vecLo is w,
            if vec then (BitVec.ofNat 64 (velem w v.a.vbits i) : Word) else v.a.word)
          let it := (s.newItem 0x2C5 (.red p op t es)).through (ptrSlot p) e p
          .ok (s.addItem it .none .raw)) s

/-- `rcopy` (R223). -/
def execRcopy (o : Ops) (s : State) : Host.Outcome State Fault Refusal :=
  issue { op := 0x2C6 } o (fun s v _ =>
    let ctl := v.b.word.toNat
    let n := bits ctl 16 32
    if ctl / 2 ^ 48 ≠ 0 then .fault fReservedValue
    else if n = 0 ∨ n % 8 ≠ 0 then .fault (fIllegal 2)
    else if ptrOff v.d.word % 8 ≠ 0 then .fault (fMisaligned v.d.word 8)
    else if ptrOff v.a.word % 8 ≠ 0 then .fault (fMisaligned v.a.word 8)
    else s.access (ptrSlot v.a.word) (ptrOff v.a.word) n 8 permR fun skey a =>
      s.access (ptrSlot v.d.word) (ptrOff v.d.word) n 8 permW fun dkey b =>
        if s.remoteFull then .wait
        else
          let home := if remoteHome s.curCore b.homeKey then b.homeKey
            else if remoteHome s.curCore a.homeKey then a.homeKey else chipOf s.curCore
          let it := s.newItem 0x2C6 (.rcopy v.d.word v.b.word skey dkey n a.kind)
          .ok (s.addItem { it with home := home, ptr := v.d.word } .none .raw)) s

/-! Replies and outcomes. -/

/-- The reply message (Table 10.13) to the mailbox of its reply word, none for 0xFFFF (R220). -/
def State.postReply (s : State) (r : Remote) (reply : Word) (status : Nat) (value : Word) : State :=
  let box := bits reply.toNat 0 16
  let s := if status = 0 then s else s.ras r.ep
  if box = 0xFFFF then s
  else s.postTyped (.gateway r.chip) r.cap box [0]
    (mkMsg (BitVec.ofNat 64 (status + r.opcode * 256)) reply value r.ptr r.stamp) r.ep 3

/-- The request's outcome is unknown (R226, R377). -/
def State.remoteUnknown (s : State) (r : Remote) : State :=
  let u : Unknown := { word := r.word, ptr := r.ptr, opcode := r.opcode, raw := r.raw }
  match r.reply with
  | some w =>
    if bits w.toNat 0 16 = 0xFFFF then s.faultOutside r.cap r.ep 0x12 r.ptr (BitVec.ofNat 64 r.opcode) 3
    else s.postReply r w 0x12 (match r.kind with | .copy _ _ done _ _ => BitVec.ofNat 64 done | _ => 0)
  | none =>
    match r.kind with
    | .spawn _ _ => s.faultOutside r.cap r.ep 0x12 r.ptr 0x309 3
    | .segment _ => s
    | .fetch _ => (s.unknownOutcome r.cap r.ep r.slot r.fir u).wake r.ep r.slot r.id
    | _ =>
      match s.iq.find? fun i => r.item == some i.id with
      | some it => s.failItem it (match it.act with | .load _ _ vec _ => vec | _ => false)
      | none => s.unknownOutcome r.cap r.ep r.slot r.fir u

/-- The request needs the chip: its home, or the home of what a copy reads. -/
def Remote.needs (r : Remote) (c : Nat) : Bool :=
  r.home == c || (match r.kind with | .copy skey _ _ _ _ => remoteHome r.ep (homeOf skey) && homeOf skey == c | _ => false)
/-- Every chip that the request needs can be reached. -/
def State.canServe (s : State) (r : Remote) : Bool :=
  s.reachable r.chip r.home && (match r.kind with
    | .copy skey _ _ _ _ => !remoteHome r.ep (homeOf skey) || s.reachable r.chip (homeOf skey)
    | _ => true)

/-- A request is placed in E(gateway) (R221), or has its outcome at once where the chip cannot be reached (R358). -/
def State.launch (s : State) (r : Remote) : State :=
  if s.canServe r then s.placeRemote r else s.remoteUnknown r

/-- The request has reply words or is a copy: those of one firing are placed in program order (R369). -/
def Item.isRequest (i : Item) : Bool :=
  match i.act with
  | .rld _ _ _ _ | .rst _ _ _ _ _ | .ramo _ _ _ _ _ _ _ | .rcopy _ _ _ _ _ _ => true
  | _ => false
/-- Performing a remote request of the issue queue, under the conditions of a send to another chip (R221, R223), of an
atomic those of R186 too. -/
def State.performRemote (s : State) (it : Item) (reply ptr : Word) (kind : RKind) : State :=
  let home := match kind with | .amo _ t key _ _ => s.atHome it.fir it.id [(key, t.width)] | _ => true
  if !s.sendReady it.fir it.id .sys || s.barred it || (s.earlier it).any Item.isRequest || !home then s
  else (s.launch { s.mkRemote it kind with reply := some reply, ptr := ptr }).done it
/-- The reply word of a copy. DEDUCED (log 46): `rcopy` has a control word and no reply word; its reply brings the mailbox
that the control word names, with tag and op zero. -/
def copyReply (ctl : Word) : Word := BitVec.ofNat 64 (bits ctl.toNat 0 16)

/-! Performance at the home. -/

def State.setRemote (s : State) (r : Remote) : State := { s with remote := s.remote.map fun q => if q.id = r.id then r else q }

/-- The word at offset d of a copy to another chip begins a segment. -/
def Remote.begins (r : Remote) (dkey d : Nat) : Bool := r.seg == 0 || segmentEnds dkey r.segAt d
/-- A new segment begins, with the next of the numbers that the copy took: the copy. -/
def State.copySegment (s : State) (r : Remote) (dkey d : Nat) : State × Remote :=
  if r.begins dkey d then
    let q : Remote := { r with id := s.fresh, seqNo := r.seqNo + r.segs, kind := .segment r.id, reply := none, seg := 0
                               segAt := 0, segs := 0 }
    ({ s.bump with remote := s.remote ++ [q] }, { r with seg := q.id, segAt := d, segs := r.segs + 1 })
  else (s, r)

/-- One word of a copy (R223): read along the issuing core's read path, written in increasing address order. -/
def State.copyWord (s : State) (r : Remote) (skey dkey d len : Nat) (k : OKind) : State :=
  let rd := s.engineRead r.ep (skey + d) k 8
  let s := if rd.2 then s.ras r.ep else s
  let far := remoteHome r.ep (homeOf dkey)
  let g := if far then s.copySegment r dkey d else (s, r)
  let s := g.1
  let r := g.2
  let last := decide (len ≤ d + 8)
  let e : Entry :=
    { id := s.fresh, place := if far then s.gateOut r.ep (homeOf dkey) else .core r.ep, key := dkey + d, bytes := rd.1
      party := 0, eng := r.fir, engBit := 3, cap := r.cap, core := r.ep, kind := .release, fenced := true
      req := some (if far then r.seg else r.id), poison := rd.2 }
  let s := { s with
    entries := s.entries ++ [e], fresh := s.fresh + 1
    remote := s.remote.map fun (q : Remote) => if q.id = r.seg ∧ (last ∨ segmentEnds dkey r.segAt (d + 8)) then q.replied else q }
  s.setRemote { r with kind := .copy skey dkey (d + 8) len k, performed := last
                       status := if rd.2 then 0x0C else r.status, value := BitVec.ofNat 64 (d + 8) }

/-- The leading part of a copy known to be performed (R226): the bytes before the first word that does not lie in Q(pod). -/
def State.copiedPart (s : State) (r : Remote) : Remote :=
  match r.kind with
  | .copy skey dkey d len k =>
    let open_ := s.entries.filter fun e => e.place != .pod
      && (e.req == some r.id || s.remote.any fun q => q.isPart r.id && e.req == some q.id)
    { r with kind := .copy skey dkey (open_.foldl (fun n e => min n (e.key - dkey)) d) len k }
  | _ => r

/-- A node of a card joins a ready pool (R262). -/
def Chip.addNode (h : Chip) (die : Nat) (n : Node) : Chip := { h with pools := h.pools.put die (h.pools.get [] die ++ [n]) }
def Chip.poolRoom (h : Chip) (die : Nat) : Bool := decide ((h.pools.get [] die).length < Config.poolDepth)

/-- The capsule that accepts a request of capsule `cap` on a core it is granted (R224): the same one, or a running one
with the same owner key ID and code identity. -/
def State.accepts (s : State) (cap other : Nat) : Bool :=
  match s.caps.find other with
  | some c => cap == other
      || (c.state == .running && c.ownerKey == (s.cap cap).ownerKey && c.codeId == (s.cap cap).codeId)
  | none => false

/-- The logical core that a card's target names in a capsule: numbers are folded (R22, R262). -/
def Capsule.foldCore (c : Capsule) (n : Nat) : Option Nat :=
  if c.cores.isEmpty then none else c.cores[n % c.cores.length]?

/-- The message actor of a capsule on a core (R245). -/
def Capsule.messageActor (c : Capsule) (ep : Nat) : Option Nat := listIdx (fun (a : Actor) => a.ep == ep && a.isMessage) c.actors 0

/-- A card from another chip (R262, R285): accepted under R224's conditions by a capsule of the home chip, with its message
actor on the core the card names, in the pool of that core's die; a full pool keeps it in the gateway. DEDUCED (log 14): a
card with flag [3] names logical core 0, and its tile pointers through slot 1 mean the view of the firing slot that spawned
it (R309). -/
def State.acceptCard (s : State) (r : Remote) (card : List Byte) : State :=
  let target := fun (c : Capsule) => (c.foldCore (if cardAny card then 0 else cardCore card)).filter fun q => (c.messageActor q).isSome
  match (s.caps.filter fun e => e.2.chip == r.home && s.accepts r.cap e.1).findSome? fun e => (target e.2).map fun q => (e.1, q) with
  | none => (s.setRemote r.replied).faultOutside r.cap r.ep 0x0E r.ptr 0 3
  | some (id, q) =>
    let die := dieOf q % 4
    if (s.chip r.home).poolRoom die then
      (s.modChip r.home fun h => h.addNode die { cap := id, slot := r.slot, card := card, ptr := r.ptr, src := r.ep }).setRemote r.replied
    else s

/-- A store through a strong extent as its home performs it (R179): one element in a step, in Q(pod); the last one completes
the request, a doorbell following it. -/
def State.performFarStore (s : State) (r : Remote) (it : Item) (pick : Nat) : State :=
  match it.act with
  | .store es v =>
    let t := s.placeElem it es v true pick
    if t.iq.any fun i => i.id == it.id then t else t.setRemote r.replied
  | .qpub phys trailer e => ((s.placeElem it [e] (trailer.setWidth 2048) true 0).ringBell it phys).setRemote r.replied
  | _ => s

/-- The code image that a firing's fetches through a far code extent return (R200, R368): the firing runs it, from its entry
where it has one. -/
def State.performFetch (s : State) (r : Remote) (entry : Option Nat) : State :=
  let code := s.codeImage r.cap r.chip
  let s := if (s.slot r.ep r.slot).firing.any (fun f => f.id == r.fir) then
      (s.modSlot r.ep r.slot fun x => x.modFiring fun f =>
        { f with code := code, pc := match entry with | some e => codeEntry code e | none => f.pc }).wake r.ep r.slot r.id
    else s
  s.setRemote r.replied

/-- The request bears an epoch that its chip and its home have left (R371). -/
def State.outdated (s : State) (r : Remote) : Bool := decide (r.epoch < (s.chip r.chip).fabric.epochs.get 0 r.home)

/-- Event REMOTE_REQUEST_PERFORM (R221, R369 to R371): a copy of a request arrives. One of an older epoch is discarded, one
of a request already performed has its stored reply sent once more, and the first takes a step of the request, in sequence
order. -/
def execRemoteRequestPerform (idx : Nat) (s : State) : Host.Outcome State Fault Refusal :=
  let n := s.remote.length
  match s.remote[idx % n]? with
  | none => .next s
  | some r =>
    let numbered := match r.kind with | .copy _ _ _ _ _ => true | _ => r.seqNo != 0
    if s.outdated r then .next { s with remote := s.remote.filter fun q => q.id != r.id }
    else if r.performed || (r.kind == .store && s.remoteDone r) then
      .next (if r.copies = 0 then s else s.setRemote { r with copies := r.copies - 1, replies := r.replies + 1 })
    else if !numbered || !s.inSequence r || !s.inWindow r || !s.canServe r then .next s
    else
      match r.kind with
      | .load key t =>
        match r.item with
        | some id =>
          match s.iq.find? fun i => i.id == id with
          | some it =>
            match it.act with
            | .load es t vec p =>
              let it' := s.readElem it es t vec p (idx / n)
              let ended := match it'.act with | .load [] _ _ _ => true | _ => false
              .next ((s.setItem it').setRemote (if ended then r.replied else r))
            | _ => .next s
          | none => .next (s.setRemote r.replied)
        | none =>
          let b := s.readPath [.pod] key (idx / n) t.width
          .next (s.setRemote { r.replied with status := if b.2 then 0x0C else 0, value := iwide t (ofBytes b.1) })
      | .put key w v =>
        let e : Entry :=
          { id := s.fresh, place := .pod, key := key, bytes := toBytes w v.toNat, party := 0, eng := r.fir, engBit := 3
            cap := r.cap, core := r.ep, kind := .release, fenced := true }
        .next ({ s with entries := s.entries ++ [e], fresh := s.fresh + 1 }.setRemote r.replied)
      | .amo op t key b cmp =>
        if !s.atHome r.fir r.id [(key, t.width)] then .next s
        else
        let a := s.atM op t key b cmp
        .next (a.1.setRemote { r.replied with status := if a.2.2 then 0x0C else 0, value := iwide t a.2.1 })
      | .copy skey dkey d len k =>
        if remoteHome r.ep (homeOf dkey) && r.begins dkey d && !s.fits r (r.seqNo + r.segs) then .next s
        else .next (s.copyWord r skey dkey d len k)
      | .store => .next (match s.iq.find? fun i => r.item == some i.id with
          | some it => s.performFarStore r it (idx / n)
          | none => s)
      | .fetch entry => .next (s.performFetch r entry)
      | .spawn card _ => .next (s.acceptCard r card)
      | _ => .next s

/-- Event REMOTE_RESEND (R370): the issuing gateway sends a request once more. -/
def execRemoteResend (idx : Nat) (s : State) : Host.Outcome State Fault Refusal :=
  match s.remote[idx]? with
  | some r => .next (if r.seqNo = 0 then s else s.setRemote { r with copies := r.copies + 1 })
  | none => .next s

/-- Every operation entry that stands in a reduction gateway of a chip takes effect, in the order of the queues (R372); the
fuel is the number of entries. -/
def State.settleReductions (chip : Nat) : Nat → State → State
  | 0, s => s
  | n + 1, s =>
    match listIdx (fun (e : Entry) => e.op.isSome && e.place == reductionGate e.key && homeOf e.key == chip) s.entries 0 with
    | none => s
    | some i => match s.entries[i]? with
      | none => s
      | some e => State.settleReductions chip n ({ s with entries := listDel s.entries i }.entryToM e)

/-- Every unacknowledged request of a chip that needs the peer has its outcome (R226). Entries on their way there leave
without reaching M (R199); those in a reduction gateway of the peer, where they wait for 256 cycles at most, have taken
effect by then (R371, R372). -/
def State.sever (s : State) (chip peer : Nat) : State :=
  let s := State.settleReductions peer s.entries.length s
  let mine := fun (r : Remote) => r.chip == chip && r.needs peer
  let lost := (s.remote.filter mine).map s.copiedPart
  let s := { s with
    remote := s.remote.filter fun r => !mine r
    entries := s.entries.filter fun e => !(homeOf e.key == peer && chipOf e.core == chip &&
      match e.place with
      | .gw c _ => c == chip
      | .sb _ => true
      | _ => false) }
  lost.foldl State.remoteUnknown s

/-- Event PEER_UNREACHABLE (R371). -/
def execPeerUnreachable (chip peer : Nat) (s : State) : Host.Outcome State Fault Refusal :=
  if !s.isMember chip peer || chip = peer || (s.chip chip).fabric.unreachable.contains peer then .next s
  else
    .next ((s.modChip chip fun h => { h with fabric := { h.fabric with unreachable := h.fabric.unreachable ++ [peer] } }).sever
      chip peer)

/-- A chip's side of a new epoch with a peer: reachable, and every window toward it starts empty. -/
def Fabric.newEpoch (f : Fabric) (peer n : Nat) : Fabric :=
  { f with unreachable := f.unreachable.filter (· != peer), epochs := f.epochs.put peer n
           seqs := f.seqs.filter fun e => e.1 % 1024 / 16 != peer }

/-- Event EPOCH_OPEN (R371): the peer is reachable again, and both chips open a new epoch. DEDUCED (log 46): a request of
an older epoch, which is discarded, has the outcome of R226 then. -/
def execEpochOpen (chip peer : Nat) (s : State) : Host.Outcome State Fault Refusal :=
  if (s.chip chip).fabric.unreachable.contains peer then
    let n := max ((s.chip chip).fabric.epochs.get 0 peer) ((s.chip peer).fabric.epochs.get 0 chip) + 1
    let s := (s.sever chip peer).sever peer chip
    let s := s.modChip chip fun h => { h with fabric := h.fabric.newEpoch peer n }
    .next (if (s.chips.find peer).isSome then s.modChip peer fun h => { h with fabric := h.fabric.newEpoch chip n } else s)
  else .next s

/-! Active messages. -/

/-- The active mailbox of an actor. -/
def Actor.activeBox (a : Actor) : Option Nat := (a.boxes.find? fun e => e.2.ty == 2).map Prod.fst
/-- A free inline-code buffer of a core. -/
def Core.freeBuf (c : Core) : Option Nat := (List.range 8).find? fun i => (c.inlineBufs.find i).isNone

/-- The target's decision on an active message (R224, R225). -/
inductive Accept where
  | refuse (code : Nat)
  | wait
  | take (cap addr : Nat) (buf : Option Nat)
  deriving DecidableEq, Repr

/-- Active messages on their way to a core, and those of them with inline code. -/
def State.activeAhead (s : State) (target : Nat) : Nat × Nat :=
  let on := s.remote.filterMap fun q => match q.kind with
    | .amsg t _ code _ _ _ _ _ => if t == target && !q.performed then some code else none
    | _ => none
  (on.length, (on.filter fun code => !code.isEmpty).length)

/-- `ahead` counts messages, and those with inline code, that come before it. -/
def State.acceptActive (s : State) (cap target handler : Nat) (code : List (BitVec 96)) (ahead : Nat × Nat := (0, 0)) : Accept :=
  let c := s.core target
  match c.cap with
  | none => .refuse 0x0E
  | some tc =>
    match (if s.accepts cap tc then (s.cap tc).messageActor target else none) with
    | none => .refuse 0x0E
    | some i =>
      let image := s.codeImage tc (chipOf target)
      if code.isEmpty && decide (codeImageLen image ≤ handler) then .refuse 0x06
      else if code.isEmpty && !codeMarked image (handler / 12) then .refuse 0x0A
      else match (s.cap tc).actors[i]? with
        | none => .wait
        | some a =>
          let addr := 16 * i + a.activeBox.getD 0
          if !s.boxRoom tc addr ahead.1 then .wait
          else if code.isEmpty then .take tc addr none
          else match c.freeBuf with
            | some b => if c.inlineBufs.length + ahead.2 < 8 then .take tc addr (some b) else .wait
            | none => .wait

/-- The active mailbox of a core whose capsule's park waits for its streams and engines alone: a message that finds it full
waits in the gateway and is saved (R392, log 38). -/
def State.parkedBox (s : State) (target : Nat) : Option (Nat × Nat) :=
  match (s.core target).cap with
  | some tc =>
    if s.ranOut tc then ((s.cap tc).messageActor target).bind fun i => ((s.cap tc).actors[i]?).map fun a => (tc, 16 * i + a.activeBox.getD 0)
    else none
  | none => none

/-- Event AMSG_ACCEPT (R224): the target accepts or discards an active message; those of one sender for one core are
taken in send order. -/
def execAmsgAccept (idx : Nat) (s : State) : Host.Outcome State Fault Refusal :=
  match s.remote[idx]? with
  | none => .next s
  | some r =>
    match r.kind with
    | .amsg target handler code w0 w1 w2 w3 stamp =>
      let before := (s.remote.take idx).any fun q => q.ep == r.ep && !q.performed &&
        match q.kind with
        | .amsg t _ _ _ _ _ _ _ => t == target
        | _ => false
      if r.performed || before || !s.inSequence r || !s.inWindow r then .next s
      else
        let fin := fun (s : State) => s.setRemote r.replied
        match s.acceptActive r.cap target handler code with
        | .wait => .next (match s.parkedBox target with
            | some (tc, addr) =>
              { fin s with held := s.held ++ [{ src := .gateway (chipOf target), cap := tc, addr := addr
                                                msg := { w0 := w0, w1 := w1, w2 := w2, w3 := w3, stamp := stamp, handler := handler } }] }
            | none => s)
        | .refuse st => .next ((fin s).faultOutside r.cap r.ep st (BitVec.ofNat 64 handler) 0 3 (if st = 0x0E then r.ep else target))
        | .take cap addr buf =>
          let s := match buf with
            | some b => s.modCore target fun c => { c with inlineBufs := c.inlineBufs.put b code }
            | none => s
          let m : Msg := { w0 := w0, w1 := w1, w2 := w2, w3 := w3, stamp := stamp, handler := handler, inline := buf }
          .next ((fin s).place cap addr m)
    | _ => .next s

/-! Fabric barriers (R374 to R377). -/

def State.barrier (s : State) (chip b : Nat) : Barrier := (s.chip chip).barriers.get {} b
def State.setBarrier (s : State) (chip b : Nat) (x : Barrier) : State :=
  s.modChip chip fun h => { h with barriers := h.barriers.put b x }

/-- A release or refusal message (Table 19.4), posted by the gateway of the participant's chip. -/
def State.barrierMessage (s : State) (p : Participant) (b episode n status ep : Nat) : State :=
  if p.mailbox = 0xFFFF then s
  else s.postTyped (.gateway p.chip) p.cap p.mailbox [0]
    (mkMsg (BitVec.ofNat 64 (status + b * 256 + episode % 2 ^ 32 * 65536)) p.tag (BitVec.ofNat 64 n) 0 p.stamp) ep 5

/-- One arrival at its counter (R376). -/
def State.arrive (s : State) (r : Remote) (w0 w1 w2 w3 : Word) (stamp : Nat) : State :=
  let b := bits w0.toNat 0 8
  let count := bits w1.toNat 0 16
  let fam := ((s.cap r.cap).ownerKey, (s.cap r.cap).codeId)
  let p : Participant := { cap := r.cap, chip := r.chip, mailbox := bits w2.toNat 0 16, tag := w3, stamp := stamp }
  let k := s.barrier r.home b
  -- DEDUCED (log 46): a refusal names the counter's episode to the family that advanced it, and 0 to any other (R374)
  let episode := if k.family.getD fam == fam && k.lastFamily == some fam then k.episode else 0
  let refuse := fun (st n : Nat) =>
    if p.mailbox = 0xFFFF then s.faultOutside r.cap r.ep st w0 (BitVec.ofNat 64 st) 5
    else s.barrierMessage p b episode n st r.ep
  if bits w0.toNat 8 56 ≠ 0 ∨ bits w1.toNat 16 48 ≠ 0 ∨ bits w2.toNat 16 48 ≠ 0 then refuse 0x03 count
  else if k.family.any (· != fam) then refuse 0x0E k.n
  else
    let k' := if k.family.isSome then k
      else { k with family := some fam, n := count, arrived := [], episode := if k.lastFamily == some fam then k.episode else 0
                    lastFamily := some fam }
    if count ≠ k'.n then refuse 0x02 k'.n
    else
      let all := k'.arrived ++ [p]
      if all.length = k'.n then
        let s := s.setBarrier r.home b { k' with family := none, arrived := [], episode := (k'.episode + 1) % 2 ^ 32 }
        (all.filter fun q => q.chip == r.home || s.reachable r.home q.chip).foldl
          (fun s q => s.barrierMessage q b k'.episode k'.n 0 r.ep) s
      else s.setBarrier r.home b { k' with arrived := all }

/-- Event FABRIC_BARRIER_ARRIVAL (R369, R376): an arrival in flight reaches its counter, in sequence order. -/
def execFabricBarrierArrival (idx : Nat) (s : State) : Host.Outcome State Fault Refusal :=
  match s.remote[idx]? with
  | none => .next s
  | some r =>
    match r.kind with
    | .barrier w0 w1 w2 w3 stamp =>
      if r.performed || !s.inSequence r || !s.inWindow r then .next s
      else .next ((s.setRemote r.replied).arrive r w0 w1 w2 w3 stamp)
    | _ => .next s

/-- The capsule has completed: it neither runs nor waits in a continuation. -/
def State.hasCompleted (s : State) (cap : Nat) : Bool :=
  (s.caps.find cap).isNone && s.chips.all fun h => h.2.conts.all fun c => c.cap != cap
/-- A counter all of whose counted participants' capsules have completed is freed, its episode as it was (R377). -/
def State.freeBarriers (s : State) : State :=
  { s with chips := s.chips.map fun e => (e.1, { e.2 with barriers := e.2.barriers.map fun b =>
      (b.1, if b.2.family.isSome && !b.2.arrived.isEmpty && b.2.arrived.all (fun p => s.hasCompleted p.cap) then
        { b.2 with family := none, arrived := [] } else b.2) }) }

end Sys2Proof.Machine
end

