-- ==== Sys2Proof/Machine/Control.lean ====
section
/-!
DEFINITION. Messages, work queues, tasks and nodes (14 R274 to R285), and the events that deliver them.
-/
namespace Sys2Proof.Machine

/-! Messages. -/

/-- Further registers of a destination block (R269). -/
def blockWrites (m : Nat) (o : Operand) : List Nat :=
  match o with
  | .s n _ => (List.range m).map fun i => n.val + 1 + i
  | _ => []
def State.setBlock (s : State) (n : Nat) : List Word → State
  | [] => s
  | v :: vs => (s.setS n v).setBlock (n + 1) vs

/-- `send` (R275). -/
def execSend (o : Ops) (s : State) : Host.Outcome State Fault Refusal :=
  issue { op := 0x300, reads := fun o => blockReads 1 o.a } o (fun s v _ =>
    let a := v.d.word.toNat
    if s.cur.stream.length ≥ 8 then .wait
    else match fourRegs o.a with
    | none => .fault (fIllegal 1)
    | some n =>
      if a / 2 ^ 16 ≠ 0 then .fault fReservedValue
      else if s.curCap.boxTy a ≠ some 0 then .fault (fCapability v.d.word)
      else match s.overProduced with
      | some p => .fault ⟨0x0F, v.d.word, BitVec.ofNat 64 p⟩
      | none =>
        let f := s.curF
        let w := v.four n
        let e : SendEnt :=
          { fir := f.id, cap := f.cap, after := s.fresh, addr := some a, endpoint := 0, handler := 0, code := []
            w0 := w.1, w1 := w.2.1, w2 := w.2.2.1, w3 := w.2.2.2, stamp := s.cur.dline.toNat, word := f.pc, raw := 0
            opcode := 0x300 }
        .ok ({ s.modCur fun x => { x with stream := x.stream ++ [e] } with fresh := s.fresh + 1 }.produce)) s

/-- What an entry of a stream names: entries with the same target leave in stream order (R276). -/
def SendEnt.target (e : SendEnt) : Nat × Option Nat × Nat := (e.cap, e.addr, e.endpoint)

/-- The request that carries an active message; a barrier arrival goes to its counter's gateway (Table 19.2). -/
def State.activeRemote (s : State) (ep k : Nat) (e : SendEnt) : Remote :=
  let home := chipOf e.endpoint
  let kind := if e.handler = 6 ∧ e.code = [] then RKind.barrier e.w0 e.w1 e.w2 e.w3 e.stamp
    else RKind.amsg e.endpoint e.handler e.code e.w0 e.w1 e.w2 e.w3 e.stamp
  { id := e.after, chip := chipOf ep, ep := ep, home := home, seqNo := 0
    gw := if e.handler = 6 ∧ e.code = [] then e.w0.toNat % 16 else s.homeGateway home (chipOf ep)
    epoch := (s.chip (chipOf ep)).fabric.epochs.get 0 home, fir := e.fir, cap := e.cap, slot := k, word := e.word
    raw := e.raw, opcode := e.opcode, kind := kind, ptr := BitVec.ofNat 64 e.endpoint, stamp := e.stamp }

/-- Event SEND_STREAM_DELIVER (R194, R276): entry idx of a slot's stream leaves for its mailbox, its target core or its
barrier counter. -/
def execSendStreamDeliver (ep slot idx : Nat) (s : State) : Host.Outcome State Fault Refusal :=
  let x := s.slot ep slot
  match x.stream[idx]? with
  | none => .next s
  | some e =>
    let before := x.stream.take idx
    let gone := s.modSlot ep slot fun x => { x with stream := listDel x.stream idx }
    if before.any fun p => p.target == e.target then .next s
    else match e.addr with
    | some a =>
      match (s.cap e.cap).actors[a / 16]? with
      | none => .next gone
      | some t =>
        let m := mkMsg e.w0 e.w1 e.w2 e.w3 e.stamp
        if !s.sendReady e.fir e.after (sharedScope ep t.ep) then .next s
        else if s.boxRoom e.cap a || s.emptiesInto ep e.cap a then .next (gone.place e.cap a m)
        else if s.passesOn ep e.cap a then
          .next { gone with held := s.held ++ [{ src := .gateway (chipOf ep), cap := e.cap, addr := a, msg := m }] }
        else .next s
    | none =>
      let barrier := e.handler == 6 && e.code == []
      let ready := if barrier then s.releaseReady e.fir e.after .sys && before.all fun p => p.fir != e.fir
        else s.sendReady e.fir e.after (sharedScope ep e.endpoint)
          && (match s.acceptActive e.cap e.endpoint e.handler e.code (s.activeAhead e.endpoint) with
              | .wait => (s.core ep).vacating || s.ranOut e.cap
              | _ => true)
      if !ready then .next s
      else
        let gone := if barrier then gone.released ep .sys else gone
        .next (gone.launch (s.activeRemote ep slot e))

/-- Event HELD_MESSAGE_PLACE (R277): a message held at its source is placed once its mailbox has room, after its source's
earlier ones for that mailbox. -/
def execHeldMessagePlace (idx : Nat) (s : State) : Host.Outcome State Fault Refusal :=
  match s.held[idx]? with
  | none => .next s
  | some h =>
    let before := (s.held.take idx).any fun g => g.src == h.src && g.cap == h.cap && g.addr == h.addr
    let gone := { s with held := listDel s.held idx }
    if (s.caps.find h.cap).isNone then .next gone
    else if s.mayPlace h.src h.cap h.addr && !before then .next (gone.place h.cap h.addr h.msg)
    else if s.heldAt h.src h.cap h.addr = h.src then .next s
    else .next { s with held := listSet s.held idx { h with src := s.heldAt h.src h.cap h.addr } }

/-- The firing is an actor firing, a message firing among them (R249). -/
def Firing.isActor (f : Firing) : Bool := f.kind == .actor || f.kind == .message

/-- The mailbox an actor firing names (R278). -/
def State.ownBox (s : State) (m : Int) : Option Mailbox :=
  let f := s.curF
  if f.isActor ∧ 0 ≤ m ∧ m < 16 then
    match s.curCap.actors[f.actor]? with
    | some a => a.boxes.find m.toNat
    | none => none
  else none

/-- The message a `recv` takes: the oldest reserved, else the oldest (R278); its place in the mailbox. -/
def Mailbox.nextMsg (b : Mailbox) : Option (Nat × Msg) :=
  match listIdx Msg.reserved b.msgs 0 with
  | some i => (b.msgs[i]?).map fun m => (i, m)
  | none => (b.msgs.head?).map fun m => (0, m)

/-- Taking it: an acquire (R194). -/
def State.takeMsg (s : State) (box : Nat) (b : Mailbox) (i : Nat) (m : Msg) (d : Nat) : State :=
  let f := s.curF
  let s := s.modActor f.cap f.actor fun a => { a with boxes := a.boxes.put box { b with msgs := listDel b.msgs i } }
  let s := s.modF fun f => { f with taken := f.taken ++ [(box, m)] }
  s.setBlock d [m.w0, m.w1, m.w2, m.w3]

/-- `recv` and `recv.w` (R278). -/
def recvOp (opcode : Nat) (orEnd : Bool) (o : Ops) (s : State) : Host.Outcome State Fault Refusal :=
  issue { op := opcode, writes := fun o => blockWrites 3 o.d } o (fun s v _ =>
    match fourRegs o.d with
    | none => .fault (fIllegal 0)
    | some n =>
      let m := sval v.a.word
      match s.ownBox m with
      | none => .fault (fIllegal 1)
      | some b =>
        if b.ty = 2 then .fault (fIllegal 1)
        else match b.nextMsg with
          | some (i, msg) => .ok (s.takeMsg m.toNat b i msg n)
          | none => if orEnd then s.finish none else .wait) s

/-- `recv`. -/
def execRecv (o : Ops) (s : State) : Host.Outcome State Fault Refusal := recvOp 0x301 false o s
/-- `recv.w`. -/
def execRecvW (o : Ops) (s : State) : Host.Outcome State Fault Refusal := recvOp 0x302 true o s

/-! Work queues (R263, R279 to R282). -/

def noQueue : WorkQueue := { cap := 0, die := 0, q := 0 }
def Chip.wq (h : Chip) (k : Nat) : WorkQueue := h.workQueues.get noQueue k
def Chip.setWq (h : Chip) (k : Nat) (w : WorkQueue) : Chip := { h with workQueues := h.workQueues.put k w }

/-- The hardware queues of a chip have the numbers below this; what stands above waits for one (log 50). -/
def queueNumbers : Nat := 4 * Config.hardQueues
/-- A free hardware queue of a die. -/
def Chip.freeHardQueue (h : Chip) (die : Nat) : Option Nat :=
  ((List.range Config.hardQueues).find? fun i => (h.workQueues.find (die * 256 + i)).isNone).map fun i => die * 256 + i
/-- The hardware queue bound to a capsule's work queue on a die, bound now if it is not (R263). -/
def Chip.bind (h : Chip) (cap die q : Nat) : Option (Chip × Nat) :=
  match h.boundQueue die q cap with
  | some k => if k < queueNumbers then some (h, k)
      else (h.freeHardQueue die).map fun i => ({ h with workQueues := (h.workQueues.del k).put i (h.wq k) }, i)
  | none => (h.freeHardQueue die).map fun i => (h.setWq i { cap := cap, die := die, q := q }, i)
/-- The same for a queue that a move or a restore brings: where no hardware queue is free it stands without one (log 50). -/
def Chip.adopt (h : Chip) (cap die q : Nat) : Chip × Nat :=
  match h.bind cap die q, h.boundQueue die q cap with
  | some r, _ => r
  | none, some k => (h, k)
  | none, none =>
    let k := queueNumbers + ((List.range (h.workQueues.length + 1)).find? fun i => (h.workQueues.find (queueNumbers + i)).isNone).getD 0
    (h.setWq k { cap := cap, die := die, q := q }, k)

/-- Entries, closure and waiters of another queue come behind its own; at most 256 entries stand in the queue (R263). -/
def WorkQueue.join (w : WorkQueue) (es : List HeldEntry) (closed : Bool) (ws : List Nat) : WorkQueue :=
  let all := w.entries ++ w.late ++ es.map fun (e : HeldEntry) => { e with die := w.die }
  { w with entries := all.take Config.workQueueDepth, late := all.drop Config.workQueueDepth, closed := w.closed || closed
           waiters := w.waiters ++ ws }
/-- An entry has been taken: the next one takes its place. -/
def WorkQueue.refilled (w : WorkQueue) : WorkQueue :=
  { w with entries := w.entries ++ w.late.take 1, late := w.late.drop 1 }

/-- The queue operand (R279), bound. -/
def State.queueOf (s : State) (field : Nat) (v : Word) (k : State → Nat → Nat → Eff) : Eff :=
  let q := sval v
  if q < 0 ∨ q > 15 then .fault (fIllegal field)
  else
    let chip := chipOf s.curCore
    match (s.chip chip).bind s.curF.cap (dieOf s.curCore % 4) q.toNat with
    | none => .wait
    | some (h, key) => k { s with chips := s.chips.put chip h } q.toNat key

/-- The entry held for the firing's actor, of this queue (R263). -/
def State.heldEntry (s : State) (q : Nat) : Option HeldEntry :=
  let f := s.curF
  if f.isActor then
    match s.curCap.actors[f.actor]? with
    | some a => a.heldOf (dieOf s.curCore % 4) q
    | none => none
  else none
/-- The actor without the oldest such entry. -/
def Actor.dropHeld (a : Actor) (e : HeldEntry) : Actor := { a with held := a.held.erase e }

/-- `pop` and `pop.w` (R280). -/
def popOp (opcode : Nat) (orEnd : Bool) (o : Ops) (s : State) : Host.Outcome State Fault Refusal :=
  issue { op := opcode, writes := fun o => blockWrites 4 o.d } o (fun s v _ =>
    match o.d with
    | .s n _ =>
      if n.val > 59 then .fault (fIllegal 0)
      else s.queueOf 1 v.a.word fun s q key =>
        let chip := chipOf s.curCore
        let w := (s.chip chip).wq key
        let got := fun (s : State) (e : HeldEntry) => Eff.ok (s.setBlock n.val [0, e.w0, e.w1, e.w2, e.w3])
        match s.heldEntry q with
        | some e => got (s.modActor s.curF.cap s.curF.actor fun a => a.dropHeld e) e
        | none =>
          match w.entries with
          | e :: es => got (s.modChip chip fun h => h.setWq key ({ w with entries := es } : WorkQueue).refilled) e
          | [] =>
            if w.closed then .ok (s.setS n.val 2)
            else if orEnd && s.curF.kind == .actor then
              (s.modChip chip fun h => h.setWq key { w with waiters := w.waiters ++ [s.curF.actor] }).finish
                (some (dieOf s.curCore % 4, q))
            else .ok (s.setS n.val 1)
    | _ => .fault (fIllegal 0)) s

/-- `pop`. -/
def execPop (o : Ops) (s : State) : Host.Outcome State Fault Refusal := popOp 0x303 false o s
/-- `pop.w`. -/
def execPopW (o : Ops) (s : State) : Host.Outcome State Fault Refusal := popOp 0x304 true o s

/-- A waiter becomes ready; one whose firing is still ending does so as it has ended (R263). -/
def State.wakeWaiter (s : State) (cap actor : Nat) : State :=
  match (s.cap cap).actors[actor]? with
  | some a => match a.state with
    | .waiting _ _ => s.makeReady cap actor
    | _ => s
  | none => s

/-- An entry goes to the oldest waiter, or to the end of the queue (R263). -/
def State.pushEntry (s : State) (chip key : Nat) (e : HeldEntry) : State :=
  let w := (s.chip chip).wq key
  match w.waiters with
  | a :: as =>
    let s := s.modChip chip fun h => h.setWq key { w with waiters := as }
    (s.modActor w.cap a fun x => { x with held := x.held ++ [e] }).wakeWaiter w.cap a
  | [] => s.modChip chip fun h => h.setWq key { w with entries := w.entries ++ [e] }

/-- A queue that a move or a restore has brought together serves its waiters: each takes the oldest entry, or learns that the
queue is closed (R263). The fuel is the number of waiters. -/
def State.serveWaiters : Nat → State → Nat → Nat → State
  | 0, s, _, _ => s
  | n + 1, s, chip, key =>
    let w := (s.chip chip).wq key
    match w.waiters, w.entries with
    | a :: as, e :: es =>
      let s := s.modChip chip fun h => h.setWq key ({ w with entries := es, waiters := as } : WorkQueue).refilled
      ((s.modActor w.cap a fun x => { x with held := x.held ++ [e] }).wakeWaiter w.cap a).serveWaiters n chip key
    | a :: as, [] =>
      if w.closed then ((s.modChip chip fun h => h.setWq key { w with waiters := as }).wakeWaiter w.cap a).serveWaiters n chip key
      else s
    | [], _ => s
/-- Every queue of a capsule does. -/
def State.serveQueues (s : State) (cap : Nat) : State :=
  let chip := (s.cap cap).chip
  ((s.chip chip).workQueues.filter fun e => e.2.cap == cap).foldl (fun s e => s.serveWaiters e.2.waiters.length chip e.1) s

/-- `push` (R281). -/
def execPush (o : Ops) (s : State) : Host.Outcome State Fault Refusal :=
  issue { op := 0x305, reads := fun o => blockReads 1 o.a } o (fun s v _ =>
    match fourRegs o.a with
    | none => .fault (fIllegal 1)
    | some n => s.queueOf 2 v.b.word fun s _ key =>
      let w := (s.chip (chipOf s.curCore)).wq key
      if w.closed then .ok (s.putS o.d 2)
      else if w.entries.length ≥ Config.workQueueDepth then .wait
      else
        let r := v.four n
        let it := s.newItem 0x305 (.push key r.1 r.2.1 r.2.2.1 r.2.2.2)
        .ok (s.addItem { it with rel := some .die, dst := dstOf o.d } o.d .raw)) s

/-- Performing a push: a release at `.die`; one that waits when the queue closes completes with status 2. -/
def State.performPush (s : State) (it : Item) (key : Nat) (w0 w1 w2 w3 : Word) : State :=
  let chip := chipOf it.ep
  let w := (s.chip chip).wq key
  if w.closed then s.doneS it 2 false
  else if s.barred it || !s.relReady it .die || w.entries.length ≥ Config.workQueueDepth then s
  else
    let s := (s.pushEntry chip key { die := w.die, q := w.q, w0 := w0, w1 := w1, w2 := w2, w3 := w3 }).doneS it 0 false
    s.released it.ep .die

/-- `qclose` (R282). -/
def execQclose (o : Ops) (s : State) : Host.Outcome State Fault Refusal :=
  issue { op := 0x306 } o (fun s v _ =>
    s.queueOf 0 v.d.word fun s _ key => .ok (s.addItem (s.newItem 0x306 (.qclose key)) .none .raw)) s

def Item.isPush (i : Item) : Bool :=
  match i.act with
  | .push _ _ _ _ _ => true
  | _ => false

/-- Performing it: after every earlier push; every waiter becomes ready. -/
def State.performQclose (s : State) (it : Item) (key : Nat) : State :=
  if s.barred it || (s.earlier it).any Item.isPush then s
  else
    let chip := chipOf it.ep
    let w := (s.chip chip).wq key
    let s := s.modChip chip fun h => h.setWq key { w with closed := true, waiters := [] }
    (w.waiters.foldl (fun s a => s.wakeWaiter w.cap a) s).done it

/-! Tasks (R260, R283, R284). -/

/-- The fields of a task record (Table 13.3); the stamp is the forking firing's `dline`. -/
def taskOf (r : List Byte) (stamp : Nat) : Task :=
  { entry := lget r 0 4, stamp := stamp, budget := lget r 8 4, join := BitVec.ofNat 64 (lget r 0x10 8)
    a0 := BitVec.ofNat 64 (lget r 0x20 8), a1 := BitVec.ofNat 64 (lget r 0x28 8), a2 := BitVec.ofNat 64 (lget r 0x30 8)
    a3 := BitVec.ofNat 64 (lget r 0x38 8) }

/-- The checks of a record (R283): the status, 0 where it passes; growth of the join counter's extent is served, and none
while it has to wait. -/
def State.checkTask (s : State) (it : Item) (r : List Byte) : Option (State × Nat) :=
  if lget r 0x0C 4 ≠ 0 ∨ lget r 0x18 8 ≠ 0 then some (s, 0x03)
  else if lget r 0 4 ≥ codeEntries (s.codeImage it.cap (chipOf it.ep)) then some (s, 0x02)
  else
    let j : Word := BitVec.ofNat 64 (lget r 0x10 8)
    if j = 0 then some (s, 0)
    else match s.engineAccess it.cap it.slot j 8 8 (permR ||| permW ||| permA) with
      | .ok s _ _ => some (s, 0)
      | .fail s i => some (s, i.code)
      | .wait => none

/-- `fork` (R283). -/
def execFork (o : Ops) (s : State) : Host.Outcome State Fault Refusal :=
  issue { op := 0x307 } o (fun s v _ =>
    s.access (ptrSlot v.a.word) (ptrOff v.a.word) 64 64 permR fun key e =>
      let it := (s.newItem 0x307 (.fork key s.cur.dline.toNat)).through (ptrSlot v.a.word) e v.a.word
      .ok (s.addItem { it with rel := some .die, dst := dstOf o.d } o.d .raw)) s

/-- Performing it: a release at `.die`, then the record is read. A record that meets an uncorrectable error is not
pushed and poisons the status (R72). -/
def State.performFork (s : State) (it : Item) (key stamp pick : Nat) : State :=
  if s.barred it || !s.relReady it .die then s
  else if remoteHome it.ep it.home && !s.reachable (chipOf it.ep) it.home then s.failItem it false
  else
    let t := s.released it.ep .die
    let r := t.readPath (readPlaces it.fir it.ep it.home it.kind) key pick 64
    if r.2 then (t.ras it.ep).doneS it 0 true
    else match t.checkTask it r.1 with
      | none => s
      | some c =>
        if c.2 ≠ 0 then c.1.doneS it (BitVec.ofNat 64 c.2) false
        else if (c.1.core it.ep).deque.length ≥ Config.dequeDepth then c.1.doneS it 1 false
        else (c.1.modCore it.ep fun k => { k with deque := k.deque ++ [taskOf r.1 stamp] }).doneS it 0 false

/-- `join` (R284). -/
def execJoin (o : Ops) (s : State) : Host.Outcome State Fault Refusal :=
  issue { op := 0x308 } o (fun s v _ =>
    let p := v.a.word
    s.access (ptrSlot p) (ptrOff p) 8 8 (permR ||| permW ||| permA) fun key e =>
      s.access (ptrSlot v.b.word) (ptrOff v.b.word) 64 64 permR fun ckey ce =>
        let it := (s.newItem 0x308 (.join key ckey ce.kind v.b.word s.cur.dline.toNat)).through (ptrSlot p) e p
        .ok (s.addItem { it with acq := true, rel := some .die, dst := dstOf o.d } o.d .raw)) s

/-- A job card for a task record that finds its deque full (R284): no tiles, the issuing core as target. -/
def cardOf (t : Task) (chip logical : Nat) : List Byte :=
  toBytes 4 t.entry ++ toBytes 4 t.stamp ++ toBytes 4 t.budget ++ toBytes 2 0 ++ toBytes 2 (chip * 1024 + logical)
    ++ toBytes 8 t.a0.toNat ++ toBytes 8 t.a1.toNat ++ toBytes 8 t.a2.toNat ++ toBytes 8 t.a3.toNat ++ toBytes 80 0

/-- What follows the atomic of a `join`, by what it read: at zero the continuation is read, checked and pushed, or handed to
the ready pool, for which the slot waits while the pool is full; none while growth for its record has to wait. DEDUCED
(log 14): an outside fault of a continuation names source 4. -/
def State.joinDone (s : State) (it : Item) (ckey : Nat) (ckind : OKind) (cptr : Word) (stamp pick old : Nat) (bad : Bool) :
    Option State :=
  let s := s.released it.ep .die
  let new := (old + 2 ^ 64 - 1) % 2 ^ 64
  if bad then some ((s.ras it.ep).doneS it 0 true)
  else if new ≠ 0 then some (s.doneS it (BitVec.ofNat 64 new) false)
  else if remoteHome it.ep (homeOf ckey) && !s.reachable (chipOf it.ep) (homeOf ckey) then
    some ((s.unknownOutcome it.cap it.ep it.slot it.fir { it.unknown with ptr := cptr }).doneS it 0 false)
  else
    let r := s.readPath (readPlaces it.fir it.ep (homeOf ckey) ckind) ckey pick 64
    (if r.2 then some (s.ras it.ep, 0x0C) else s.checkTask it r.1).map fun c =>
      let s := c.1
      if c.2 ≠ 0 then (s.faultOutside it.cap it.ep c.2 cptr (BitVec.ofNat 64 c.2) 4).doneS it 0 false
      else
        let t := taskOf r.1 stamp
        if (s.core it.ep).deque.length < Config.dequeDepth then
          (s.modCore it.ep fun k => { k with deque := k.deque ++ [t] }).doneS it 0 false
        else
          let s := s.arriveS it.ep it.slot it.dst it.id 0 false
          let s := s.setItem { it with act := .joinPool t, ptr := cptr, acq := false, dst := .none }
          s.modSlot it.ep it.slot fun x =>
            if x.firing.any (fun f => f.id == it.fir) && x.wait == .none then { x with wait := .item it.id } else x

/-- Performing `join`: its atomic at M, or as a request to the chip the counter is homed on (R206). -/
def State.performJoin (s : State) (it : Item) (key ckey : Nat) (ckind : OKind) (cptr : Word) (stamp pick : Nat) : State :=
  if !s.amoPlaceable it || !s.atHome it.fir it.id [(key, 8)] || s.remote.any (fun r => r.item == some it.id) then s
  else if remoteHome it.ep it.home then
    if !s.reachable (chipOf it.ep) it.home then s.failItem it false
    else s.placeRemote { s.mkRemote it (.amo .add .i64 key (BitVec.ofInt 64 (-1)) 0) with item := some it.id }
  else
    let a := s.amoAtM it .add .i64 key (BitVec.ofInt 64 (-1)) 0
    (a.1.joinDone it ckey ckind cptr stamp pick a.2.1 a.2.2).getD s

/-- Event REMOTE_REPLY_RECEIVE (R370): the issuing side receives and confirms the reply; the request is acknowledged and
leaves the window. An uncorrectable error of a request that has no reply of its own is reported (R205). -/
def execRemoteReplyReceive (idx : Nat) (s : State) : Host.Outcome State Fault Refusal :=
  match s.remote[idx]? with
  | none => .next s
  | some r =>
    if !s.remoteDone r then .next s
    else
      let s0 := s
      let s := { s with remote := listDel s.remote idx }
      match r.reply with
      | some w => .next (s.postReply r w r.status r.value)
      | none =>
        match s.iq.find? fun i => r.item == some i.id with
        | none => .next (if r.status = 0 then s else s.ras r.ep)
        | some it =>
          match it.act with
          | .load _ t vec p => .next (s.finishLoad it t vec p)
          | .amo _ t _ _ _ _ _ _ => .next (s.finishAmo it t r.value.toNat (r.status == 0x0C))
          | .join _ ckey ckind cptr stamp => .next ((s.joinDone it ckey ckind cptr stamp s.tick r.value.toNat (r.status == 0x0C)).getD s0)
          | _ => .next s

/-- The rest of such a join, once the pool of its die has room. -/
def State.performJoinPool (s : State) (it : Item) (t : Task) : State :=
  let chip := chipOf it.ep
  let die := dieOf it.ep % 4
  if (s.chip chip).poolRoom die then
    (s.modChip chip fun h => h.addNode die
      { cap := it.cap, slot := it.slot, card := cardOf t chip (s.core it.ep).logical, ptr := it.ptr, src := it.ep }).done it
  else s

/-- `spawn` (R285): the card is read at issue, once a load of it could be performed, and its deadline replaced. One for
another chip waits for room among the 16 remote requests (R227). A card that meets an uncorrectable error poisons sD (R72);
one in the memory of a chip that cannot be reached is not read (R226). -/
def execSpawn (o : Ops) (s : State) : Host.Outcome State Fault Refusal :=
  issue { op := 0x309 } o (fun s v _ =>
    let p := v.a.word
    s.access (ptrSlot p) (ptrOff p) 128 64 permR fun key e =>
      let stamp := s.cur.dline.toNat
      let load := (s.newItem 0x309 (.load [{ key := key, w := 128, idx := 0 }] .raw false false)).through (ptrSlot p) e p
      let r := s.readPath (readPlaces load.fir load.ep load.home load.kind) key s.tick 128
      let card := r.1.take 4 ++ toBytes 4 stamp ++ r.1.drop 8
      if !s.plainReady load then .wait
      else if s.lostLoad load then
        .ok (State.failItem (s.addItem { load with dst := dstOf o.d } o.d .raw) { load with dst := dstOf o.d } false)
      else if !s.behindOwn load then .wait
      else if r.2 then .ok ((s.ras s.curCore).putSP o.d 0 true)
      else if cardChip card != chipOf s.curCore && s.remoteFull then .wait
      else .ok (s.addItem { load with act := .spawn card stamp, home := chipOf s.curCore, rel := some .die, dst := dstOf o.d } o.d .raw)) s

/-- Performing it: the card goes to a pool of this chip, or to another chip as a release at `.sys`. -/
def State.performSpawn (s : State) (it : Item) (card : List Byte) (stamp : Nat) : State :=
  if s.barred it || !s.relReady it .die then s
  else
    let ptr := it.ptr
    let chip := chipOf it.ep
    if cardChip card = chip then
      let die := if cardAny card then dieOf it.ep % 4
        else match (s.cap it.cap).foldCore (cardCore card) with
          | some q => dieOf q % 4
          | none => dieOf it.ep % 4
      let s := s.released it.ep .die
      if (s.chip chip).poolRoom die then
        (s.modChip chip fun h =>
          h.addNode die { cap := it.cap, slot := it.slot, card := card, ptr := ptr, src := it.ep }).doneS it 0 false
      else s.doneS it 1 false
    else if !s.relReady it .sys then s
    else
      let home := cardChip card
      let q := { s.mkRemote { it with home := home } (.spawn card stamp) with ptr := ptr }
      ((s.released it.ep .sys).launch q).doneS it 0 false

/-! The ready pool (R262). -/

/-- Tile i of a card: source pointer, destination halfword, length in bytes (Table 13.5). -/
def cardTile (card : List Byte) (i : Nat) : Word × Nat × Nat :=
  (BitVec.ofNat 64 (lget card (0x30 + 12 * i) 8), lget card (0x38 + 12 * i) 2, 64 * lget card (0x3A + 12 * i) 2)
def cardTiles (card : List Byte) : Nat := bits (lget card 0x0C 2) 0 3

/-- The check of one tile's destination. -/
def tileBad (d len : Nat) : Option Nat :=
  match bits d 14 2 with
  | 0 => if 64 * bits d 0 14 + len > Config.lBytes then some 0x06 else none
  | 1 =>
    if bits d 9 5 ≠ 0 then some 0x03
    else match fillTag (bits d 4 5) with
      | none => some 0x02
      | some t => if len = slotBytes t then none else some 0x06
  | _ => some 0x03

/-- The checks of a card (R262): its fault code, 0 where it passes, and none while growth has to wait. DEDUCED (log 14): the
order of the checks. -/
def State.checkCard (s : State) (chip : Nat) (n : Node) : Option (State × Nat) :=
  let c := n.card
  let k := cardTiles c
  let unused := (List.range 6).any fun i => decide (k ≤ i) && lget c (0x30 + 12 * i) 12 != 0
  if bits (lget c 0x0C 2) 4 12 ≠ 0 ∨ k > 6 ∨ lget c 0x78 8 ≠ 0 ∨ unused ∨ (cardAny c ∧ cardCore c ≠ 0) then some (s, 0x03)
  else if lget c 0 4 ≥ codeEntries (s.codeImage n.cap chip) then some (s, 0x02)
  else (List.range k).foldl (fun x i => x.bind fun r =>
    if r.2 ≠ 0 then some r
    else
      let t := cardTile c i
      match tileBad t.2.1 t.2.2 with
      | some e => some (r.1, e)
      | none => match r.1.engineAccess n.cap n.slot t.1 t.2.2 64 permR with
        | .ok s _ _ => some (s, 0)
        | .fail s e => some (s, e.code)
        | .wait => none) (some (s, 0))

/-- Running and ready firings of a core. -/
def Core.load (c : Core) : Nat :=
  ((List.range Config.slotCount).filter fun k => (c.slot k).firing.isSome).length + c.ready.length
/-- The first of the endpoints with the least load. -/
def State.leastLoaded (s : State) : List Nat → Option Nat
  | [] => none
  | e :: es => match s.leastLoaded es with
    | none => some e
    | some b => if (s.core e).load ≤ (s.core b).load then some e else some b

/-! Placing actors (R406). -/

/-- What stands on a core: actors, mailboxes, whether one is the message actor, the lowest private byte. -/
structure Load where
  ep : Nat
  actors : Nat
  boxes : Nat
  message : Bool
  low : Nat
  deriving DecidableEq, Repr

def Capsule.loadOf (c : Capsule) (ep : Nat) : Load :=
  let as := c.actors.filter fun a => a.ep == ep && !a.moving
  { ep := ep, actors := as.length, boxes := as.foldl (fun n a => n + a.boxes.length) 0, message := as.any Actor.isMessage
    low := as.foldl (fun n a => min n a.privOff) Config.lBytes }

/-- The load with one more actor, where the limits of R14, R244, R245 and R321 allow it. -/
def Load.add (l : Load) (a : Actor) : Option Load :=
  if l.actors + 1 > 32 ∨ l.boxes + a.boxes.length > 16 ∨ (l.message ∧ a.isMessage) ∨ a.privSize > l.low then none
  else some { l with
    actors := l.actors + 1, boxes := l.boxes + a.boxes.length, message := l.message || a.isMessage
    low := (l.low - a.privSize) / 64 * 64 }

/-- The load, among those that can take the actor, with the fewest actors; the lowest endpoint on ties. -/
def bestLoad (a : Actor) : List Load → Option Load
  | [] => none
  | l :: ls =>
    match bestLoad a ls with
    | none => if (l.add a).isSome then some l else none
    | some b => if (l.add a).isSome && decide (l.actors ≤ b.actors) then some l else some b

/-- Places moved actors in manifest order: index, core and private offset of each; none where one does not fit. -/
def placeMoved : List (Nat × Actor) → List Load → Option (List (Nat × Nat × Nat))
  | [], _ => some []
  | (i, a) :: as, ls =>
    match bestLoad a ls with
    | none => none
    | some b => match b.add a with
      | none => none
      | some b' =>
        (placeMoved as (ls.map fun l => if l.ep = b.ep then b' else l)).map fun r => (i, b.ep, b'.low) :: r

def Capsule.movedActors (c : Capsule) : List (Nat × Actor) :=
  ((List.range c.actors.length).zip c.actors).filter fun e => e.2.moving

/-- Actors of a capsule pinned to a core, and the room left for tasks and nodes in its ready set (R251). DEDUCED (log 39): while
a move is under way, an actor on its way has its entry kept from then on, on the core where R406 places it as things stand. -/
def State.pinned (s : State) (cap ep : Nat) : Nat :=
  let c := s.cap cap
  let coming := if c.remap then
      (placeMoved c.movedActors ((c.cores.filter fun e => !(s.core e).vacating).map c.loadOf)).getD []
    else []
  (c.actors.filter fun a => a.ep == ep).length + (coming.filter fun p => p.2.1 == ep).length
def Ready.isTask (r : Ready) : Bool :=
  match r.job with
  | .task _ | .node _ => true
  | _ => false
def State.taskRoom (s : State) (ep : Nat) : Bool :=
  let c := s.core ep
  match c.cap with
  | some cap => decide ((c.ready.filter Ready.isTask).length < 64 - s.pinned cap ep)
  | none => false

/-- One step of a node: nothing where it has to wait; none of the list for a node that leaves the pool. -/
def State.nodeStep (s : State) (chip die : Nat) (n : Node) : Option (State × Option Node) :=
  match n.target with
  | none => (s.checkCard chip n).bind fun r =>
    if r.2 ≠ 0 then some (r.1.faultOutside n.cap n.src r.2 n.ptr (BitVec.ofNat 64 r.2) 4, none)
    else
      let c := r.1.cap n.cap
      let t := if cardAny n.card then r.1.leastLoaded (c.cores.filter fun e => dieOf e == chip * 4 + die)
        else c.foldCore (cardCore n.card)
      t.map fun q => (r.1, some { n with target := some q })
  | some q =>
    let t := cardTile n.card n.tile
    if n.tile < cardTiles n.card then
      if n.done ≥ t.2.2 then some (s, some { n with tile := n.tile + 1, done := 0 })
      else
        let key := match (s.cap n.cap).extents.find (ptrSlot t.1) with
          | some e => (e.key (ptrSlot t.1) n.slot (ptrOff t.1), e.kind)
          | none => (0, .release)
        let rd := s.engineRead q (key.1 + n.done) key.2 8
        let s := if rd.2 then s.ras q else s
        let d := t.2.1
        if bits d 14 2 = 0 then
          some (s.modCore q fun c => c.lwrite (64 * bits d 0 14 + n.done) rd.1 rd.2, some { n with done := n.done + 8 })
        else
          let n := { n with done := n.done + 8, buf := n.buf ++ rd.1, bad := n.bad || rd.2 }
          if n.done < t.2.2 then some (s, some n)
          else
            let w := s.engineSlot q (bits d 0 4) n.buf (if n.bad then .poison else (fillTag (bits d 4 5)).getD .raw) .pool
            some (w.1, some { n with buf := [], bad := false, waiting := n.waiting ++ w.2.toList })
    else if ((s.core q).held.any fun h => n.waiting.contains h.id) || !s.taskRoom q then none
    else
      let t : Task := { taskOf [] 0 with
        entry := lget n.card 0 4, stamp := lget n.card 4 4, budget := lget n.card 8 4
        a0 := BitVec.ofNat 64 (lget n.card 0x10 8), a1 := BitVec.ofNat 64 (lget n.card 0x18 8)
        a2 := BitVec.ofNat 64 (lget n.card 0x20 8), a3 := BitVec.ofNat 64 (lget n.card 0x28 8) }
      let r : Ready :=
        { job := .node t, cap := n.cap, stamp := t.stamp, card := n.card, ptr := n.ptr, src := n.src, view := n.slot }
      some (s.modCore q fun c => { c with ready := c.ready ++ [r] }, none)

/-- The first node of a pool that can take a step takes it. -/
def State.poolStep (s : State) (chip die : Nat) : List Node → Nat → State
  | [], _ => s
  | n :: ns, i =>
    match s.nodeStep chip die n with
    | none => s.poolStep chip die ns (i + 1)
    | some (t, n') =>
      t.modChip chip fun h => { h with pools := h.pools.put die (match n' with
        | some m => listSet (h.pools.get [] die) i m
        | none => listDel (h.pools.get [] die) i) }

/-- Nodes of a continuation that wait for room join the pool of the die that they name. -/
def State.placeLateNodes (s : State) (chip die : Nat) : State :=
  s.caps.foldl (fun s e => e.2.lateNodes.foldl (fun s n =>
    if e.2.chip = chip ∧ dieOf n.src % 4 = die ∧ (s.chip chip).poolRoom die then
      (s.modChip chip fun h => h.addNode die n).modCap e.1 fun c => { c with lateNodes := c.lateNodes.erase n }
    else s) s) s

/-- Event READY_POOL_NODE (R262). -/
def execReadyPoolNode (chip die : Nat) (s : State) : Host.Outcome State Fault Refusal :=
  let s := s.placeLateNodes chip die
  .next (s.poolStep chip die ((s.chip chip).pools.get [] die) 0)

end Sys2Proof.Machine
end

