-- ==== Sys2Proof/Machine/Phaser.lean ====
section
/-!
DEFINITION. Phasers (14 R286 to R293, 09 R195, R196) and their arbiters' steps.
-/
namespace Sys2Proof.Machine

/-! Handles and members. -/

/-- The phaser a handle names (Table 14.5): its key and generation. -/
def phKey (h : Word) : Option (Nat × Nat) :=
  let n := h.toNat
  if bits n 48 16 ≠ 0 ∨ bits n 24 8 ≠ 0 ∨ bits n 16 8 ≥ Config.phaserCount then none
  else some (bits n 32 16 * 128 + bits n 16 8, bits n 0 16)
def phHandle (key gen : Nat) : Word := BitVec.ofNat 64 (key / 128 * 2 ^ 32 + key % 128 * 2 ^ 16 + gen)

/-- The key of a phaser that has moved from its bell to its chip's gateway (Table 21.6): the bell's index is free again, and
the generation tells the two apart. -/
def gatewayKey (key gen : Nat) : Nat := key % 2 ^ 24 + 2 ^ 24 * gen

def State.phaser (s : State) (key : Nat) : Phaser := s.phasers.get {} key
def State.setPhaser (s : State) (key : Nat) (p : Phaser) : State := { s with phasers := s.phasers.put key p }
/-- Where the phaser that a handle's key and generation name stands: in its bell, or moved to its chip's gateway. -/
def State.phAt (s : State) (key gen : Nat) : Nat := if (s.phasers.find (gatewayKey key gen)).isSome then gatewayKey key gen else key % 2 ^ 24
/-- The live phaser of a key and generation. -/
def State.livePhaser (s : State) (key gen : Nat) : Option Phaser :=
  let p := s.phaser (s.phAt key gen)
  if p.live && p.gen == gen then some p else none

def Phaser.member (p : Phaser) (cap actor : Nat) : Option Member := p.members.find? fun m => m.cap == cap && m.actor == actor
def Phaser.setMember (p : Phaser) (m : Member) : Phaser :=
  { p with members := p.members.map fun x => if x.cap = m.cap ∧ x.actor = m.actor then m else x }
def Member.signals (m : Member) : Bool := m.mode == 1 || m.mode == 3
/-- Signallers of P (R287, R292). -/
def Phaser.signallers (p : Phaser) : Nat := (p.members.filter fun m => m.signals && !m.joining).length + p.left

/-- The step in which P completes (R287): held registrations and mode changes take effect. -/
def Phaser.complete (p : Phaser) : Phaser :=
  if 1 ≤ p.signallers ∧ p.signallers ≤ p.arrivals then
    { p with phase := p.phase + 1, arrivals := 0, left := 0
             members := p.members.map fun m => { m with joining := false, mode := m.pending.getD m.mode, pending := none } }
  else p

/-- The group's scope (R195): the lowest point shared by every member. -/
def Phaser.scope (p : Phaser) : Scope :=
  match p.members with
  | [] => .core
  | m :: ms => ms.foldl (fun sc x => let t := sharedScope m.ep x.ep; if sc.level < t.level then t else sc) .core

/-- Member records of a core's bell in use (R286). -/
def State.memberRecords (s : State) (ep : Nat) : Nat :=
  (s.phasers.map fun e => (e.2.members.filter fun m => m.ep == ep).length).foldl (· + ·) 0

/-- The current firing's member record behind a handle: Capability-refused where there is none (R289). -/
def State.member (s : State) (h : Word) (k : Nat → Phaser → Member → Eff) : Eff :=
  let f := s.curF
  match phKey h with
  | none => .fault (fCapability h)
  | some (key, gen) =>
    match s.livePhaser key gen with
    | none => .fault (fCapability h)
    | some p =>
      match (if f.isActor then p.member f.cap f.actor else none) with
      | none => .fault (fCapability h)
      | some m => k (s.phAt key gen) p m

def State.phRequest (s : State) (key gen : Nat) (act : PhAct) (d : Operand) : State :=
  let f := s.curF
  let r : PhReq := { key := key, gen := gen, cap := f.cap, actor := f.actor, ep := s.curCore, slot := s.curSlot, id := s.fresh
                     dst := dstOf d, act := act }
  let s := s.pendD d s.fresh .raw
  { s with phq := s.phq ++ [r], fresh := s.fresh + 1 }

/-! Instructions. -/

/-- A new phaser in the issuing core's bell (R288). -/
def State.createPhaser (s : State) (mode : Nat) : State × Word :=
  let f := s.curF
  let ep := s.curCore
  match (List.range Config.phaserCount).find? fun i => !(s.phaser (ep * 128 + i)).live with
  | none => (s, 0)
  | some i =>
    if s.memberRecords ep ≥ Config.memberCount then (s, 0)
    else
      let key := ep * 128 + i
      let gen := (s.phaser key).gen
      let m : Member := { cap := f.cap, actor := f.actor, ep := ep, mode := mode, sp := 0, wp := 0 }
      (s.setPhaser key { gen := gen, live := true, members := [m], cap := f.cap }, phHandle key gen)

/-- `ph.reg` (R288). -/
def execPhReg (o : Ops) (s : State) : Host.Outcome State Fault Refusal :=
  issue { op := 0x310 } o (fun s v _ =>
    let mode := sval v.b.word
    if mode < 1 ∨ mode > 3 then .fault (fIllegal 2)
    else if !s.curF.isActor then .fault (fIllegal 3)
    else if v.a.isImm then
      if v.a.word ≠ 0 then .fault (fIllegal 1)
      else let r := s.createPhaser mode.toNat; .ok (r.1.putS o.d r.2)
    else match phKey v.a.word with
      | none => .ok (s.putS o.d 0)
      | some (key, gen) => .ok (s.phRequest key gen (.register mode.toNat) o.d)) s

/-- The signal half: it issues when the phase it counts toward is not ahead of the core's knowledge (R289). -/
def State.signal (s : State) (opcode key : Nat) (p : Phaser) (m : Member) : State :=
  let it := s.newItem opcode (.phSig key p.gen m.actor m.sp)
  (s.addItem it .none .raw).setPhaser key (p.setMember { m with sp := m.sp + 1 })

/-- `ph.sig` (R289). -/
def execPhSig (o : Ops) (s : State) : Host.Outcome State Fault Refusal :=
  issue { op := 0x312 } o (fun s v _ =>
    s.member v.d.word fun key p m =>
      if m.mode = 2 then .fault (fIllegal 0)
      else if m.sp > m.known then .wait
      else .ok (s.signal 0x312 key p m)) s

/-- The wait of a member returns, an acquire (R290). -/
def State.waited (s : State) (key : Nat) (p : Phaser) (m : Member) : State :=
  s.setPhaser key (p.setMember { m with wp := m.wp + 1 })

/-- `ph.wait` (R290). -/
def execPhWait (o : Ops) (s : State) : Host.Outcome State Fault Refusal :=
  issue { op := 0x313 } o (fun s v _ =>
    s.member v.d.word fun key p m =>
      if m.mode = 1 then .fault (fIllegal 0)
      else if m.known ≤ m.wp then .wait
      else .ok (s.waited key p m)) s

/-- The wait half of `ph.sw` and `ph.twait` begins: the slot is held until it returns, and goes on behind the word. -/
def State.phHold (s : State) (key gen : Nat) (limit : Option Nat) (d : Operand) : Eff :=
  let f := s.curF
  let w : PhWait := { id := s.fresh, fir := f.id, cap := f.cap, actor := f.actor, slot := s.curSlot, key := key, gen := gen
                      limit := limit, dst := dstOf d }
  let s := { s.pendD d s.fresh .raw with fresh := s.fresh + 1 }.modCurC fun c => { c with phWaits := c.phWaits ++ [w] }
  .hold (s.modCur fun x => { x with wait := .item w.id }).advance

/-- `ph.sw` (R290): it signals, then waits. -/
def execPhSw (o : Ops) (s : State) : Host.Outcome State Fault Refusal :=
  issue { op := 0x314 } o (fun s v _ =>
    s.member v.d.word fun key p m =>
      if m.mode ≠ 3 then .fault (fIllegal 0)
      else if m.sp > m.known then .wait
      else (s.signal 0x314 key p m).phHold key p.gen none .none) s

/-- `ph.twait` (R291): the limit counts from the issue cycle. -/
def execPhTwait (o : Ops) (s : State) : Host.Outcome State Fault Refusal :=
  issue { op := 0x315 } o (fun s v _ =>
    s.member v.a.word fun key p m =>
      if m.mode = 1 then .fault (fIllegal 1)
      else s.phHold key p.gen (some (s.curC.cycles.toNat + bits v.b.word.toNat 0 32)) o.d) s

/-- `ph.drop` (R292). -/
def execPhDrop (o : Ops) (s : State) : Host.Outcome State Fault Refusal :=
  issue { op := 0x311 } o (fun s v _ =>
    s.member v.d.word fun key p m => .ok (s.addItem (s.newItem 0x311 (.phDrop key p.gen m.actor)) .none .raw)) s

/-- `ph.stat` (R293). -/
def execPhStat (o : Ops) (s : State) : Host.Outcome State Fault Refusal :=
  issue { op := 0x316 } o (fun s v _ =>
    match phKey v.a.word with
    | none => .ok (s.putS o.d 0)
    | some (key, gen) => .ok (s.phRequest key gen .stat o.d)) s

/-! Performing. -/

/-- A signal or drop is a release at the group's scope (R195, R292): the lowest point shared by every member registered as
it is performed. In that step the arbiter records it, so that no member registers between; the actor's earlier requests
come first. -/
def State.performPhase (s : State) (it : Item) (key gen actor : Nat) (act : Phaser → Phaser) : State :=
  match s.livePhaser key gen with
  | none => if s.barred it || !s.relReady it .core then s else s.done it
  | some p =>
    if s.barred it || !s.relReady it p.scope || s.phq.any (fun r => r.key % 2 ^ 24 == key % 2 ^ 24 && r.gen == gen && r.cap == it.cap && r.actor == actor) then s
    else ((s.setPhaser (s.phAt key gen) (act p)).released it.ep p.scope).done it

/-! The arbiter (R287). -/

/-- An arrival: counted where it is one for P. -/
def Phaser.arrive (p : Phaser) (sp : Nat) : Phaser :=
  if sp = p.phase then ({ p with arrivals := p.arrivals + 1 }).complete else p

/-- The phaser is freed and its generation advances (R286). -/
def Phaser.freed (p : Phaser) : Phaser := { gen := if p.gen = 65535 then 1 else p.gen + 1 }
/-- A member leaves (R292). -/
def Phaser.drop (p : Phaser) (cap actor : Nat) : Phaser :=
  match p.member cap actor with
  | none => p
  | some m =>
    let rest := p.members.filter fun x => !(x.cap == cap && x.actor == actor)
    if rest.isEmpty then p.freed
    else if m.signals && !m.joining && m.sp ≤ p.phase then ({ p with members := rest }).complete
    else { p with members := rest, left := if m.signals && !m.joining then p.left + 1 else p.left }

/-- A registration or mode change (R288): the phaser, and the handle or 0. -/
def State.registerMember (s : State) (r : PhReq) (p : Phaser) (mode : Nat) : Phaser × Word :=
  let ok := phHandle r.key r.gen
  match p.member r.cap r.actor with
  | some m => (p.setMember (if p.arrivals = 0 then { m with mode := mode, pending := none } else { m with pending := some mode }), ok)
  | none =>
    if !s.accepts r.cap p.cap || decide (s.memberRecords r.ep ≥ Config.memberCount) || decide (p.members.length ≥ 65535) then (p, 0)
    else
      let late := p.arrivals ≠ 0
      let at_ := if late then p.phase + 1 else p.phase
      ({ p with members := p.members ++ [{ cap := r.cap, actor := r.actor, ep := r.ep, mode := mode, sp := at_, wp := at_
                                           joining := decide late, known := p.phase }] }, ok)

/-- Table 14.7. -/
def Phaser.word (p : Phaser) : Word :=
  BitVec.ofNat 64 (2 ^ 63 + p.phase % 65536 * 2 ^ 32 + p.signallers % 65536 * 2 ^ 16 + p.arrivals % 65536)

/-- Event PHASER_ARBITER_STEP (R287): the arbiter of bell ep takes request idx, those of one actor in order. -/
def execPhaserArbiterStep (ep idx : Nat) (s : State) : Host.Outcome State Fault Refusal :=
  match s.phq[idx]? with
  | none => .next s
  | some r =>
    if r.key / 128 ≠ ep || (s.phq.take idx).any (fun q => q.key == r.key && q.cap == r.cap && q.actor == r.actor) then .next s
    else
      let s := { s with phq := listDel s.phq idx }
      match s.livePhaser r.key r.gen with
      | none => .next (s.arriveS r.ep r.slot r.dst r.id 0 false)
      | some p =>
        match r.act with
        | .stat => .next (s.arriveS r.ep r.slot r.dst r.id p.word false)
        | .register mode =>
          let q := s.registerMember r p mode
          .next ((s.setPhaser (s.phAt r.key r.gen) q.1).arriveS r.ep r.slot r.dst r.id q.2 false)

/-- Event PHASER_COMPLETION_NOTICE (R290): core ep is told the phase its members may know. -/
def execPhaserCompletionNotice (ep home phaser : Nat) (s : State) : Host.Outcome State Fault Refusal :=
  let key := home * 128 + phaser
  .next { s with phasers := s.phasers.map fun (e : Nat × Phaser) =>
    if e.1 % 2 ^ 24 = key ∧ e.2.live then
      (e.1, { e.2 with members := e.2.members.map fun m => if m.ep = ep then { m with known := e.2.phase } else m })
    else e }

/-- A wait half returns: its result arrives, and its slot goes on. -/
def State.phReturn (s : State) (ep : Nat) (w : PhWait) (v : Word) : State :=
  ((s.modCore ep fun c => { c with phWaits := c.phWaits.filter fun y => y.id != w.id }).arriveS ep w.slot w.dst w.id v false).wake
    ep w.slot w.id

/-- A wait half is tested in cycle `now` (R290, R291): it returns where the completion is known in a cycle that counts, or
with 1 at the end of its last one. -/
def State.phWaitTest (s : State) (ep now : Nat) (w : PhWait) : State :=
  let known := (s.livePhaser w.key w.gen).bind fun p => ((p.member w.cap w.actor).filter fun m => decide (m.wp < m.known)).map
    fun m => (p, m)
  match known, w.limit with
  | some (p, m), none => (s.waited (s.phAt w.key w.gen) p m).phReturn ep w 0
  | none, none => s
  | known, some l =>
    match known with
    | some (p, m) => if now ≤ l then (s.waited (s.phAt w.key w.gen) p m).phReturn ep w 0 else s.phReturn ep w 1
    | none => if l ≤ now then s.phReturn ep w 1 else s
def State.phWaitTests (s : State) (ep now : Nat) : State :=
  (s.core ep).phWaits.foldl (fun s w => s.phWaitTest ep now w) s

/-- Event PH_TWAIT_EXPIRY (R291): the limit of a timed wait has run out. -/
def execPhTwaitExpiry (ep slot : Nat) (s : State) : Host.Outcome State Fault Refusal :=
  match (s.core ep).phWaits.find? fun w => w.slot == slot && w.limit.any fun l => decide (l < (s.core ep).cycles.toNat) with
  | some w => .next (s.phReturn ep w 1)
  | none => .next s

/-- A capsule's memberships end with it, and phasers left without members are freed (14, opening of Phasers); so are those it
created, whoever else is a member (Table 17.7). -/
def State.dropMembers (s : State) (cap : Nat) : State :=
  { s with
    phq := s.phq.filter fun r => r.cap != cap
    phasers := s.phasers.map fun e =>
      (e.1, if e.2.live ∧ e.2.cap = cap then e.2.freed
        else (e.2.members.filter fun m => m.cap == cap).foldl (fun p m => p.drop cap m.actor) e.2) }

end Sys2Proof.Machine
end

