-- ==== Sys2Proof/Machine/Event.lean ====
section
/-!
DEFINITION. The event crossbar's instructions, status, stages and budget (14 R294 to R300).
-/
namespace Sys2Proof.Machine

/-- A counter's configuration (Table 14.9). -/
def counterOf (w : Nat) : Option Counter :=
  let src := bits w 0 5
  let thr := bits w 8 16
  if bits w 24 40 ≠ 0 ∨ bits w 5 3 ≠ 0 ∨ thr = 0 ∨ (8 ≤ src ∧ src ≤ 30) then none
  else some { threshold := thr, source := src }

/-- A term's configuration (Table 14.10): unused argument bits are reserved. -/
def termOf (w : Nat) : Option Term :=
  let act := bits w 20 2
  let arg := bits w 24 16
  let argOk := match act with
    | 0 => arg == 0
    | 1 => decide (arg < 4)
    | 3 => decide (arg < 16)
    | _ => true
  if bits w 40 24 ≠ 0 ∨ bits w 22 2 ≠ 0 ∨ bits w 17 3 ≠ 0 ∨ !argOk then none
  else some { mask := bits w 0 16, isOr := bit w 16, action := act, arg := arg }

/-- `evcfg` (R295). -/
def execEvcfg (o : Ops) (s : State) : Host.Outcome State Fault Refusal :=
  issue { op := 0x320 } o (fun s v _ =>
    let sel := sval (Operand.val o.d).word
    let w := v.a.word.toNat
    if sel < 0 ∨ sel > 23 then .fault (fIllegal 0)
    else if sel < 16 then
      match counterOf w with
      | none => .fault fReservedValue
      | some k => .ok (s.modCurC fun c => { c with counters := c.counters.put sel.toNat k })
    else match termOf w with
      | none => .fault fReservedValue
      | some t => .ok (s.modCurC fun c => { c with terms := c.terms.put (sel.toNat - 16) t })) s

/-- `evarm` (R297): the term is then tested. -/
def execEvarm (o : Ops) (s : State) : Host.Outcome State Fault Refusal :=
  issue { op := 0x321 } o (fun s v _ =>
    let j := sval (Operand.val o.d).word
    let a := if v.a.isImm then sval v.a.word else (v.a.word.toNat : Int)
    if j < 0 ∨ j > 7 then .fault (fIllegal 0)
    else if a < 0 ∨ a > 0xFFFF then .fault (fIllegal 1)
    else .ok ((s.modCurC fun c =>
      let t := { c.term j.toNat with armed := a.toNat, stamp := s.cur.dline.toNat, fir := s.curF.id, view := s.curSlot }
      { c with terms := c.terms.put j.toNat t }).testTerms s.curCore)) s

/-- `evpulse` (R297). -/
def execEvpulse (o : Ops) (s : State) : Host.Outcome State Fault Refusal :=
  issue { op := 0x322 } o (fun s _ _ =>
    let i := sval (Operand.val o.d).word
    if i < 0 ∨ i > 15 then .fault (fIllegal 0)
    else .ok (s.addItem (s.newItem 0x322 (.evpulse i.toNat)) .none .raw)) s

/-- Performing it: with the store buffer empty, as `pgo` (R190). A counter that is not configured takes the pulse with
threshold 0, which no count reaches. -/
def State.performEvpulse (s : State) (it : Item) (i : Nat) : State :=
  if s.barred it || !s.bufferEmpty it then s else (s.pulse it.ep i).done it

/-! Status (R298). -/

/-- Status of the work queue q of the current core's die, 0 where it is not bound (R263). -/
def State.queueStatus (s : State) (q : Nat) : Word :=
  let h := s.chip (chipOf s.curCore)
  match h.boundQueue (dieOf s.curCore % 4) q s.curF.cap with
  | none => 0
  | some k =>
    let w := h.wq k
    BitVec.ofNat 64 (w.waiters.length * 2 ^ 16 + w.closed.toNat * 2 ^ 9 + w.entries.length)

def Mailbox.status (b : Mailbox) : Word :=
  BitVec.ofNat 64 (b.ty * 2 ^ 12 + (b.msgs.filter Msg.reserved).length * 2 ^ 8 + b.msgs.length)
def Counter.status (k : Counter) : Word := BitVec.ofNat 64 (k.ovf.toNat * 2 ^ 24 + k.t * 2 ^ 16 + k.c % 2 ^ 16)
def Term.status (t : Term) : Word := BitVec.ofNat 64 (t.actions * 2 ^ 16 + t.armed)

/-- `qstat` (R298). -/
def execQstat (o : Ops) (s : State) : Host.Outcome State Fault Refusal :=
  issue { op := 0x318 } o (fun s v _ =>
    let n := v.a.word.toNat
    let i := bits n 0 5
    let c := s.curC
    let bad := Eff.fault (fIllegal 1)
    if n / 256 ≠ 0 ∨ bit n 5 then bad
    else match bits n 6 2 with
      | 0 => if i > 15 then bad else .ok (s.putS o.d (s.queueStatus i))
      | 1 => if i > 15 then bad
        else match s.ownBox i with
          | some b => .ok (s.putS o.d b.status)
          | none => bad
      | 2 => if i > 15 then bad
        else .ok (s.putS o.d (BitVec.ofNat 64 (if i < 12 then (c.sq' i).length else (c.vq' i).length)))
      | _ => if i > 23 then bad
        else .ok (s.putS o.d (if i < 16 then (c.counter i).status else (c.term (i - 16)).status))) s

/-! Stages (R264, R299). -/

/-- On every die of the capsule the actors of one core share one stage (R264). -/
def Capsule.stagesUniform (c : Capsule) : Bool :=
  c.actors.all fun a => c.actors.all fun b => a.ep != b.ep || a.stage == b.stage

/-- Dies of the chip on which the capsule holds cores. -/
def Capsule.dies (c : Capsule) : List Nat := (c.cores.map fun e => dieOf e % 4).eraseDups

/-- Work queue q bound on every die of the capsule (R263); nothing where a die has no queue free. -/
def Chip.bindAll (h : Chip) (cap q : Nat) : List Nat → Option Chip
  | [] => some h
  | d :: ds => match h.bind cap d q with
    | some (h, _) => h.bindAll cap q ds
    | none => none

/-- `stage` (R299). -/
def execStage (o : Ops) (s : State) : Host.Outcome State Fault Refusal :=
  issue { op := 0x328 } o (fun s v _ =>
    let i := sval v.a.word
    let w := v.b.word.toNat
    let c := s.curCap
    let cap := s.curF.cap
    if i < 0 ∨ i > 15 then .fault (fIllegal 1)
    else if i = 15 then
      if w ≠ 0 then .fault fReservedValue
      else .ok ((s.modCap cap fun c => { c with rings := [] }).putS o.d 0)
    else
      let r : Ring := { queue := bits w 0 4, low := bits w 20 9, high := bits w 8 9 }
      if bits w 29 35 ≠ 0 ∨ bits w 17 3 ≠ 0 ∨ bits w 4 4 ≠ 0 then .fault fReservedValue
      else if r.low > r.high ∨ !c.stagesUniform then .ok (s.putS o.d 1)
      else
        let chip := chipOf s.curCore
        match (s.chip chip).bindAll cap r.queue c.dies with
        | none => .wait
        | some h =>
          let s := { s with chips := s.chips.put chip h }
          .ok ((s.modCap cap fun c => { c with rings := c.rings.put i.toNat r }).putS o.d 0)) s

/-- `budget` (R300). -/
def execBudget (o : Ops) (s : State) : Host.Outcome State Fault Refusal :=
  issue { op := 0x329 } o (fun s v _ =>
    let b := s.curF.budget
    let a := v.a.word.toNat
    let s := if 1 ≤ a ∧ a < b then s.modF fun f => { f with budget := a } else s
    .ok (s.putS o.d (BitVec.ofNat 64 b))) s

end Sys2Proof.Machine
end

