-- ==== Sys2Proof/Machine/Exec.lean ====
section
/-!
DEFINITION. The execution model's engines (13): budgets, the dispatch arbiter, steals, the hawker and the governor.
-/
namespace Sys2Proof.Machine

/-! Budgets. -/

/-- Budget-exhausted (R255): the oldest word not issued is named, which for a slot that waits in `mwait` is the word
behind it; a firing that holds an early atomic is first replayed to it, since nothing behind it stands (R187). -/
def State.exhaust (s : State) (ep k : Nat) : State :=
  let x := s.slot ep k
  match x.firing with
  | none => s
  | some f =>
    let s := match s.iq.find? fun i => i.fir == f.id && i.held with
      | some it => match it.act with
        | .amo _ _ _ _ _ _ _ (some e) => s.replay it e
        | _ => s
      | none => s
    let s := match (s.slot ep k).wait with
      | .mwait _ _ => s.modSlot ep k fun x => x.modFiring fun f => let r := atEnd f.pc f.loops; { f with loops := r.1, pc := r.2 }
      | _ => s
    match (s.slot ep k).firing with
    | some g => s.takeFault ep k ⟨0x0B, BitVec.ofNat 64 f.budget0, 0⟩ clsImprecise g.pc g.pc
    | none => s

/-- Event BUDGET_EXHAUSTED (R255): the end of a cycle finds the budget at 0 and the firing still in its slot. -/
def execBudgetExhausted (ep slot : Nat) (s : State) : Host.Outcome State Fault Refusal :=
  match (s.slot ep slot).firing with
  | some f => .next (if f.budget = 0 then s.exhaust ep slot else s)
  | none => .next s

/-! Dispatch. -/

/-- A stated budget of 0 means 2^32 cycles (R254). -/
def statedBudget (n : Nat) : Nat := if n = 0 then 2 ^ 32 else n

/-- Dispatch to the core is not withheld (R391, R392, R405, Table 22.4). A shadow core has no dispatch of its own: its primary's
decisions are forwarded to it (R416). -/
def State.dispatching (s : State) (ep : Nat) : Bool :=
  match (s.core ep).cap with
  | some cap => (s.cap cap).state == .running && !(s.core ep).vacating && !(s.chip (chipOf ep)).frozen
      && (s.core ep).shadowOf.isNone
  | none => false

def Core.freeSlot (c : Core) : Option Nat := (List.range Config.slotCount).find? fun k => (c.slot k).firing.isNone

/-- Task firings from the bottom of the core's own deque while the ready set holds fewer than two (R251). -/
def State.refill : Nat → State → Nat → State
  | 0, s, _ => s
  | n + 1, s, ep =>
    let c := s.core ep
    match c.cap, c.deque.getLast? with
    | some cap, some t =>
      if c.ready.length < 2 && s.taskRoom ep then
        State.refill n (s.setCore ep { c with
          deque := c.deque.dropLast, ready := c.ready ++ [{ job := .task t, cap := cap, stamp := t.stamp }] }) ep
      else s
    | _, _ => s

/-- The ready firing chosen (R252), by its place in ready order. DESIGN CHOICE (log 52): where the stamps run in a cycle and every
ready firing has another before it, the first in ready order is taken; R252 names none. -/
def chooseReady (rs : List Ready) : Option Nat :=
  match rs with
  | [] => none
  | r :: _ =>
    if r.passed ≥ 64 then some 0
    else match listIdx (fun (x : Ready) => !rs.any fun y => stampBefore y.stamp x.stamp) rs 0 with
      | some i => some i
      | none => some 0

/-- Firings older than the one dispatched have been passed once more (R252). -/
def takeReady : Nat → List Ready → List Ready
  | _, [] => []
  | 0, _ :: rs => rs
  | i + 1, r :: rs => { r with passed := r.passed + 1 } :: takeReady i rs

/-- Start values of Table 15.1 and R304 for s1 to s63; `args` are what the kind of firing receives. -/
def startSregs (view : Int) (args : List (Nat × Word)) : AMap SReg :=
  (List.range 63).map fun i =>
    let n := i + 1
    (n, match args.find? fun a => a.1 == n with
      | some a => { val := a.2 }
      | none =>
        if n = 2 ∨ n = 3 then { val := mkPtr 1 view }
        else if n = 63 then { val := mkPtr 2 0 }
        else if n = 1 ∨ (28 ≤ n ∧ n ≤ 47) ∨ (56 ≤ n ∧ n ≤ 62) then { }
        else { freed := true })
def startVregs : AMap VReg :=
  (List.range 64).map fun n => (n, if 32 ≤ n ∧ n ≤ 47 then { } else { tag := .freed })
def startPregs : AMap PReg :=
  (List.range 15).map fun n => (n, if 8 ≤ n ∧ n ≤ 11 then { } else { freed := true })

/-- A slot at dispatch (R93 to R95, R304): a delay of the slot goes on (R31). -/
def startSlot (x : Slot) (f : Firing) (view : Int) (args : List (Nat × Word)) (tritstrict : Bool) (now : Nat) : Slot :=
  { sregs := startSregs view args, vregs := startVregs, pregs := startPregs
    fctl := if tritstrict then 0x10 else 0, dline := BitVec.ofNat 32 f.stamp, firing := some f, age := 2 * now
    delay := x.delay, stream := x.stream, regResult := x.regResult, regLatest := x.regLatest }

/-- The stage of a core: the one its actors have (R264). -/
def Capsule.coreStage (c : Capsule) (ep : Nat) : Nat :=
  match c.actors.find? fun a => a.ep == ep with
  | some a => a.stage
  | none => 0

/-- The oldest count messages of each mailbox are reserved (R247). -/
def Actor.reserve (a : Actor) : Actor :=
  { a with boxes := a.boxes.map fun e =>
      (e.1, { e.2 with msgs := (e.2.msgs.take e.2.count).map (fun m => { m with reserved := true }) ++ e.2.msgs.drop e.2.count }) }

/-- The message of a message firing leaves its mailbox (R304). -/
def Actor.takeActive (a : Actor) : Option (Nat × Msg × Actor) :=
  match a.boxes.find? fun e => e.2.ty == 2 with
  | some (b, box) => match box.msgs with
    | m :: ms => some (b, m, { a with boxes := a.boxes.put b { box with msgs := ms } })
    | [] => none
  | none => none

/-- The shadow of a core of a redundant capsule (R416). -/
def Capsule.shadowOf (c : Capsule) (ep : Nat) : Option Nat :=
  match listIdx (fun e => e == ep) c.cores 0 with
  | some i => c.shadows[i]?
  | none => none

/-- `coord` (Table 18.4). -/
def State.coordOf (s : State) (cap ep : Nat) : Word :=
  BitVec.ofNat 64 (((s.cap cap).granted - 1) * 2 ^ 32 + (s.core ep).logical * 2 ^ 16 + ep)

/-- The chip a core's code extent is homed on, where that is another one. -/
def Capsule.farCode (c : Capsule) (ep : Nat) : Option Nat :=
  ((c.extents.find 0).map Extent.homeKey).filter (remoteHome ep)
/-- Instruction fetch through a code extent homed on another chip is a load request (R368), and a firing runs the image as
its fetches find it (R200). DEDUCED (log 47): one request fetches the image at the firing's dispatch, and its first word
issues once the home has performed it; with the home out of reach its outcome is R226's, raised before any word. -/
def State.fetchCode (s : State) (ep k : Nat) (f : Firing) (home : Nat) (entry : Option Nat) : State :=
  let r : Remote :=
    { id := s.fresh, chip := chipOf ep, ep := ep, gw := s.homeGateway home (chipOf ep), home := home, seqNo := 0
      epoch := (s.chip (chipOf ep)).fabric.epochs.get 0 home, fir := f.id, cap := f.cap, slot := k, word := 0, raw := 0
      opcode := 0, kind := .fetch entry, ptr := mkPtr 0 0, stamp := f.stamp }
  let s := s.bump.modSlot ep k fun x => { x with wait := .item r.id }
  if s.reachable (chipOf ep) home then s.placeRemote r else s.remoteUnknown r

/-- A job starts in slot k of core ep. -/
def State.startJob (s : State) (ep k : Nat) (r : Ready) : State :=
  let c := s.cap r.cap
  let far := c.farCode ep
  let code := if far.isSome then [] else s.codeImage r.cap (chipOf ep)
  let view : Int := match c.extents.find 1 with | some e => e.viewLen 1 | none => 0
  let now := (s.core ep).cycles.toNat
  let base : Firing :=
    { id := s.fresh, cap := r.cap, coord := s.coordOf r.cap ep, kind := .task, actor := 0xFFFF, stage := c.coreStage ep, stamp := r.stamp, pc := 0
      budget := 0, budget0 := 0, code := code, shadow := (c.shadowOf ep).map fun e => { ep := e, sig := 0 } }
  let go := fun (s : State) (f : Firing) (args : List (Nat × Word)) (entry : Option Nat) =>
    let s := (s.modSlot ep k fun x => startSlot x f view args c.tritstrict now).bump
    match far with
    | some home => s.fetchCode ep k f home entry
    | none => s
  let argsOf := fun (t : Task) => [(4, t.a0), (5, t.a1), (6, t.a2), (7, t.a3)]
  match r.job with
  | .task t =>
    let b := statedBudget t.budget
    go s { base with pc := codeEntry code t.entry, budget := b, budget0 := b } (argsOf t ++ [(8, t.join)]) (some t.entry)
  | .node t =>
    let b := statedBudget t.budget
    go s { base with kind := .node, pc := codeEntry code t.entry, budget := b, budget0 := b } (argsOf t) (some t.entry)
  | .actor i =>
    match c.actors[i]? with
    | none => s
    | some a =>
      let b := statedBudget (if a.budget = 0 then c.budget else a.budget)
      go (s.modActor r.cap i fun a => { a.reserve with state := .running })
        { base with kind := .actor, actor := i, stage := a.stage, pc := codeEntry code a.entry, budget := b, budget0 := b }
        [(11, BitVec.ofNat 64 a.privOff)] (some a.entry)
  | .message i =>
    match c.actors[i]? with
    | none => s
    | some a =>
      match a.takeActive with
      | none => s
      | some (box, m, a') =>
        let b := statedBudget (if a.budget = 0 then c.budget else a.budget)
        go (s.modActor r.cap i fun _ => { a' with state := .running })
          { base with kind := .message, actor := i, stage := a.stage, budget := b, budget0 := b, inline := m.inline
                      pc := if m.inline.isSome then 0 else m.handler / 12
                      taken := [(box, { m with reserved := true })] }
          [(4, m.w0), (5, m.w1), (6, m.w2), (7, m.w3), (11, BitVec.ofNat 64 a.privOff)] none

/-- Event DISPATCH (R251 to R253): the arbiter of core ep fills its lowest free slot. -/
def execDispatch (ep : Nat) (s : State) : Host.Outcome State Fault Refusal :=
  if !s.dispatching ep then .next s
  else
    let s := State.refill 2 s ep
    let c := s.core ep
    match c.freeSlot, chooseReady c.ready with
    | some k, some i =>
      match c.ready[i]? with
      | some r => .next ((s.setCore ep { c with ready := takeReady i c.ready }).startJob ep k r)
      | none => .next s
    | _, _ => .next s

/-! Steals and the hawker. -/

/-- The core of a list whose deque holds the most records; the first on ties; none where all are empty. -/
def State.fullest (s : State) : List Nat → Option Nat
  | [] => none
  | e :: es =>
    match s.fullest es with
    | none => if (s.core e).deque.isEmpty then none else some e
    | some b => if (s.core b).deque.length ≤ (s.core e).deque.length then some e else some b
/-- The core whose deque holds the fewest; the first on ties. -/
def State.emptiest (s : State) : List Nat → Option Nat
  | [] => none
  | e :: es =>
    match s.emptiest es with
    | none => some e
    | some b => if (s.core e).deque.length ≤ (s.core b).deque.length then some e else some b

/-- Cores of a square granted to a capsule, by number. -/
def State.squareCores (s : State) (sq cap : Nat) : List Nat :=
  ((List.range 4).map fun i => sq * 4 + i).filter fun e => (s.core e).cap == some cap && (s.core e).shadowOf.isNone

/-- The top record of core v's deque, and the core without it. -/
def Core.topTask (c : Core) : Option (Task × Core) :=
  match c.deque with
  | t :: ts => some (t, { c with deque := ts })
  | [] => none

/-- Event STEAL (R260): core ep is granted the top record of the fullest deque of its square. -/
def execSteal (ep : Nat) (s : State) : Host.Outcome State Fault Refusal :=
  let c := s.core ep
  match c.cap with
  | none => .next s
  | some cap =>
    if !s.dispatching ep || !c.ready.isEmpty || !c.deque.isEmpty || c.freeSlot.isNone || !s.taskRoom ep then .next s
    else match s.fullest ((s.squareCores (squareOf ep) cap).filter (· != ep)) with
      | none => .next s
      | some v => match (s.core v).topTask with
        | none => .next s
        | some (t, c') =>
          .next ((s.setCore v c').modCore ep fun k => { k with
            ready := k.ready ++ [{ job := .task t, cap := cap, stamp := t.stamp }] })

/-- Neighbouring squares on the die (R9), lowest number first. -/
def neighbours (sq : Nat) : List Nat :=
  let d := sq / 64 * 64
  let row := sq % 64 / 8
  let col := sq % 8
  (if row = 0 then [] else [d + (row - 1) * 8 + col]) ++ (if col = 0 then [] else [d + row * 8 + col - 1])
    ++ (if col = 7 then [] else [d + row * 8 + col + 1]) ++ (if row = 7 then [] else [d + (row + 1) * 8 + col])

/-- Records of a capsule in a square's deques. -/
def State.squareLoad (s : State) (sq cap : Nat) : Nat :=
  (s.squareCores sq cap).foldl (fun n e => n + (s.core e).deque.length) 0

/-- n records move, one at a time, from the tops of the fullest deques to the tops of the emptiest with room. -/
def State.ship : Nat → State → List Nat → List Nat → State
  | 0, s, _, _ => s
  | n + 1, s, src, dst =>
    match s.fullest src, s.emptiest dst with
    | some a, some b =>
      match (s.core a).topTask with
      | some (t, c') =>
        if (s.core b).deque.length < Config.dequeDepth then
          State.ship n ((s.setCore a c').modCore b fun k => { k with deque := t :: k.deque }) src dst
        else s
      | none => s
    | _, _ => s

/-- The square with the smallest load; the first on ties. -/
def State.leastSquare (s : State) (cap : Nat) : List Nat → Option Nat
  | [] => none
  | q :: qs =>
    match s.leastSquare cap qs with
    | none => some q
    | some b => if s.squareLoad q cap ≤ s.squareLoad b cap then some q else some b

/-- The balancing of one capsule's records in a square. -/
def State.balance (s : State) (sq cap : Nat) : State :=
  match s.leastSquare cap ((neighbours sq).filter fun q => !(s.squareCores q cap).isEmpty) with
  | none => s
  | some q =>
    let l := s.squareLoad sq cap
    let m := s.squareLoad q cap
    if l > m + 8 then State.ship (min 32 ((l - m) / 2)) s (s.squareCores sq cap) (s.squareCores q cap) else s

/-- A record of a continuation that waits for room goes to the bottom of the emptiest deque of the square that has some. -/
def State.placeLate (s : State) (sq cap : Nat) : State :=
  match (s.cap cap).late, s.emptiest ((s.squareCores sq cap).filter fun e => decide ((s.core e).deque.length < Config.dequeDepth)) with
  | t :: ts, some e => (s.modCap cap fun c => { c with late := ts }).modCore e fun k => { k with deque := k.deque ++ [t] }
  | _, _ => s

/-- Event HAWKER_BALANCE (R261): the hawker of a square acts for each capsule with cores in it. -/
def execHawkerBalance (chip die square : Nat) (s : State) : Host.Outcome State Fault Refusal :=
  let sq := chip * 256 + die * 64 + square
  .next ((s.caps.map Prod.fst).foldl (fun s cap => (s.placeLate sq cap).balance sq cap) s)

/-! The governor (R265). -/

/-- Occupancy of a capsule's work queue q on a die. -/
def Chip.occupancy (h : Chip) (cap die q : Nat) : Nat :=
  match h.boundQueue die q cap with
  | some k => (h.wq k).entries.length
  | none => 0

/-- Cores of a capsule on a die whose actors have stage u. -/
def Capsule.stageCores (c : Capsule) (chip die u : Nat) : List Nat :=
  c.cores.filter fun e => dieOf e == chip * 4 + die && c.actors.any fun a => a.ep == e && a.stage == u

/-- The stage that a rule ranks first: the highest, or lowest, of `f`; the lowest number on ties. -/
def bestOf (f : Nat → Nat) (high : Bool) : List Nat → Option Nat
  | [] => none
  | u :: us =>
    match bestOf f high us with
    | none => some u
    | some b => if (if high then decide (f b ≤ f u) else decide (f u ≤ f b)) then some u else some b

/-- One move for a capsule on a die, or none. -/
def State.govern (s : State) (chip die cap : Nat) : State :=
  let c := s.cap cap
  let h := s.chip chip
  let ring := fun u => c.rings.get { queue := 0, low := 0, high := 0 } u
  let occ := fun u => h.occupancy cap die (ring u).queue
  if c.chip ≠ chip ∨ c.rings.length < 15 then s
  else match bestOf occ true ((List.range 15).filter fun u => decide ((ring u).high ≤ occ u)) with
    | none => s
    | some r =>
      let t := r + 1
      let donors := ((List.range 16).drop 1).filter fun u =>
        u != t && decide (2 ≤ (c.stageCores chip die u).length) && decide (occ (u - 1) ≤ (ring (u - 1)).low)
      match bestOf (fun u => occ (u - 1)) false donors with
      | none => s
      | some u => match (c.stageCores chip die u).getLast? with
        | none => s
        | some e => s.modCap cap fun c => { c with actors := c.actors.map fun a => if a.ep = e then { a with stage := t } else a }

/-- Event GOVERNOR_MOVE (R265). -/
def execGovernorMove (chip die : Nat) (s : State) : Host.Outcome State Fault Refusal :=
  .next ((s.caps.map Prod.fst).foldl (fun s cap => s.govern chip die cap) s)

end Sys2Proof.Machine
end

