-- ==== Sys2Proof/Machine/System.lean ====
section
/-!
DEFINITION. Capsule, extent, lease and system instructions (18 R340 to R356).
-/
namespace Sys2Proof.Machine

/-! Special registers (R341 to R343). -/

/-- Every earlier instruction of the firing has completed (R343). -/
def State.allDone (s : State) : Bool := (s.iq.all fun i => i.fir != s.curF.id) && s.settled s.curF

/-- The value of special register n (Table 18.3). -/
def State.special (s : State) (n : Nat) : Word :=
  let x := s.cur
  let f := s.curF
  let c := s.curC
  match n with
  | 0 => f.coord
  | 1 => BitVec.ofNat 64 s.curSlot
  | 2 => BitVec.ofNat 64 f.stage
  | 3 => BitVec.ofNat 64 f.cap
  | 4 => BitVec.ofNat 64 f.budget
  | 5 => c.cycles
  | 6 => x.dline.setWidth 64
  | 7 => x.fctl.setWidth 64
  | 8 => x.fstat.setWidth 64
  | 9 => x.srseed
  | 10 => BitVec.ofNat 64 c.ipol.toNat
  | 11 => x.fltinfo0
  | 12 => x.fltinfo1
  | 13 => x.fltinfo2
  | _ => x.fltinfo3

/-- Members of the pod as the chip's record lists them (R358). -/
def State.podSize (s : State) (c : Nat) : Nat := ((List.range 64).filter (s.isMember c)).length
/-- Chip information (Table 18.7). -/
def State.chipInfo (s : State) (c : Nat) : Word := BitVec.ofNat 64 ((s.podSize c - 1) * 2 ^ 16 + c)

/-- `sysrd` (R341 to R345). -/
def execSysrd (o : Ops) (s : State) : Host.Outcome State Fault Refusal :=
  issue { op := 0x350 } o (fun s v _ =>
    match v.a with
    | .special n => if n = 8 ∧ !s.allDone then .wait else .ok (s.putS o.d (s.special n))
    | w =>
      if w.word = 0 then .ok (s.putS o.d (s.chipInfo (chipOf s.curCore)))
      else if w.word = 0x21 then .ok (s.putS o.d s.cur.regResult)
      else .fault (fIllegal 1)) s

/-- Writes special register n; a register that is read-only, and `budget`, is refused. -/
def State.writeSpecial (s : State) (n : Nat) (w : Word) : Eff :=
  match n with
  | 6 => if w.toNat / 2 ^ 32 ≠ 0 then .fault fReservedValue
      else .ok (s.modCur fun x => { x with dline := w.setWidth 32 })
  | 7 => if !s.allDone then .wait
      else if w.toNat / 32 ≠ 0 ∨ 5 ≤ w.toNat % 8 then .fault fReservedValue
      else .ok (s.modCur fun x => { x with fctl := (x.fctl &&& 0x10) ||| (w.setWidth 5 &&& 0x0F) })
  | 8 => if !s.allDone then .wait else .ok (s.modCur fun x => { x with fstat := x.fstat &&& ~~~(w.setWidth 8) })
  | 9 => if !s.allDone then .wait else .ok (s.modCur fun x => { x with srseed := w })
  | 10 => if w.toNat / 2 ≠ 0 then .fault fReservedValue else .ok (s.modCurC fun c => { c with ipol := w.getLsbD 0 })
  | _ => .fault (fIllegal 0)

/-- `syswr` of a special register, or of a selector that takes no write (R341, R344). -/
def execSyswr (o : Ops) (s : State) : Host.Outcome State Fault Refusal :=
  issue { op := 0x351 } o (fun s v _ =>
    match o.d with
    | .special n => s.writeSpecial n.val v.a.word
    | _ => .fault (fIllegal 0)) s

/-- `syswr #0x20` (R345): the request is performed as `pgo` is. -/
def execSyswrRegisterQueue (o : Ops) (s : State) : Host.Outcome State Fault Refusal :=
  issue { op := 0x351 } o (fun s v _ =>
    let p := v.a.word
    s.access (ptrSlot p) (ptrOff p) 64 64 (permR ||| permW) fun key e =>
      let it := (s.newItem 0x351 (.registerQueue p key)).through (ptrSlot p) e p
      .ok ((s.addItem it .none .raw).modCur fun x => { x with regResult := 0, regLatest := it.id })) s

/-- Performing it: the request goes to the Parser. -/
def State.performRegister (s : State) (it : Item) (key : Nat) : State :=
  if s.barred it || !s.bufferEmpty it then s
  else (s.modChip (chipOf it.ep) fun h =>
    { h with regReqs := h.regReqs ++ [{ id := it.id, cap := it.cap, ep := it.ep, slot := it.slot, fir := it.fir, key := key }] }).done it

/-- `syswr #0x22` (R344, R345). -/
def execSyswrUnregisterQueue (o : Ops) (s : State) : Host.Outcome State Fault Refusal :=
  issue { op := 0x351 } o (fun s v _ =>
    let q := v.a.word.toNat
    if q / 1024 ≠ 0 then .fault fReservedValue
    else
      let f := s.curF
      let r : RegReq := { cap := f.cap, ep := s.curCore, slot := s.curSlot, fir := f.id, key := 0, drop := some q }
      .ok (s.modChip (chipOf s.curCore) fun h => { h with regReqs := h.regReqs ++ [r] })) s

/-! Extents (R346 to R349). -/

/-- A register pair: its first number, 62 or less (R340). -/
def pairReg : Operand → Option Nat
  | .s n _ => if n.val ≤ 62 then some n.val else none
  | _ => none
def pairReads (f : Nat) (o : Operand) : List (Nat × Nat) :=
  match pairReg o with
  | some n => [(f, n + 1)]
  | none => []

/-- The checks of `xderive` once the slot may be set: the new descriptor (R348). -/
def deriveExtent (c : Capsule) (k : Nat) (p : Word) (len attr : Nat) : Except FaultInfo Extent :=
  let x := ptrSlot p
  let o := ptrOff p
  match c.extents.find x with
  | none => .error (fSlot p)
  | some e =>
    if o % 64 ≠ 0 ∨ len % 64 ≠ 0 then .error (fMisaligned p 64)
    else if (if x = 1 then decide (o < e.viewLen 1 - e.viewComm 1 ∨ e.viewLen 1 < o + len) else decide (e.comm < o + len)) then
      .error (fBound p len)
    else
      -- R, W, X, A, E, the reduction window and S may not widen; G may not be set
      let limited := 0xC1F
      if bit attr 5 || attr &&& limited &&& e.attr.toNat != attr &&& limited then .error (fPerm p (attr % 64))
      else .ok { base := e.viewBase x k + o, home := e.home, length := len, comm := len, attr := BitVec.ofNat 12 attr
                 owner := e.owner, derived := true, comm0 := len }

/-- `xderive` (R348): the slot waits until the change is in force on every core (R329). -/
def execXderive (o : Ops) (s : State) : Host.Outcome State Fault Refusal :=
  issue { op := 0x341, reads := fun o => pairReads 2 o.b } o (fun s v _ =>
    let n := (sval (Operand.val o.d).word).toNat
    match pairReg o.b with
    | none => .fault (fIllegal 2)
    | some b =>
      let attr := (v.reg (b + 1)).toNat
      let len := v.b.word.toNat
      if n < 4 then .fault (fIllegal 0)
      else if attr / 4096 ≠ 0 ∨ bits attr 6 2 = 3 then .fault fReservedValue
      else if n < s.curCap.imageSlots then .fault (fCapability (BitVec.ofNat 64 n))
      else if len = 0 then s.holdItem (s.newItem 0x341 (.xderive n none)) .none
      else match deriveExtent s.curCap s.curSlot v.a.word len attr with
        | .error i => .fault i
        | .ok e => s.holdItem (s.newItem 0x341 (.xderive n (some e))) .none) s

/-- Firmware takes a request up only outside a warm reboot (Table 22.4). -/
def State.fwAwake (s : State) (chip : Nat) : Bool := !(s.chip chip).frozen

/-- The change is made on every core of the capsule. -/
def State.performXderive (s : State) (it : Item) (x : Nat) (e : Option Extent) : State :=
  if !s.fwAwake (chipOf it.ep) then s
  else (s.modCap it.cap fun c => { c with extents := match e with
    | some e => c.extents.put x e
    | none => c.extents.del x }).done it

/-- The 8-byte piece of a descriptor (R347), slot 1 as the firing slot k sees it. -/
def Extent.piece (e : Extent) (x k : Nat) (f : Int) : Word :=
  BitVec.ofNat 64 (if f = 0 then e.viewBase x k + e.home * 2 ^ 52
    else if f = 1 then e.viewLen x
    else if f = 2 then e.viewComm x
    else e.owner * 2 ^ 32 + e.attr.toNat)

/-- `xinfo` (R347). -/
def execXinfo (o : Ops) (s : State) : Host.Outcome State Fault Refusal :=
  issue { op := 0x342 } o (fun s v _ =>
    let x := v.a.word.toNat
    let f := sval v.b.word
    if f < 0 ∨ f > 3 then .fault (fIllegal 2)
    else if x > 63 then .fault (fIllegal 1)
    else match s.curCap.extents.find x with
      | none => .ok (s.putS o.d 0)
      | some e => .ok (s.putS o.d (e.piece x s.curSlot f))) s

/-- `xgrow` (R349): while the byte is not committed the slot waits for growth as an access does. -/
def execXgrow (o : Ops) (s : State) : Host.Outcome State Fault Refusal :=
  issue { op := 0x343 } o (fun s v _ =>
    let p := v.a.word
    let x := ptrSlot p
    let off := ptrOff p
    match s.curCap.extents.find x with
    | none => .fault (fSlot p)
    | some e =>
      if !e.has permG then .fault (fPerm p permG)
      else if off ≥ e.viewLen x then .fault (fBound p 1)
      else if e.short x off 1 then .grow x (if x = 1 then (off : Int) else off + 1) (fBound p 1)
      else .ok (s.putS o.d (BitVec.ofNat 64 (e.viewComm x)))) s

/-! Child capsules (R350). -/

/-- `cemit` (R350). -/
def execCemit (o : Ops) (s : State) : Host.Outcome State Fault Refusal :=
  issue { op := 0x340 } o (fun s v _ =>
    let ctl := v.b.word.toNat
    let len := bits ctl 20 32
    let p := v.a.word
    if bits ctl 52 12 ≠ 0 ∨ bits ctl 17 3 ≠ 0 ∨ len = 0 then .fault fReservedValue
    else s.access (ptrSlot p) (ptrOff p) len 64 permR fun key e =>
      let c := s.curCap
      if c.emits ≥ 8 then .ok (s.putS o.d 1)
      else
        let it := (s.newItem 0x340 (.cemit p v.b.word key len c.extents s.cur.dline.toNat)).through (ptrSlot p) e p
        let s := s.modCap s.curF.cap fun c => { c with emits := c.emits + 1 }
        .ok ((s.addItem { it with rel := some .dev } .none .raw).putS o.d 0)) s

/-- Performing it: a release at `.dev`, then the request stands before the Security core. DEDUCED (log 15): a child has
its parent's priority. -/
def State.performCemit (s : State) (it : Item) (ptr ctl : Word) (key len : Nat) (parent : AMap Extent) (stamp : Nat) : State :=
  if s.barred it || !s.relReady it .dev then s
  else
    let c := s.cap it.cap
    let a : Admission :=
      { origin := .child it.cap (bits ctl.toNat 0 16) (ctl.getLsbD 16) ptr stamp, priority := c.priority
        addr := key, image := [], length := len, ownerKey := some c.ownerKey, parent := parent, sealed := c.sealed
        placement := c.placement }
    ((s.modChip (chipOf it.ep) fun h => { h with admissions := h.admissions ++ [a] }).released it.ep .dev).done it

/-! Leases (R352 to R355). -/

/-- Lease handle (Table 18.10). -/
def leaseHandle (ent : Nat) (l : LeaseEnt) : Word := BitVec.ofNat 64 (l.peer * 2 ^ 32 + ent * 2 ^ 16 + l.gen)
/-- The live entry that a handle names. -/
def Capsule.lease (c : Capsule) (h : Word) : Option (Nat × LeaseEnt) :=
  let ent := bits h.toNat 16 4
  match c.leases.find ent with
  | some l => if l.live && h == leaseHandle ent l then some (ent, l) else none
  | none => none

/-- `lease` (R353). -/
def execLease (o : Ops) (s : State) : Host.Outcome State Fault Refusal :=
  issue { op := 0x348 } o (fun s v _ =>
    let w := v.b.word.toNat
    let max := bits w 0 7
    let min := bits w 8 7
    let chip := chipOf s.curCore
    let peer := v.a.word.toNat
    if bit w 7 ∨ bit w 15 ∨ w / 2 ^ 32 ≠ 0 ∨ max < 1 ∨ 64 < max ∨ min < 1 ∨ max < min then .fault fReservedValue
    else if peer > 63 ∨ peer = chip then .fault (fIllegal 1)
    else
      let c := s.curCap
      match (List.range 8).find? fun i => !(c.leases.get {} i).live with
      | none => .ok (s.putS o.d 0)
      | some i =>
        if !s.isMember chip peer || c.leases.any (fun e => e.2.live && e.2.peer == peer) then .ok (s.putS o.d 0)
        else
          let old := (c.leases.get {} i).gen
          let l : LeaseEnt :=
            { gen := if old = 65535 then 1 else old + 1, live := true, peer := peer, state := .pending, max := max
              min := min, mailbox := bits w 16 16, stamp := s.cur.dline.toNat }
          let s := s.modCap s.curF.cap fun c => { c with leases := c.leases.put i l }
          let s := s.modChip chip fun h =>
            { h with fabric := { h.fabric with queue := h.fabric.queue ++ [{ cap := s.curF.cap, ent := i, gen := l.gen, peer := peer }] } }
          .ok (s.putS o.d (leaseHandle i l))) s

/-- `lrel` (R354). -/
def execLrel (o : Ops) (s : State) : Host.Outcome State Fault Refusal :=
  issue { op := 0x349 } o (fun s v _ =>
    .ok (s.addItem { s.newItem 0x349 (.lrel v.a.word) with dst := dstOf o.d } o.d .raw)) s

/-- A lease's wavelengths leave it, each at its next packet boundary (R365), and it holds none. -/
def State.leaseReturn (s : State) (chip cap ent : Nat) : State :=
  let l := (s.cap cap).leases.get {} ent
  let ref : LeaseRef := { cap := cap, ent := ent, gen := l.gen, peer := l.peer }
  let s := s.modCap cap fun c => { c with leases := c.leases.put ent { c.leases.get {} ent with wls := [] } }
  s.modChip chip fun h =>
    let f := h.fabric
    { h with fabric := { f with
        wls := l.wls.foldl (fun m w => m.put w { m.get {} w with returning := some ref }) f.wls
        granted := f.granted.filter (· != ref)
        queue := f.queue.filter (· != ref) } }

/-- The arbiter takes a release. -/
def State.performLrel (s : State) (it : Item) (h : Word) : State :=
  if !s.fwAwake (chipOf it.ep) then s
  else match (s.cap it.cap).lease h with
    | none => s.doneS it 0 false
    | some (ent, l) =>
      let s := s.leaseReturn (chipOf it.ep) it.cap ent
      let s := s.modCap it.cap fun c => { c with leases := c.leases.put ent { gen := l.gen } }
      s.doneS it (BitVec.ofNat 64 l.wls.length) false

def LState.code : LState → Nat
  | .pending => 0
  | .granted => 1
  | .revoked => 2

/-- `lstat` (R355). -/
def execLstat (o : Ops) (s : State) : Host.Outcome State Fault Refusal :=
  issue { op := 0x34A } o (fun s v _ =>
    .ok (s.addItem { s.newItem 0x34A (.lstat v.a.word) with dst := dstOf o.d } o.d .raw)) s

/-- Lease status (Table 18.11). -/
def LeaseEnt.status (l : LeaseEnt) : Word :=
  BitVec.ofNat 64 (2 ^ 63 + l.state.code * 2 ^ 60 + l.peer * 2 ^ 32 + l.max * 2 ^ 8 + l.wls.length)
def State.performLstat (s : State) (it : Item) (h : Word) : State :=
  s.doneS it (match (s.cap it.cap).lease h with
    | some (_, l) => l.status
    | none => 0) false

/-! Attestation (R356). -/

/-- The load of the nonce, of its extent's kind (R356). -/
def State.nonceLoad (s : State) (p : Word) (key : Nat) (e : Extent) : Item :=
  let es := (List.range 4).map fun i => { key := key + 8 * i, w := 8, idx := i : Elem }
  (s.newItem 0x352 (.load es .i64 false false)).through (ptrSlot p) e p
/-- The nonce: nothing while the load could not be performed, and of a nonce homed on another chip while an earlier request of
the core toward that chip is still to be (R71, R369). A poisoned nonce is reported as any poisoned load is (R415) and used as
it stands. -/
def State.readNonce (s : State) (p : Word) (key : Nat) (e : Extent) : Option (List Byte × Bool) :=
  let it := s.nonceLoad p key e
  if s.plainReady it && s.behindOwn it then some (s.readPath (readPlaces it.fir it.ep e.homeKey e.kind) key s.tick 32) else none

/-- `attest` (R356). DEDUCED (log 46): a nonce in the memory of a chip that cannot be reached is not read, the firing has the
outcome of R226, and nothing is asked of the Security core. -/
def execAttest (o : Ops) (s : State) : Host.Outcome State Fault Refusal :=
  issue { op := 0x352 } o (fun s v _ =>
    let ctl := v.d.word
    let n := v.a.word
    let r := v.b.word
    if ctl.toNat / 2 ^ 16 ≠ 0 then .fault fReservedValue
    else if ctl = 0xFFFF then .fault (fIllegal 0)
    else s.access (ptrSlot n) (ptrOff n) 32 8 permR fun nkey ne =>
      s.access (ptrSlot r) (ptrOff r) 640 64 permW fun rkey re =>
        if re.homeKey ≠ chipOf s.curCore then .fault (fPerm r permW)
        else if s.plainReady (s.nonceLoad n nkey ne) && s.lostLoad (s.nonceLoad n nkey ne) then
          .ok (State.failItem (s.addItem (s.nonceLoad n nkey ne) .none .raw) (s.nonceLoad n nkey ne) false)
        else match s.readNonce n nkey ne with
          | none => .wait
          | some (nonce, bad) =>
            let s := if bad then s.ras s.curCore else s
            .ok (s.addItem (s.newItem 0x352 (.attest ctl r nonce rkey s.cur.dline.toNat)) .none .raw)) s

/-- Performing it: the request stands before the Security core, or is answered with 0x01 while another of the capsule's
is in progress. -/
def State.performAttest (s : State) (it : Item) (ctl ptr : Word) (nonce : List Byte) (key stamp : Nat) : State :=
  let chip := chipOf it.ep
  if s.barred it || !s.bufferEmpty it || !s.fwAwake chip then s
  else if (s.cap it.cap).attesting then
    (s.postTyped (.firmware chip 5) it.cap (bits ctl.toNat 0 16) [0] (mkMsg 1 ctl ptr 0 stamp) it.ep 3).done it
  else
    ((s.modCap it.cap fun c => { c with attesting := true }).modChip chip fun h =>
      { h with attests := h.attests ++ [{ cap := it.cap, ctl := ctl, ptr := ptr, nonce := nonce, key := key, stamp := stamp }] }).done it

end Sys2Proof.Machine
end

