-- ==== Sys2Proof/Machine/Trap.lean ====
section
/-!
DEFINITION. The trap instructions (21 R396 to R403).
-/
namespace Sys2Proof.Machine

/-- `trap` (R397): s4 is a source that no field names. -/
def execTrap (o : Ops) (s : State) : Host.Outcome State Fault Refusal :=
  issue { op := 0x360, reads := fun _ => [(3, 4)] } o (fun _ v _ =>
    let n := sval (Operand.val o.d).word
    if n < 0 ∨ n > 65535 then .fault (fIllegal 0)
    else .trap ⟨0x15, toWord n, v.reg 4⟩ clsTrap) s

/-- `tret` (R398): after Budget-exhausted the firing ends whatever k is. -/
def execTret (o : Ops) (s : State) : Host.Outcome State Fault Refusal :=
  issue { op := 0x361 } o (fun s _ _ =>
    let k := sval (Operand.val o.d).word
    if k < 0 ∨ k > 2 then .fault (fIllegal 0)
    else match s.curF.trap with
    | none => .fault (fIllegal 3)
    | some t =>
      let s' := s.modCur fun x => x.tret t k.toNat
      if t.budget ∨ k = 2 then s'.finish none else .jump s' s'.curF.pc) s

/-- A fault record's bytes (Table 21.2). -/
def FaultRec.bytes (r : FaultRec) : List Byte :=
  toBytes 4 (r.code + r.cls * 2 ^ 8 + r.action * 2 ^ 16 + r.nested.toNat * 2 ^ 18) ++ toBytes 4 r.word ++ toBytes 8 r.cap
    ++ toBytes 2 r.ep ++ toBytes 2 r.actor ++ toBytes 1 r.slot ++ toBytes 1 r.fkind ++ toBytes 2 0 ++ toBytes 4 r.seq
    ++ toBytes 4 r.stamp ++ toBytes 8 r.info0.toNat ++ toBytes 8 r.info1.toNat ++ toBytes 8 r.info2.toNat
    ++ toBytes 8 r.info3.toNat

/-- `fltrd` (R399). -/
def execFltrd (o : Ops) (s : State) : Host.Outcome State Fault Refusal :=
  issue { op := 0x362 } o (fun s v _ =>
    let k := sval v.a.word
    if k < 0 ∨ k > 7 then .fault (fIllegal 1)
    else match s.curF.trap with
    | none => .ok (s.putS o.d 0)
    | some t => .ok (s.putS o.d (BitVec.ofNat 64 (lget t.record.bytes (8 * k.toNat) 8)))) s

/-- `fltack` (R401). -/
def execFltack (o : Ops) (s : State) : Host.Outcome State Fault Refusal :=
  issue { op := 0x363 } o (fun s v _ =>
    .ok (s.addItem { s.newItem 0x363 (.fltack v.a.word.toNat) with dst := dstOf o.d } o.d .raw)) s

/-- The Errors core takes an acknowledgement. -/
def State.performFltack (s : State) (it : Item) (a : Nat) : State :=
  if !s.fwAwake (chipOf it.ep) then s
  else
    let c := s.cap it.cap
    let k := max c.acked (min a c.seqNo)
    let s := s.modCap it.cap fun c => { c with acked := k }
    let s := s.modChip (chipOf it.ep) fun h => h.note it.cap (s.cap it.cap)
    s.doneS it (BitVec.ofNat 64 (c.overflow * 2 ^ 32 + (c.seqNo - k))) false

/-- `ckpt` (R400): 16 bytes as one entry, released at `.dev`. -/
def execCkpt (o : Ops) (s : State) : Host.Outcome State Fault Refusal :=
  issue { op := 0x364, reads := fun o => pairReads 0 o.d } o (fun s v _ =>
    let f := s.curF
    let x := s.curCap.contSlot
    match pairReg o.d with
    | none => .fault (fIllegal 0)
    | some n =>
      if !f.isActor ∨ x = 0xFF then .fault (fIllegal 3)
      else s.access x (16 * f.actor : Nat) 16 16 permW fun key e =>
        let v2 := (v.d.word.setWidth 2048 : VBits) ||| ((v.reg (n + 1)).setWidth 2048 <<< 64)
        let it := (s.newItem 0x364 (.store [{ key := key, w := 16, idx := 0 }] v2)).through x e (mkPtr x (16 * f.actor : Nat))
        .ok (s.addItem { it with rel := some .dev } .none .raw)) s

/-- What `poisck` says of a value (R402). -/
def Val.report (c : Core) : Val → Nat
  | .s _ freed poison => freed.toNat * 2 + poison.toNat
  | .v _ t freed => t.code * 4 + freed.toNat * 2 + (t == .poison).toNat
  | .p _ freed => freed.toNat * 2
  | .tile n => (c.issueTag n).code * 4 + (c.issueTag n == .freed).toNat * 2 + (c.issueTag n == .poison).toNat
  | _ => 0

/-- `poisck` (R402). -/
def execPoisck (o : Ops) (s : State) : Host.Outcome State Fault Refusal :=
  issue { op := 0x365, unchecked := [1] } o (fun s v _ => .ok (s.putS o.d (BitVec.ofNat 64 (v.a.report s.curC)))) s

/-- One byte of the signature (R403): CRC-64 of ECMA-182. -/
def sigBit (g : Word) : Word := if g.getLsbD 63 then (g <<< 1) ^^^ 0x42F0E1EBA9EA3693 else g <<< 1
def sigStep (g : Word) (b : Byte) : Word :=
  sigBit (sigBit (sigBit (sigBit (sigBit (sigBit (sigBit (sigBit (g ^^^ (b.setWidth 64 <<< 56)))))))))
def sigFold (g : Word) (bs : List Byte) : Word := bs.foldl sigStep g

/-- `sigacc` (R403). -/
def execSigacc (o : Ops) (s : State) : Host.Outcome State Fault Refusal :=
  issue { op := 0x366 } o (fun s v _ =>
    let bs := match v.a with
      | .v b t _ => (BitVec.ofNat 8 t.code : Byte) :: toBytes 256 b.toNat
      | w => toBytes 8 w.word.toNat
    let sig := sigFold s.curF.sig bs
    let s := s.modF fun f => { f with sig := sig }
    .ok (s.putS o.d sig)) s

end Sys2Proof.Machine
end

