-- ==== Sys2Proof/Machine/Queues.lean ====
section
/-!
DEFINITION. Command queues and packets (11 R228 to R238) and the Parser's side of registrations (18 R345).
-/
namespace Sys2Proof.Machine

/-! Reads and writes of the firmware complex. -/

/-- The read path of Q(dev), or of Q(pod) for another chip (R174). -/
def fwPlaces (chip home : Nat) : List Place := if home = chip ∨ home = 64 then [.dev chip, .pod] else [.pod]
/-- Which of several unfenced unordered entries a byte is taken from is as `tick` has it (R175, log 2). -/
def State.fwRead (s : State) (chip key n : Nat) : List Byte × Bool := s.readPath (fwPlaces chip (homeOf key)) key s.tick n

/-- Entries of up to 8 bytes, in rising order. -/
def fwEntries (place : Place) (chip cap : Nat) (parser : Bool) : Nat → Nat → Nat → List Byte → List Entry
  | 0, _, _, _ => []
  | n + 1, id, key, bs =>
    if bs.isEmpty then []
    else
      { id := id, place := place, key := key, bytes := bs.take 8, party := 0, cap := cap, core := chip * 1024
        kind := .release, fenced := true, parser := parser } :: fwEntries place chip cap parser n id (key + 8) (bs.drop 8)
/-- A firmware core's write, as entries placed where its path begins. -/
def State.fwWrite (s : State) (place : Place) (chip cap key : Nat) (bs : List Byte) (parser : Bool := false) : State :=
  { s with entries := s.entries ++ fwEntries place chip cap parser (bs.length / 8 + 1) s.fresh key bs, fresh := s.fresh + 1 }
/-- What the Parser wrote, and packets' work, has reached the point of a scope (R184). -/
def State.parserReached (s : State) (chip : Nat) (sc : Scope) : Bool :=
  s.entries.all fun e => !(e.parser && chipOf e.core == chip) || e.reached sc

/-- Where a firmware core's own write to a location begins its path (R174): Q(dev), behind every older entry there (R176), or
Q(pod) for another chip's memory. -/
def fwPlace (chip home : Nat) : Place := if home = chip ∨ home = 64 then .dev chip else .pod
/-- A field of the descriptor at `desc`, written by the Parser. -/
def State.parserWrite (s : State) (chip desc off : Nat) (bs : List Byte) : State :=
  s.fwWrite (fwPlace chip (homeOf desc)) chip 0 (desc + off) bs true
/-- Bytes of a queue's ring: one in host memory is read from M (R232). -/
def State.ringRead (s : State) (chip key n : Nat) : List Byte :=
  (s.readPath (if homeOf key = 64 then [] else fwPlaces chip (homeOf key)) key s.tick n).1

/-- A base field of Table 11.1 as a location; none where bits [62:52] are not zero. -/
def rawKey (chip raw : Nat) : Option Nat :=
  if bits raw 52 11 ≠ 0 then none else some (keyOf (if bit raw 63 then 64 else chip) (bits raw 0 52))

/-! Registration. -/

/-- The checks of R228, for a descriptor's fields; the bases as the descriptor gives them. -/
def descOk (b : List Byte) : Bool :=
  let n := lget b 8 4
  let nsig := lget b 0x18 2
  decide (4 ≤ n ∧ n ≤ 65536) && (List.range 17).any (fun i => n == 2 ^ i) && decide (lget b 0x0C 2 ≤ 7)
    && decide (1 ≤ nsig ∧ nsig ≤ 4096) && decide (lget b 0x0E 2 ≤ 1) && lget b 0x1A 6 == 0 && lget b 0x34 12 == 0
    && lget b 0 8 % 256 == 0 && lget b 0x10 8 % 8 == 0

/-- A pointer of a device-side descriptor, wholly inside one extent with R, W and A (R345). -/
def ringAt (c : Capsule) (k : Nat) (p : Word) (n : Nat) : Option Nat :=
  match c.extents.find (ptrSlot p) with
  | some e =>
    if e.has (permR ||| permW ||| permA) && decide (ptrOff p + n ≤ e.viewLen (ptrSlot p)) then
      some (e.key (ptrSlot p) k (ptrOff p))
    else none
  | none => none

/-- A free queue index of a chip, the lowest. DESIGN CHOICE (log 51): R228 does not say which. -/
def Chip.freeQueue (h : Chip) : Option Nat := (List.range 1024).find? fun i => (h.queues.find i).isNone

/-- A queue is created from a descriptor that passes its checks. -/
def Chip.addQueue (h : Chip) (q desc ring sig : Nat) (b : List Byte) (cap : Option Nat) : Chip :=
  { h with
    regCount := h.regCount + 1
    queues := h.queues.put q
      { desc := desc, ring := ring, slots := lget b 8 4, priority := lget b 0x0C 2, enabled := bit (lget b 0x0E 2) 0
        signals := sig, nsignals := lget b 0x18 2, ownerKey := lget b 0x20 8, cap := cap, regNo := h.regCount + 1 } }

/-- The host's registration (R228): the chip's new state and the queue index. -/
def State.registerHost (s : State) (chip desc : Nat) : Option (State × Nat) :=
  match rawKey chip desc with
  | none => none
  | some key =>
    let b := (s.fwRead chip key 64).1
    match rawKey chip (lget b 0 8), rawKey chip (lget b 0x10 8), (s.chip chip).freeQueue with
    | some ring, some sig, some q =>
      if descOk b then some (s.modChip chip fun h => h.addQueue q key ring sig b none, q) else none
    | _, _, _ => none

/-- A device-side registration (R345): the state, or the reason of Table 18.8. -/
def State.registerDevice (s : State) (chip : Nat) (r : RegReq) : Except Nat (State × Nat) :=
  let b := (s.fwRead chip r.key 64).1
  let c := s.cap r.cap
  if !descOk b then .error 0x01
  else match ringAt c r.slot (BitVec.ofNat 64 (lget b 0 8)) (256 * lget b 8 4),
      ringAt c r.slot (BitVec.ofNat 64 (lget b 0x10 8)) (8 * lget b 0x18 2) with
    | some ring, some sig =>
      if addrOf ring % 256 ≠ 0 ∨ addrOf sig % 8 ≠ 0 then .error 0x01
      else if lget b 0x20 8 ≠ c.ownerKey then .error 0x03
      else match (s.chip chip).freeQueue with
        | none => .error 0x04
        | some q =>
          if ((s.chip chip).queues.filter fun e => e.2.cap == some r.cap && !e.2.gone).length ≥ 16 then .error 0x04
          else .ok (s.modChip chip fun h => h.addQueue q r.key ring sig b (some r.cap), q)
    | _, _ => .error 0x02

/-! Packets (R230, Tables 11.2 to 11.4). -/

def Packet.trailer (p : Packet) : Nat := lget p.bytes 0xFC 4
def Packet.ty (p : Packet) : Nat := bits p.trailer 20 4
def Packet.serial (p : Packet) : Bool := !bit p.trailer 18
def Packet.resume (p : Packet) : Bool := bit p.trailer 17
def Packet.signal (p : Packet) : Nat := lget p.bytes 0 2
def zeroFrom (b : List Byte) (off n : Nat) : Bool := ((b.drop off).take n).all fun x => x == 0
/-- The signals a barrier names (R237). -/
def Packet.waits (p : Packet) : List Nat :=
  ((List.range 6).map fun j => lget p.bytes (8 + 2 * j) 2).filter (· != 0xFFFF)

/-- The valid byte of a lap. -/
def lapValid (k n : Nat) : Nat := if k / n % 2 = 0 then 1 else 2

/-- The checks of status 0x03. -/
def Packet.malformed (p : Packet) (n : Nat) : Bool :=
  let t := p.trailer
  let b := p.bytes
  let scopeOk := fun x => x == 5 || x == 6
  let body := match p.ty with
    | 0 => zeroFrom b 8 244
    | 1 => zeroFrom b 0x14 232 && bits (lget b 8 8) 52 11 == 0 && lget b 8 8 % 64 == 0
    | 2 => zeroFrom b 0x14 232
    | 3 => decide (lget b 0x0A 2 ≤ 1) && zeroFrom b 0x0C 4 && zeroFrom b 0x18 228
    | _ => false
  bits t 24 8 != lapValid p.k n || bit t 19 || bit t 16 || bits t 0 10 != 0 || !scopeOk (bits t 13 3)
    || !scopeOk (bits t 10 3) || lget b 2 2 != 0 || !body
/-- The checks of status 0x06. -/
def Packet.strayed (p : Packet) (nsig : Nat) : Bool :=
  (p.signal != 0xFFFF && decide (nsig ≤ p.signal)) || (p.ty == 3 && decide (nsig ≤ lget p.bytes 8 2))
    || (p.ty == 2 && p.waits.any fun i => decide (nsig ≤ i))

def State.queue (s : State) (chip q : Nat) : Option CQueue := (s.chip chip).queues.find q
def State.modQueue (s : State) (chip q : Nat) (f : CQueue → CQueue) : State :=
  match s.queue chip q with
  | some c => s.modChip chip fun h => { h with queues := h.queues.put q (f c) }
  | none => s
def CQueue.modPacket (c : CQueue) (k : Nat) (f : Packet → Packet) : CQueue :=
  { c with packets := c.packets.map fun p => if p.k = k then f p else p }
/-- A packet's work is done, with a status. -/
def State.finishPacket (s : State) (chip q k st : Nat) : State :=
  s.modQueue chip q fun c => c.modPacket k fun p => { p with started := true, status := some st }

/-! Taking packets (R232, R233). -/

/-- The slot the Parser takes next, where it is published. -/
def State.published (s : State) (chip : Nat) (c : CQueue) : Bool :=
  let slot := c.ring + 256 * (c.head % c.slots)
  let v := ofBytes (s.ringRead chip (slot + 0xFF) 1)
  v != 0 && v != 3 - lapValid c.head c.slots
/-- The Parser has something to take from the queue. -/
def State.takable (s : State) (chip : Nat) (c : CQueue) : Bool :=
  c.enabled && !c.gone && decide (c.packets.length < 16) && s.published chip c

/-- A doorbell arrives once its release has reached the release's point: it follows the release (R218). DEDUCED (log 20). -/
def State.rings (s : State) (b : Bell) : Bool := s.entries.all fun e => e.id != b.entry || e.reached b.scope
/-- The enabled queue whose ring a doorbell names. -/
def Chip.bellQueue (h : Chip) (b : Bell) : Option Nat :=
  (h.queues.find? fun e => e.2.enabled && !e.2.gone
    && decide (e.2.ring ≤ b.key ∧ b.key < e.2.ring + 256 * e.2.slots)).map Prod.fst
/-- The doorbells of one queue arrive, and become a look at it; those that name no enabled queue are ignored (R218, R233).
Doorbells of different queues have no order. -/
def State.seeDoorbells (s : State) (chip queue : Nat) : State :=
  s.modChip chip fun h =>
    let here := fun (b : Bell) => s.rings b && h.bellQueue b == some queue
    { h with
      doorbells := h.doorbells.filter fun b => !here b && !(s.rings b && (h.bellQueue b).isNone)
      looks := if h.doorbells.any here && !h.looks.contains queue then h.looks ++ [queue] else h.looks }

/-- The queue whose turn it is among those with a packet to take: highest priority, then round-robin (R233). -/
def turn (h : Chip) (ready : List (Nat × CQueue)) : Option Nat :=
  let top := ready.foldl (fun m e => max m e.2.priority) 0
  let mine := ready.filter fun e => e.2.priority == top
  let last := h.lastServed.get 0 top
  let best := fun (l : List (Nat × CQueue)) =>
    l.foldl (fun (b : Option (Nat × CQueue)) e => match b with
      | none => some e
      | some x => if e.2.regNo < x.2.regNo then some e else b) none
  match best (mine.filter fun e => decide (last < e.2.regNo)) with
  | some e => some e.1
  | none => (best mine).map Prod.fst

/-- Event QUEUE_DOORBELL (R233): the Parser's look at a queue takes one packet when it is the queue's turn, and ends at
an unpublished slot or with 16 packets held. The write of head is a release at `.sys` (R232): the packet is taken once what the
Parser wrote before has reached Q(pod). DESIGN CHOICE (log 51): a ring slot whose read meets an uncorrectable error is taken with
the bytes it has; the spec gives it no outcome. -/
def execQueueDoorbell (chip queue : Nat) (s : State) : Host.Outcome State Fault Refusal :=
  let s := s.seeDoorbells chip queue
  let h := s.chip chip
  if h.frozen || !h.looks.contains queue then .next s
  else
    let drop := fun (s : State) => s.modChip chip fun h => { h with looks := h.looks.filter (· != queue) }
    match s.queue chip queue with
    | none => .next (drop s)
    | some c =>
      if !s.takable chip c then .next (drop s)
      else
        let ready := h.queues.filter fun e => h.looks.contains e.1 && s.takable chip e.2
        if turn h ready != some queue || !s.parserReached chip .sys then .next s
        else
          let b := s.ringRead chip (c.ring + 256 * (c.head % c.slots)) 256
          let s := s.modQueue chip queue fun c =>
            { c with head := c.head + 1, packets := c.packets ++ [{ k := c.head, bytes := b }] }
          let s := s.modChip chip fun h => { h with lastServed := h.lastServed.put c.priority c.regNo }
          .next (s.parserWrite chip c.desc 0x28 (toBytes 4 (c.head + 1)))

/-! Starting and completing (R234 to R238). -/

/-- One check of a barrier (R237): its status, or nothing while it waits. DESIGN CHOICE (log 51): of an uncorrectable error and a
negative signal in one check the error is its status. -/
def State.checkBarrier (s : State) (chip : Nat) (c : CQueue) (p : Packet) : Option Nat :=
  let rs := p.waits.map fun i => s.fwRead chip (c.signals + 8 * i) 8
  let neg := fun (r : List Byte × Bool) => bit (ofBytes r.1) 63
  if rs.any Prod.snd then some 0x0C
  else if rs.any neg then some 0x02
  else if rs.all fun r => ofBytes r.1 == 0 then some 0x00
  else none

/-- Every started barrier of the chip that waits is checked again. -/
def State.checkBarriers (s : State) (chip : Nat) : State :=
  s.modChip chip fun h => { h with queues := h.queues.map fun e =>
    (e.1, { e.2 with packets := e.2.packets.map fun p =>
      if p.started && p.status.isNone && p.ty == 2 then { p with status := s.checkBarrier chip e.2 p } else p }) }

/-- A queue that is unregistered and has no packet left is gone. -/
def Chip.dropQueue (h : Chip) (q : Nat) : Chip :=
  match h.queues.find q with
  | some c => if c.gone && c.packets.isEmpty then { h with queues := h.queues.del q } else h
  | none => h

/-- From the step that unregisters a queue no more packets are taken; those not started, and barriers that wait,
complete with 0x01 (R345). -/
def State.unregister (s : State) (chip q : Nat) : State :=
  (s.modQueue chip q fun c =>
    { c with gone := true, packets := c.packets.map fun p =>
        if !p.started || (p.ty == 2 && p.status.isNone) then { p with started := true, status := some 0x01 } else p }).modChip
    chip fun h => { h with looks := h.looks.filter (· != q) }.dropQueue q

/-- Packets that are published in a queue's ring and not yet taken. -/
def State.untaken (s : State) (chip : Nat) : Nat → CQueue → List Packet
  | 0, _ => []
  | n + 1, c =>
    if s.published chip c then
      { k := c.head, bytes := s.ringRead chip (c.ring + 256 * (c.head % c.slots)) 256 }
        :: s.untaken chip n { c with head := c.head + 1 }
    else []

/-- The packet is a barrier that names the signal at a location. -/
def CQueue.barrierOn (c : CQueue) (key : Nat) (p : Packet) : Bool :=
  p.ty == 2 && p.status.isNone && p.waits.any fun i => c.signals + 8 * i == key

/-- The release of step 1 of a completion is promoted (R196, R236): the signal array lies in host memory or on another chip, or
a barrier of a queue registered or homed on another chip names the signal, started or not. -/
def State.promoted (s : State) (chip : Nat) (c : CQueue) (sig : Nat) : Bool :=
  let key := c.signals + 8 * sig
  homeOf c.signals != chip || (sig != 0xFFFF && s.chips.any fun h => h.2.queues.any fun e =>
    (h.1 != chip || (homeOf e.2.ring != chip && homeOf e.2.ring != 64))
      && (e.2.packets.any (e.2.barrierOn key) || (s.untaken h.1 e.2.slots e.2).any (e.2.barrierOn key)))
/-- The scope of the release of step 1 (R236). -/
def State.packetScope (s : State) (chip : Nat) (c : CQueue) (p : Packet) : Scope :=
  if bits p.trailer 10 3 = 6 || s.promoted chip c p.signal then .sys else .dev

/-- The error word of a queue's descriptor, as the Parser's own writes leave it. -/
def State.errorWord (s : State) (chip : Nat) (c : CQueue) : Nat := ofBytes (s.fwRead chip (c.desc + 0x2C) 4).1

/-- Steps 2 and 3 of a completion (R236), its release made; an atomic that meets an uncorrectable error is reported (R204).
DESIGN CHOICE (log 51): the completer of host memory refuses none of the Parser's atomics; the spec gives a packet no status
for it. -/
def State.completePacket (s : State) (chip q : Nat) (c : CQueue) (p : Packet) (st : Nat) : State :=
  let inRange := p.signal != 0xFFFF && decide (p.signal < c.nsignals)
  let a := if inRange then
      let r := s.atM (if st = 0 then .add else .swap) .i64 (c.signals + 8 * p.signal) (BitVec.ofInt 64 (-1)) 0
      if r.2.2 then (r.1.ras (chip * 1024), 0x0C) else (r.1, st)
    else (s, st)
  let s := a.1
  let st := a.2
  let s := if st ≠ 0 ∧ s.errorWord chip c = 0 then
      s.parserWrite chip c.desc 0x2C (toBytes 4 (p.k % c.slots * 65536 + st * 256) ++ toBytes 4 (lget p.bytes 4 4))
    else s
  let s := s.modQueue chip q fun c =>
    { c with packets := c.packets.filter fun x => x.k != p.k, aborting := c.aborting || st != 0 }
  let s := s.modChip chip fun h =>
    { h.dropQueue q with
      looks := if c.enabled && !c.gone && !h.looks.contains q then h.looks ++ [q] else h.looks
      msix := if c.cap.isNone then h.msix ++ [2 + q % 2046] else h.msix }
  s.checkBarriers chip

/-- A packet whose outcome is known and whose release can be made. -/
def State.ripe (s : State) (chip : Nat) : Option (Nat × CQueue × Packet × Nat) :=
  (s.chip chip).queues.findSome? fun e => e.2.packets.findSome? fun p =>
    match p.status with
    | some st => if s.parserReached chip (s.packetScope chip e.2 p) then some (e.1, e.2, p, st) else none
    | none => none
/-- Packets complete as their outcome is known, each once its release can be made; the fuel bounds their number. -/
def State.settleGo (chip : Nat) : Nat → State → State
  | 0, s => s
  | n + 1, s =>
    match s.ripe chip with
    | some (q, c, p, st) => State.settleGo chip n (s.completePacket chip q c p st)
    | none => s
def State.settle (s : State) (chip : Nat) : State :=
  State.settleGo chip ((s.chip chip).queues.foldl (fun n e => n + e.2.packets.length) 0) s

/-- A packet's outcome is known (R235, R237, R238): it completes at once, or as soon as its release can be made. -/
def State.conclude (s : State) (chip q k st : Nat) : State := (s.finishPacket chip q k st).settle chip

/-- A packet whose release its capsule has made completes (R23, R236). -/
def State.completeByNumber (s : State) (chip q k st : Nat) : State :=
  let s := s.finishPacket chip q k st
  match s.queue chip q with
  | some c => match c.packets.find? fun p => p.k == k with
    | some p => (s.completePacket chip q c p st).settle chip
    | none => s
  | none => s

/-- A packet whose outcome is known waits for its release. The Parser starts no packet meanwhile: what follows a completion follows
all of its steps. DEDUCED (log 51). -/
def Chip.completing (h : Chip) : Bool := h.queues.any fun e => e.2.packets.any fun p => p.status.isSome

/-- Event BARRIER_CHECK (R237). -/
def execBarrierCheck (chip : Nat) (s : State) : Host.Outcome State Fault Refusal :=
  .next (if (s.chip chip).frozen then s else (s.checkBarriers chip).settle chip)

/-- A packet's work (R235): a nop completes at its start, a barrier at the check that decides it, a signal packet as its atomic is
performed. -/
def State.work (s : State) (chip q : Nat) (c : CQueue) (p : Packet) : State :=
  let started := s.modQueue chip q fun c => c.modPacket p.k fun p => { p with started := true }
  match p.ty with
  | 0 => s.conclude chip q p.k 0
  | 1 =>
    let a : Admission :=
      { origin := .packet chip q p.k, priority := c.priority, addr := (rawKey chip (lget p.bytes 8 8)).getD 0, image := []
        length := lget p.bytes 0x10 4, ownerKey := some c.ownerKey }
    started.modChip chip fun h => { h with admissions := h.admissions ++ [a] }
  | 2 => match s.checkBarrier chip c p with
    | some st => s.conclude chip q p.k st
    | none => started
  | _ =>
    let r := s.atM (if lget p.bytes 0x0A 2 = 0 then .add else .swap) .i64 (c.signals + 8 * lget p.bytes 8 2)
      (BitVec.ofNat 64 (lget p.bytes 0x10 8)) 0
    if r.2.2 then (r.1.ras (chip * 1024)).conclude chip q p.k 0x0C else r.1.conclude chip q p.k 0

/-- Event PACKET_START (R234, R238): a serial packet after every earlier one of its queue has completed, an overlapped
one after every earlier one has started. One that is aborted, or fails a check of status 0x03 or 0x06, does no work and
completes at once. -/
def execPacketStart (chip queue idx : Nat) (s : State) : Host.Outcome State Fault Refusal :=
  match s.queue chip queue with
  | none => .next s
  | some c =>
    match c.packets[idx]? with
    | none => .next s
    | some p =>
      let before := c.packets.take idx
      if (s.chip chip).frozen || (s.chip chip).completing || p.started || !(if p.serial then before.isEmpty else before.all Packet.started) then .next s
      else if c.aborting && !p.resume then .next (s.conclude chip queue p.k 0x01)
      else
        let s := s.modQueue chip queue fun c => { c with aborting := false }
        if p.malformed c.slots then .next (s.conclude chip queue p.k 0x03)
        else if p.strayed c.nsignals then .next (s.conclude chip queue p.k 0x06)
        else .next (s.work chip queue c p)

/-- Event PACKET_COMPLETE (R236): a packet whose work is done completes, once its release can be made. -/
def execPacketComplete (chip queue idx : Nat) (s : State) : Host.Outcome State Fault Refusal :=
  match s.queue chip queue with
  | none => .next s
  | some c =>
    match c.packets[idx]? with
    | none => .next s
    | some p =>
      match p.status with
      | none => .next s
      | some st => .next (if (s.chip chip).frozen || !s.parserReached chip (s.packetScope chip c p) then s
          else (s.completePacket chip queue c p st).settle chip)

/-! The Parser's answers (R345, Table 18.8). -/

/-- The answer to the slot's most recent registration; one that a later registration of the slot has replaced is told to
nobody (R344). -/
def State.answer (s : State) (r : RegReq) (w : Nat) : State :=
  if (s.core r.ep).cap = some r.cap ∧ (s.slot r.ep r.slot).regLatest = r.id then
    s.modSlot r.ep r.slot fun x => { x with regResult := BitVec.ofNat 64 w }
  else s

/-- Event QUEUE_REGISTRATION_ANSWER (R345): the oldest device-side request. -/
def execQueueRegistrationAnswer (chip : Nat) (s : State) : Host.Outcome State Fault Refusal :=
  match (s.chip chip).regReqs with
  | [] => .next s
  | r :: rs =>
    if (s.chip chip).frozen then .next s
    else
      let s := s.modChip chip fun h => { h with regReqs := rs }
      match r.drop with
      | some q =>
        match s.queue chip q with
        | some c => .next (if c.cap = some r.cap then s.unregister chip q else s)
        | none => .next s
      | none =>
        match s.registerDevice chip r with
        | .ok (t, q) => .next (t.answer r (2 ^ 63 + q))
        | .error reason => .next (s.answer r (2 ^ 63 + 2 ^ 62 + reason * 2 ^ 48))

end Sys2Proof.Machine
end

