-- ==== Sys2Proof/Machine/Fabric.lean ====
section
/-!
DEFINITION. Wavelengths, leases and packets of the fabric (19 R359 to R367, R378 to R381).
-/
namespace Sys2Proof.Machine

/-- Changes the fabric of a chip that is there. -/
def State.modFabric (s : State) (chip : Nat) (f : Fabric → Fabric) : State :=
  match s.chips.find chip with
  | some h => { s with chips := s.chips.put chip { h with fabric := f h.fabric } }
  | none => s
def State.fabric (s : State) (chip : Nat) : Fabric := (s.chip chip).fabric

/-! Taking wavelengths (R364). -/

/-- Of peers with more than one in their base set, other than p, the one with the largest; the lowest number on ties. -/
def largest (size : Nat → Nat) (p : Nat) : List Nat → Option Nat
  | [] => none
  | q :: qs =>
    match largest size p qs with
    | none => if q ≠ p ∧ 1 < size q then some q else none
    | some b => if q ≠ p ∧ 1 < size q ∧ size b ≤ size q then some q else some b
/-- The one furthest below 4; the lowest number on ties (R365). -/
def smallest (size : Nat → Nat) : List Nat → Option Nat
  | [] => none
  | q :: qs =>
    match smallest size qs with
    | none => if size q < 4 then some q else none
    | some b => if size q < 4 ∧ size q ≤ size b then some q else some b

def Fabric.baseOf (f : Fabric) (p : Nat) : List Nat := f.base.get [] p
/-- Wavelengths that a request toward p can take. -/
def Fabric.txRoom (f : Fabric) (p : Nat) : Nat :=
  f.spare.length + (f.base.filter fun e => e.1 != p).foldl (fun n e => n + (e.2.length - 1)) 0
/-- Receive wavelengths that p can admit from a sender. -/
def Fabric.rxRoom (f : Fabric) (sender : Nat) : Nat :=
  f.rspare.length + (f.rbase.filter fun e => e.1 != sender).foldl (fun n e => n + (e.2.length - 1)) 0
def Fabric.rbaseOf (f : Fabric) (sender : Nat) : List Nat := f.rbase.get [] sender

/-- One transmit wavelength toward p: from the spare pool, else the highest of the largest base set; with the peer it was
taken from. -/
def Fabric.takeTx (f : Fabric) (p : Nat) : Option (Nat × Option Nat × Fabric) :=
  match f.spare with
  | w :: ws => some (w, none, { f with spare := ws })
  | [] =>
    match largest (fun q => (f.baseOf q).length) p (f.base.map Prod.fst) with
    | none => none
    | some q =>
      match (f.baseOf q).getLast? with
      | none => none
      | some w => some (w, some q, { f with base := f.base.put q (f.baseOf q).dropLast })
/-- Wavelengths in increasing number. -/
def insertWl (w : Nat) (ws : List Nat) : List Nat := ws.filter (· < w) ++ [w] ++ ws.filter (w < ·)

/-- One receive wavelength for a sender, by the same rule; none while every other sender's base set is down to 1. -/
def Fabric.takeRx (f : Fabric) (sender : Nat) : Option Nat × Fabric :=
  match f.rspare with
  | w :: ws => (some w, { f with rspare := ws })
  | [] =>
    match largest (fun q => (f.rbaseOf q).length) sender (f.rbase.map Prod.fst) with
    | none => (none, f)
    | some q => ((f.rbaseOf q).getLast?, { f with rbase := f.rbase.put q (f.rbaseOf q).dropLast })
/-- The receive wavelength that a transmit wavelength of a sender's base set held joins the spare pool (R360). DEDUCED
(log 46): base sets give up their highest-numbered wavelengths on both sides. -/
def Fabric.loseRx (f : Fabric) (sender : Nat) : Fabric :=
  match (f.rbaseOf sender).getLast? with
  | some w => { f with rbase := f.rbase.put sender (f.rbaseOf sender).dropLast, rspare := insertWl w f.rspare }
  | none => f
/-- A receive wavelength is taken for a transmit wavelength that joins a sender's base set (R360). -/
def Fabric.gainRx (f : Fabric) (sender : Nat) : Fabric :=
  match (f.takeRx sender).1 with
  | some w => { (f.takeRx sender).2 with rbase := (f.takeRx sender).2.rbase.put sender (insertWl w ((f.takeRx sender).2.rbaseOf sender)) }
  | none => f

/-- n wavelengths of a chip toward p, with the receive sides that change: the state, the transmit wavelengths, and the
receive wavelengths of p that go with them. -/
def State.takeMany (s : State) (chip p : Nat) : Nat → List Nat → List Nat → State × List Nat × List Nat
  | 0, ws, rs => (s, ws, rs)
  | n + 1, ws, rs =>
    match (s.fabric chip).takeTx p with
    | none => (s, ws, rs)
    | some (w, from_, f) =>
      let s := s.modFabric chip fun _ => f
      let s := match from_ with
        | some q => s.modFabric q fun f => f.loseRx chip
        | none => s
      let r := (s.fabric p).takeRx chip
      (s.modFabric p fun _ => r.2).takeMany chip p n (insertWl w ws) (rs ++ r.1.toList)

/-! Leases (R363 to R366). -/

def State.leaseOf (s : State) (r : LeaseRef) : LeaseEnt := (s.cap r.cap).leases.get {} r.ent
def State.setLease (s : State) (r : LeaseRef) (l : LeaseEnt) : State :=
  s.modCap r.cap fun c => { c with leases := c.leases.put r.ent l }

/-- The message of a change of a lease (R353), from the Link core: where it is held, only that core's later messages to the
mailbox wait behind it (Table 14.13). -/
def State.leaseMessage (s : State) (chip : Nat) (r : LeaseRef) : State :=
  let l := s.leaseOf r
  if l.mailbox = 0xFFFF then s
  else s.postTyped (.firmware chip 4) r.cap l.mailbox [0]
    (mkMsg (leaseHandle r.ent l) (BitVec.ofNat 64 l.state.code) (BitVec.ofNat 64 l.wls.length) 0 l.stamp) (chip * 1024) 3

/-- What the head request can be granted (R363); nothing toward a peer that cannot be reached (R382). -/
def State.grantable (s : State) (chip : Nat) (r : LeaseRef) : Nat :=
  if !s.reachable chip r.peer || (s.chips.find r.peer).isNone then 0
  else min (s.leaseOf r).max (min ((s.fabric chip).txRoom r.peer) ((s.fabric r.peer).rxRoom chip))

/-- Event LEASE_GRANT (R363): the lease arbiter tests the request at the head of its queue. -/
def execLeaseGrant (chip : Nat) (s : State) : Host.Outcome State Fault Refusal :=
  match (s.fabric chip).queue with
  | [] => .next s
  | r :: rs =>
    let g := s.grantable chip r
    if (s.chip chip).frozen || g < (s.leaseOf r).min then .next s
    else
      let t := s.takeMany chip r.peer g [] []
      let s := t.1.setLease r { t.1.leaseOf r with state := .granted, wls := t.2.1 }
      let s := s.modFabric chip fun f => { f with queue := rs, granted := f.granted ++ [r] }
      let s := s.modFabric r.peer fun f => { f with inbound := f.inbound ++ [(chip, r, t.2.2)] }
      .next (s.leaseMessage chip r)

/-- A granted lease is revoked: it holds none, its wavelengths return (R366). -/
def State.revoke (s : State) (chip : Nat) (r : LeaseRef) : State :=
  let s := s.leaseReturn chip r.cap r.ent
  (s.setLease r { s.leaseOf r with state := .revoked }).leaseMessage chip r

/-- Event LEASE_REVOKE (R366): a request that cannot be granted has stood at the head for 2^20 gateway cycles; the lease
granted longest ago is revoked. -/
def execLeaseRevoke (chip : Nat) (s : State) : Host.Outcome State Fault Refusal :=
  match (s.fabric chip).queue, (s.fabric chip).granted with
  | q :: _, r :: _ => .next (if s.grantable chip q < (s.leaseOf q).min then s.revoke chip r else s)
  | _, _ => .next s

/-- Some chip's head request is toward this chip and is not admitted by it. -/
def State.refusing (s : State) (chip : Nat) : Bool :=
  s.chips.any fun h => match h.2.fabric.queue with
    | r :: _ => r.peer == chip && decide ((s.fabric chip).rxRoom h.1 < (s.leaseOf r).min)
    | [] => false

/-- Event RECEIVE_REVOKE_REQUEST (R366): the sender of the inbound lease held longest is asked to revoke it. -/
def execReceiveRevokeRequest (chip : Nat) (s : State) : Host.Outcome State Fault Refusal :=
  if !s.refusing chip then .next s
  else match (s.fabric chip).inbound.find? fun e => (s.fabric e.1).granted.contains e.2.1 with
    | some e => .next (s.revoke e.1 e.2.1)
    | none => .next s

/-- The receive wavelengths of an inbound lease. -/
def Fabric.inboundOf (f : Fabric) (sender : Nat) (r : LeaseRef) : List Nat :=
  ((f.inbound.find? fun e => e.1 == sender && e.2.1 == r).map fun e => e.2.2).getD []
/-- An inbound lease holds other receive wavelengths; with none it is over. -/
def Fabric.setInbound (f : Fabric) (sender : Nat) (r : LeaseRef) (ws : List Nat) : Fabric :=
  let now := f.inbound.map fun e => if e.1 = sender ∧ e.2.1 = r then (e.1, e.2.1, ws) else e
  { f with inbound := now.filter fun e => !e.2.2.isEmpty }
/-- An inbound lease holds one receive wavelength fewer, the last it took. -/
def Fabric.loseInbound (f : Fabric) (sender : Nat) (r : LeaseRef) : Fabric :=
  f.setInbound sender r (f.inboundOf sender r).dropLast
/-- One wavelength of an inbound lease returns to the receiver's base sets or its spare pool (R365). -/
def Fabric.returnRx (f : Fabric) (sender : Nat) (r : LeaseRef) : Fabric :=
  match (f.inboundOf sender r).getLast? with
  | none => f
  | some w =>
    let g := f.loseInbound sender r
    match smallest (fun q => (f.rbaseOf q).length) (f.rbase.map Prod.fst) with
    | some q => { g with rbase := f.rbase.put q (insertWl w (f.rbaseOf q)) }
    | none => { g with rspare := insertWl w f.rspare }
/-- A retired wavelength of a lease gives way to another: its receive wavelength retires with it (R379), and one more is
taken for its successor (R380). -/
def Fabric.swapInbound (f : Fabric) (sender : Nat) (r : LeaseRef) : Fabric :=
  let t := f.takeRx sender
  t.2.setInbound sender r ((f.inboundOf sender r).dropLast ++ t.1.toList)

/-- A packet has no more flits for a wavelength, or none on it that it could send. -/
def FabricPacket.leave (p : FabricPacket) (wl : Nat) : FabricPacket := { p with lanes := p.lanes.filter (· != wl) }
/-- Packets that still have flits to send. -/
def openPackets (ps : List FabricPacket) : List FabricPacket := ps.filter fun p => !p.lanes.isEmpty

/-- Event LEASE_WAVELENGTH_RETURN (R365): a packet boundary on a wavelength that has left its lease; a retired one
returns on neither side (R379), and one that is retraining still has flits to send (R378). -/
def execLeaseWavelengthReturn (chip wl : Nat) (s : State) : Host.Outcome State Fault Refusal :=
  let f := s.fabric chip
  let w := f.wls.get {} wl
  match (if w.state = .retraining then none else w.returning) with
  | none => .next s
  | some r =>
    let s := s.modFabric chip fun f => { f with
      wls := f.wls.put wl { w with returning := none }, packets := openPackets (f.packets.map fun p => p.leave wl) }
    if w.state = .retired then .next (s.modFabric r.peer fun f => f.loseInbound chip r)
    else
      let s := s.modFabric r.peer fun f => f.returnRx chip r
      match smallest (fun q => (f.baseOf q).length) (f.base.map Prod.fst) with
      | some q =>
        let s := s.modFabric chip fun f => { f with base := f.base.put q (insertWl wl (f.baseOf q)) }
        .next (s.modFabric q fun f => f.gainRx chip)
      | none => .next (s.modFabric chip fun f => { f with spare := insertWl wl f.spare })

/-! Flits (R361). -/

/-- One bit of the CRC-32 of IEEE 802.3: the polynomial 0x04C1_1DB7, its bits and those of each byte taken from the lowest. -/
def crcBit (c : BitVec 32) : BitVec 32 := if c.getLsbD 0 then c >>> 1 ^^^ 0xEDB88320#32 else c >>> 1
def crcByte (c : BitVec 32) (b : Byte) : BitVec 32 := (List.range 8).foldl (fun c _ => crcBit c) (c ^^^ b.setWidth 32)
/-- PRESUMED (log 46): the standard that R361 names begins with ones and complements the result. -/
def crc32 (bs : List Byte) : BitVec 32 := ~~~ bs.foldl crcByte 0xFFFFFFFF#32

/-- A flit: head, 56 bytes of payload, and the CRC-32 of those 60 bytes, lowest byte first (R361). -/
def flitBytes (seqNo kind : Nat) (payload : List Byte) : List Byte :=
  let body := toBytes 4 (Config.flitHead seqNo kind) ++ payload
  body ++ toBytes 4 (crc32 body).toNat
/-- The receiver's check of a flit (R378). -/
def flitGood (flit : List Byte) : Bool := crc32 (flit.take 60) == BitVec.ofNat 32 (ofBytes (flit.drop 60))

/-- Payload bytes that a packet of n data flits can carry (R361). -/
def packetBytes (n : Nat) : Nat := 56 * n
/-- The wavelength of flit i of a packet, the header flit being flit 0 (R361). -/
def laneOf (wset : List Nat) (i : Nat) : Option Nat := wset[i % wset.length]?
/-- The flits of a packet with n data flits that go to a wavelength. -/
def flitsOn (wset : List Nat) (n wl : Nat) : Nat := ((List.range (n + 1)).filter fun i => laneOf wset i == some wl).length

/-! Packets (R361, R381). -/

/-- The wavelengths of a capsule's lease toward a peer of its chip. -/
def State.leasedTo (s : State) (chip peer cap : Nat) : List Nat :=
  if (s.cap cap).chip = chip then
    match (s.cap cap).leases.find? fun e => e.2.live && e.2.peer == peer with
    | some e => e.2.wls
    | none => []
  else []
/-- The wavelength set of a packet that begins now: the base set with the capsule's lease, without those being retrained and
those that a packet toward another peer has yet to leave (R381). -/
def State.packetSet (s : State) (chip peer cap : Nat) : List Nat :=
  let f := s.fabric chip
  ((s.leasedTo chip peer cap).foldl (fun ws w => insertWl w ws) (f.baseOf peer)).filter fun w =>
    (f.wls.get {} w).state == .good && f.packets.all fun p => p.peer == peer || !p.lanes.contains w

/-- The flits that earlier packets toward a peer have yet to send: those of wavelengths that are retraining (R378); the
others go before the flits of the packet that begins now. -/
def Fabric.waitingFlits (f : Fabric) (peer : Nat) : List FabricPacket :=
  openPackets (f.packets.map fun p =>
    if p.peer = peer then { p with lanes := p.lanes.filter fun w => (f.wls.get {} w).state == .retraining } else p)

/-- Event PACKET_HEADER_FLIT (R361, R381): a packet of a capsule toward a peer begins on its set, and each flit has its
number on its wavelength. -/
def execPacketHeaderFlit (chip peer cap flits : Nat) (s : State) : Host.Outcome State Fault Refusal :=
  let wset := s.packetSet chip peer cap
  if flits > 64 ∨ !s.isMember chip peer ∨ wset.isEmpty then .next s
  else .next (s.modFabric chip fun f => { f with
    wls := wset.foldl (fun m w => m.put w { m.get {} w with seq := (m.get {} w).seq + flitsOn wset flits w }) f.wls
    packets := f.waitingFlits peer ++
      [{ peer := peer, cap := cap, flits := flits, wset := wset, lanes := wset.filter fun w => flitsOn wset flits w != 0 }] })

/-! Replay, retraining and retirement (R378 to R380). -/

def State.modWl (s : State) (chip wl : Nat) (g : Wl → Wl) : State :=
  s.modFabric chip fun f => { f with wls := f.wls.put wl (g (f.wls.get {} wl)) }

/-- The lease that holds a wavelength. -/
def State.holder (s : State) (chip wl : Nat) : Option LeaseRef :=
  (s.fabric chip).granted.find? fun r => (s.leaseOf r).wls.contains wl

/-- The flits that a retired wavelength has not sent go to another wavelength of their packet's set (R381). With none left
the packet is not sent; its requests are, once more (R370). -/
def FabricPacket.retire (p : FabricPacket) (wl : Nat) : FabricPacket :=
  let rest := p.wset.filter (· != wl)
  { p.leave wl with
    wset := rest
    lanes := if p.lanes.contains wl then (rest.take 1).foldl (fun ws w => insertWl w ws) (p.leave wl).lanes else p.lanes }

/-- A wavelength is retired (R379, R380): it leaves every set, and its receive wavelength goes with it. -/
def State.retire (s : State) (chip wl : Nat) : State :=
  let f := s.fabric chip
  let s := s.modWl chip wl fun w => { w with state := .retired }
  let s := s.modFabric chip fun f => { f with packets := openPackets (f.packets.map fun p => p.retire wl) }
  match s.holder chip wl with
  | some r =>
    let l := s.leaseOf r
    let rest := l.wls.filter (· != wl)
    match f.spare with
    | w :: ws =>
      (s.modFabric chip fun f => { f with spare := ws }).setLease r { l with wls := insertWl w rest } |>.modFabric r.peer
        fun f => f.swapInbound chip r
    | [] =>
      let s := s.modFabric r.peer fun f => f.loseInbound chip r
      let s := s.setLease r { l with wls := rest }
      if rest.isEmpty then s.revoke chip r else s.leaseMessage chip r
  | none =>
    match f.base.find? fun e => e.2.contains wl with
    | some (p, ws) =>
      let s := s.modFabric chip fun f => { f with base := f.base.put p (ws.filter (· != wl)) }
      let s := s.modFabric p fun f => { f with rbase := f.rbase.put chip (f.rbaseOf chip).dropLast }
      if ws.length = 1 then
        let t := s.takeMany chip p 1 [] []
        (t.1.modFabric chip fun f => { f with base := f.base.put p t.2.1 }).modFabric p fun f =>
          { f with rbase := f.rbase.put chip (t.2.2.foldl (fun ws w => insertWl w ws) (f.rbaseOf chip)) }
      else s
    | none => s.modFabric chip fun f => { f with spare := f.spare.filter (· != wl) }

/-- A wavelength leaves its set for retraining; its bucket and lifetime count rise. -/
def State.bench (s : State) (chip wl : Nat) : State :=
  let w := (s.fabric chip).wls.get {} wl
  let s := s.modWl chip wl fun w => { w with state := .retraining, fails := [], bucket := w.bucket + 1, retrainings := w.retrainings + 1 }
  s.modChip chip fun h =>
    let t := h.telemetry
    { h with telemetry := { t with buckets := t.buckets.put wl (w.bucket + 1), retrainings := t.retrainings.put wl (t.retrainings.get 0 wl + 1) } }
/-- Retraining (R378); at a bucket of 16 the wavelength is retired (R379). -/
def State.retrain (s : State) (chip wl : Nat) : State :=
  if ((s.fabric chip).wls.get {} wl).bucket + 1 ≥ 16 then (s.bench chip wl).retire chip wl else s.bench chip wl

/-- The record of one more failure of a flit: the flits before it have been received, and those after it are sent again. -/
def Wl.failed (w : Wl) (flit : Nat) : Wl :=
  { w with fails := AMap.put (w.fails.filter fun e => decide (flit ≤ e.1)) flit (w.fails.get 0 flit + 1) }

/-- Event FLIT_CRC_FAIL (R378): a flit that the wavelength has sent fails its CRC, or fails it again when it is replayed;
the third failed replay of one flit sends the wavelength to retraining. -/
def execFlitCrcFail (chip : Nat) (flit : Flit) (s : State) : Host.Outcome State Fault Refusal :=
  let w := (s.fabric chip).wls.get {} flit.wl
  if flit.wl ≥ Config.wavelengths ∨ w.state ≠ .good ∨ w.seq ≤ flit.number ∨ w.fails.any (fun e => decide (flit.number < e.1)) then
    .next s
  else if w.fails.get 0 flit.number ≥ 3 then .next (s.retrain chip flit.wl)
  else .next (s.modWl chip flit.wl fun w => w.failed flit.number)

/-- Event RETRAIN_END (R378). -/
def execRetrainEnd (chip wl : Nat) (s : State) : Host.Outcome State Fault Refusal :=
  let w := (s.fabric chip).wls.get {} wl
  if w.state = .retraining then .next (s.modWl chip wl fun w => { w with state := .good }) else .next s

/-- Event RETIREMENT_BUCKET_DECAY (R379): 2^30 good flits have passed. -/
def execRetirementBucketDecay (chip wl : Nat) (s : State) : Host.Outcome State Fault Refusal :=
  let w := (s.fabric chip).wls.get {} wl
  if wl ≥ Config.wavelengths ∨ w.state ≠ .good then .next s
  else .next ((s.modWl chip wl fun w => { w with bucket := w.bucket - 1 }).modChip chip fun h =>
    { h with telemetry := { h.telemetry with buckets := h.telemetry.buckets.put wl (w.bucket - 1) } })

end Sys2Proof.Machine
end

