-- ==== Sys2Proof/Machine/Clear.lean ====
section
/-!
DEFINITION. What a capsule leaves behind is cleared (17 R336, 02 R23): idle cores, clearing and handing over a core, and
the end of a capsule.
-/
namespace Sys2Proof.Machine

/-- A host command completes (R429): a 16-byte completion in the completion ring, which has as many places as the command
ring (log 16), and MSI-X vector 0. -/
def State.hostReply (s : State) (chip tag status : Nat) (r0 r1 : Word) (info : HostInfo := .nothing) : State :=
  let b := (s.chip chip).bar0
  let s := s.fwWrite .pod chip 0 (keyOf 64 (b.complBase.toNat + 16 * (b.completions % b.slotCount.toNat)))
    (toBytes 16 (Config.completionBits tag status r0 r1).toNat)
  s.modChip chip fun h => { h with
    bar0 := { h.bar0 with completions := h.bar0.completions + 1 }
    hostDone := h.hostDone ++ [{ tag := tag, status := status, r0 := r0, r1 := r1, info := info }], msix := h.msix ++ [0] }

def Core.streamsEmpty (c : Core) : Bool := c.slots.all fun e => e.2.stream.isEmpty
/-- No porter, dealer or matrix work stands on the core. -/
def Core.enginesIdle (c : Core) : Bool :=
  c.mq.isEmpty && c.cmdIn.isEmpty && c.held.isEmpty && c.chans.all fun e => e.2.reqs.isEmpty && e.2.work.isNone
/-- Step 3 of Table 21.5. -/
def Core.idle (c : Core) : Bool := c.slotsFree && c.streamsEmpty && c.enginesIdle

/-- Table 17.7: everything the capsule left is cleared. The core's cycle count and clock go on; so does the request it is
taken for. DESIGN CHOICE (log 48): the generation of capabilities starts again at 1 with the cleared table; R164 does not
say. -/
def Core.cleared (c : Core) : Core :=
  { cycles := c.cycles, lastCycle := c.lastCycle, mhz := c.mhz, taker := c.taker }

/-- A cleared core goes to the request that took it, or to the free pool (R409, Table 21.5). A host command is complete
once it has every core it took (R404, R405). -/
def State.handOver (s : State) (ep : Nat) : State :=
  let chip := chipOf ep
  let s := s.modCore ep Core.cleared
  match (s.core ep).taker with
  | none => s
  | some id =>
    let h := s.chip chip
    if h.admissions.any fun a => a.id == id then s
    else
      let s := s.modCore ep fun c => { c with taker := none }
      match h.preempts.find id with
      | none => s
      | some tag =>
        if s.cores.any fun e => e.2.taker == some id then s
        else (s.modChip chip fun h => { h with preempts := h.preempts.del id }).hostReply chip tag 0 0 0

/-- The core is in the free pool. -/
def State.coreFree (s : State) (ep : Nat) : Bool := (s.core ep).cap.isNone && (s.core ep).taker.isNone

/-! Successors (R334, R335). -/

def Origin.run : Origin → Option Nat
  | .successor r => some r
  | _ => none

/-- What is kept for the next run of an image is kept for this run of it from now on. -/
def Kept.beRun (k : Kept) (addr run : Nat) : Kept :=
  if k.succs.contains addr then { k with succs := k.succs.filter (· != addr), runs := k.runs ++ [run] } else k
/-- A predecessor of an image is done, or has failed: its tally rises, and at its count a run of the image stands for admission. A
chip whose 4,096 tallies are taken keeps no other (R335). -/
def State.tallyUp (s : State) (chip priority : Nat) (failed : Bool) (x : Succ) : State :=
  let h := s.chip chip
  let t : Tally := match h.tallies.find? fun t => t.addr == x.addr with
    | some t => { t with count := t.count + 1, failed := t.failed || failed, priority := max t.priority priority }
    | none => { addr := x.addr, length := x.length, preds := x.preds, count := 1, failed := failed, priority := priority }
  let rest := h.tallies.filter fun t => t.addr != x.addr
  if t.count ≥ t.preds then
    let a : Admission :=
      { origin := .successor s.fresh, priority := t.priority, addr := t.addr, image := [], length := t.length
        ownerKey := none, failed := t.failed }
    s.bump.modChip chip fun h =>
      { h with tallies := rest, admissions := h.admissions ++ [a], kept := h.kept.map fun k => k.beRun t.addr s.fresh }
  else if rest.length < Config.tallyCount then s.modChip chip fun h => { h with tallies := rest ++ [t] }
  else s

/-- Growth of S extents is kept for the capsule's successors (R334). -/
def Capsule.keeps (c : Capsule) : List Kept :=
  if c.succs.isEmpty then []
  else (c.extents.filter fun e => e.2.shared && !e.2.derived && decide (e.2.comm0 < e.2.comm)).map fun e =>
    { succs := c.succs.map Succ.addr, base := e.2.base, home := e.2.homeKey, owner := e.2.owner, comm := e.2.comm }
/-- A successor's run has completed, or was refused: what was kept for it alone is released. -/
def Chip.dropKept (h : Chip) (run : Nat) : Chip :=
  { h with kept := (h.kept.filter fun k => !k.succs.isEmpty || k.runs != [run]).map fun k => { k with runs := k.runs.filter (· != run) } }

/-! The end of a capsule. -/

/-- What the capsule holds outside its cores goes: leases, queues, work queues, nodes, phasers and requests. -/
def State.dropHoldings (s : State) (cap : Nat) : State :=
  let c := s.cap cap
  let chip := c.chip
  let s := (c.leases.filter fun e => e.2.live).foldl (fun s e => s.leaseReturn chip cap e.1) s
  let s := ((s.chip chip).queues.filter fun e => e.2.cap == some cap && !e.2.gone).foldl (fun s e => s.unregister chip e.1) s
  let s := s.dropMembers cap
  let s := s.modChip chip fun h => { h with
    workQueues := h.workQueues.filter fun e => e.2.cap != cap
    pools := h.pools.map fun e => (e.1, e.2.filter fun n => n.cap != cap)
    regReqs := h.regReqs.filter fun r => r.cap != cap
    registry := h.registry.del cap
    attests := h.attests.filter fun r => r.cap != cap }
  { s with held := s.held.filter fun m => m.cap != cap }

/-- The capsule is gone: its cores are cleared and handed over, fabric barriers that wait for nobody are freed (R377). -/
def State.removeCapsule (s : State) (cap : Nat) : State :=
  let c := s.cap cap
  let s := s.dropHoldings cap
  let s := (c.cores ++ c.shadows).foldl (fun s ep => s.handOver ep) { s with caps := s.caps.del cap }
  s.freeBarriers

/-- The packet or the parent learns how the capsule ended: the packet completes with its status (step 2 of R23, R236), and
a child's parent has the reason in its notice (R351). -/
def State.reportEnd (s : State) (cap status : Nat) : State :=
  let c := s.cap cap
  match c.origin with
  | .packet chip q k => s.completeByNumber chip q k status
  | .child parent box notify ptr stamp =>
    if notify ∧ box ≠ 0xFFFF then
      s.postTyped (.firmware c.chip 1) parent box [0]
        (mkMsg (BitVec.ofNat 64 (0x100 + status * 2 ^ 16)) (BitVec.ofNat 64 cap) ptr 0 stamp) (c.cores.headD 0) 3
    else s
  | .successor _ | .gone => s

/-- The scope of the capsule's completion release (R236, R196). -/
def State.endScope (s : State) (c : Capsule) : Scope :=
  match c.origin with
  | .packet chip q k =>
    match s.queue chip q with
    | some Q => match Q.packets.find? fun p => p.k == k with
      | some p => s.packetScope chip Q p
      | none => .dev
    | none => .dev
  | _ => .dev

/-- Every write of the capsule has reached the point of a scope. -/
def State.capReached (s : State) (cap : Nat) (sc : Scope) : Bool :=
  s.entries.all fun e => e.cap != cap || e.op.isSome || e.reached sc

/-- The capsule's end lets its quantum entries move (R188). -/
def State.freeCapQuanta (s : State) (cap : Nat) : State := ((s.cap cap).cores).foldl (fun s ep => s.freeQuanta ep) s

/-- Requests of the capsule on their way: accesses, engine work, remote requests, commands to other cores. -/
def State.outstandingWork (s : State) (cap : Nat) : Bool :=
  let c := s.cap cap
  (s.iq.any fun i => i.cap == cap) || (s.remote.any fun r => r.cap == cap) || (s.phq.any fun r => r.cap == cap)
    || (c.cores.any fun ep => !(s.core ep).enginesIdle) || s.cores.any fun e => e.2.cmdIn.any fun m => m.cap == cap
/-- Active messages not yet sent. -/
def State.activeWaiting (s : State) (cap : Nat) : Bool :=
  (s.cap cap).cores.any fun ep => (s.core ep).slots.any fun e => e.2.stream.any fun x => x.addr.isNone

/-- The conditions of R23 on a running capsule. -/
def State.workEnded (s : State) (cap : Nat) : Bool :=
  let c := s.cap cap
  c.cores.all (fun ep =>
    let k := s.core ep
    k.slotsFree && k.ready.isEmpty && k.deque.isEmpty && k.streamsEmpty)
  && c.actors.all (fun a => !a.moving && a.boxes.all fun b => b.2.msgs.isEmpty)
  && !s.outstandingWork cap
  && (s.held.all fun m => m.cap != cap)
  && c.late.isEmpty && c.lateNodes.isEmpty
  && (s.chip c.chip).pools.all fun e => e.2.all fun n => n.cap != cap
/-- Nothing of the capsule's faults is still to be delivered, neither a record nor its message (R23). -/
def State.delivered (s : State) (cap : Nat) : Bool :=
  (s.cap cap).records.isEmpty && s.held.all fun m => m.cap != cap || match m.src with | .firmware _ 3 => false | _ => true
/-- A terminated capsule waits only for what was issued: engine work, requests and active messages (R391). -/
def State.windedDown (s : State) (cap : Nat) : Bool :=
  !s.outstandingWork cap && !s.activeWaiting cap

/-- Deferred faults not raised are reported outside any firing (R163), those of cores that a move took first. -/
def State.reportDeferred (s : State) (cap : Nat) : State :=
  let c := s.cap cap
  let ds := c.deferred ++ c.cores.flatMap fun ep => (s.core ep).deferred.map fun d => (ep, d)
  let s := c.cores.foldl (fun s ep => s.modCore ep fun k => { k with deferred := [] })
    (if c.deferred.isEmpty then s else s.modCap cap fun c => { c with deferred := [] })
  ds.foldl (fun s d => s.faultOutside cap d.1 d.2.code d.2.info0 d.2.info1 7) s

/-- The committed bytes of slot 1's views are cleared (R309). -/
def State.clearViews (s : State) (c : Capsule) : State :=
  match c.extents.find 1 with
  | some e => (e.ranges 1).foldl State.zeroM s
  | none => s

/-- The steps of completion (R23): the release has been made; the record, clearing, returns and successors. -/
def State.complete (s : State) (cap : Nat) : State :=
  let c := s.cap cap
  let failed := c.state == .terminating
  let s := s.reportEnd cap (if failed then 0x09 else 0x00)
  let s := (s.clearViews c).removeCapsule cap
  let s := s.modChip c.chip fun h =>
    let h := { h with kept := h.kept ++ c.keeps }
    match c.successorOf with
    | some a => h.dropKept a
    | none => h
  c.succs.foldl (fun s x => s.tallyUp c.chip c.priority failed x) s

/-- Event CAPSULE_COMPLETION (R23, R391): once all its work has ended and its records are delivered. A move that took cores of it
before goes on first, and it completes on the cores it keeps (R24). -/
def execCapsuleCompletion (cap : Nat) (s : State) : Host.Outcome State Fault Refusal :=
  match s.caps.find cap with
  | none => .next s
  | some c =>
    let s := if c.state = .terminating then c.cores.foldl State.dropJoint s else s
    let ended := match c.state with
      | .running => s.workEnded cap && !c.remap
      | .terminating => s.windedDown cap
      | .parking _ => false
    if (s.chip c.chip).frozen || !ended then .next s
    else
      let s := (s.freeCapQuanta cap).reportDeferred cap
      if !s.delivered cap || !s.capReached cap (s.endScope c) then .next s
      else .next (s.complete cap)

end Sys2Proof.Machine
end

