-- ==== Sys2Proof/Machine/Save.lean ====
section
/-!
DEFINITION. Spatial pre-emption and parking (21 R392, R404 to R412): the save area and its records, taking cores,
saving one, installing moved actors, and the continuation image.
-/
namespace Sys2Proof.Machine

/-! Records of the save area (Table 21.8). -/

def zeros (n : Nat) : List Byte := List.replicate n 0

/-- A record: 64-byte header, then payload. -/
def saveRecord (kind index : Nat) (fields payload : List Byte) : List Byte :=
  toBytes 2 kind ++ toBytes 2 index ++ toBytes 4 (64 + payload.length) ++ fields ++ zeros (56 - fields.length) ++ payload

def wordBytes (ws : List Word) : List Byte := ws.flatMap fun w => toBytes 8 w.toNat
def Msg.words (m : Msg) : List Word := [m.w0, m.w1, m.w2, m.w3]
def HeldEntry.words (e : HeldEntry) : List Word := [e.w0, e.w1, e.w2, e.w3]

def Msg.bytes (box ty : Nat) (m : Msg) : List Byte :=
  wordBytes m.words ++ toBytes 4 m.stamp ++ toBytes 1 box ++ toBytes 1 ty ++ toBytes 1 m.reserved.toNat ++ zeros 9

/-- The delivered entry that an actor record has a place for. DEDUCED (log 46): the one that made a ready actor ready; other
entries that the actor has not popped go back to the head of their queues in the save (`Actor.given`). -/
def Actor.woken (a : Actor) : Option HeldEntry :=
  match a.state with
  | .ready => a.held.getLast?
  | _ => none
def Actor.given (a : Actor) : List HeldEntry :=
  match a.state with
  | .ready => a.held.dropLast
  | _ => a.held

/-- Flags of an actor record, and the work queue it awaits or holds an entry of. -/
def Actor.saveFlags (a : Actor) : Nat :=
  let waiter := match a.state with | .waiting _ _ => true | _ => false
  a.fired.toNat + 2 * waiter.toNat + 4 * a.isMessage.toNat + 8 * a.woken.isSome.toNat
def Actor.saveQueue (a : Actor) : Nat :=
  match a.woken, a.state with
  | some e, _ => e.die * 16 + e.q
  | none, .waiting d q => d * 16 + q
  | none, _ => 0

/-- Record kind 1. -/
def Actor.record (i : Nat) (a : Actor) (priv : List Byte) : List Byte :=
  let count := fun j => match a.boxes.find j with | some b => b.msgs.length | none => 0
  saveRecord 1 i
    (toBytes 4 a.privSize ++ toBytes 1 a.stage ++ toBytes 1 a.saveFlags ++ toBytes 2 a.saveQueue
      ++ (List.range 16).flatMap fun j => toBytes 1 (count j))
    (priv ++ (a.boxes.flatMap fun e => e.2.msgs.flatMap fun m => m.bytes e.1 e.2.ty)
      ++ match a.woken with | some e => wordBytes e.words | none => [])

def Bank.saved (b : Bank) : List Byte :=
  toBytes 16384 b.data.toNat ++ toBytes 512 b.side.toNat ++ toBytes 1 b.tag.code ++ toBytes 1 b.claim.code
    ++ toBytes 1 b.count ++ zeros 61
def Tile.saved (t : Tile) : List Byte := toBytes 65536 t.data.toNat ++ toBytes 1 t.tag.code ++ zeros 63
def CapEnt.bytes (e : CapEnt) : List Byte := toBytes 8 (e.gen + e.mask * 2 ^ 20 + e.live.toNat * 2 ^ 63)
def Counter.bytes (k : Counter) : List Byte :=
  toBytes 8 (k.c + k.t * 2 ^ 16 + k.ovf.toNat * 2 ^ 24 + k.threshold * 2 ^ 32 + k.source * 2 ^ 48)
def Term.bytes (t : Term) : List Byte :=
  toBytes 8 (t.mask + t.isOr.toNat * 2 ^ 16 + t.action * 2 ^ 20 + t.arg * 2 ^ 24) ++ toBytes 8 (t.armed + t.actions * 2 ^ 16)
def noCapEnt : CapEnt := { gen := 0, mask := 0, cap := 0, live := false }

/-- L lines written since admission that lie outside the private regions, which the actors' own records hold. -/
def Capsule.savedLines (c : Capsule) (ep : Nat) (k : Core) : List Nat :=
  k.lwritten.filter fun l => !c.actors.any fun a =>
    a.ep == ep && decide (a.privOff ≤ 64 * l) && decide (64 * l < a.privOff + a.privSize)

/-- Record kind 2. -/
def Capsule.coreRecord (c : Capsule) (ep : Nat) (k : Core) : List Byte :=
  let ls := c.savedLines ep k
  saveRecord 2 k.logical (toBytes 2 ep ++ zeros 2 ++ toBytes 4 ls.length)
    (((List.range 16).flatMap fun i => (k.bank i).saved) ++ ((List.range 8).flatMap fun i => (k.tile i).saved)
      ++ ((List.range 16).flatMap fun i => (k.captab.get noCapEnt i).bytes)
      ++ ((List.range 16).flatMap fun i => (k.counter i).bytes) ++ ((List.range 8).flatMap fun i => (k.term i).bytes)
      ++ ((List.range 4).flatMap fun i => toBytes 8 (k.chan i).deal.toNat)
      ++ ls.flatMap fun l => toBytes 8 (64 * l) ++ (k.lread (64 * l) 64).1)

/-- Entries that a capsule's actors give back to a queue in a save. -/
def Capsule.givenTo (c : Capsule) (die q : Nat) : List HeldEntry :=
  c.actors.flatMap fun a => a.given.filter fun e => e.die == die && e.q == q
/-- Record kind 3. -/
def WorkQueue.record (w : WorkQueue) : List Byte :=
  saveRecord 3 (w.die * 16 + w.q)
    (toBytes 2 (w.entries ++ w.late).length ++ toBytes 1 w.closed.toNat ++ zeros 1 ++ toBytes 2 w.waiters.length)
    (((w.entries ++ w.late).flatMap fun e => wordBytes e.words) ++ w.waiters.flatMap fun i => toBytes 2 i)

def Task.bytes (t : Task) : List Byte :=
  toBytes 4 t.entry ++ toBytes 4 t.stamp ++ toBytes 4 t.budget ++ zeros 4 ++ toBytes 8 t.join.toNat ++ zeros 8
    ++ wordBytes [t.a0, t.a1, t.a2, t.a3]
/-- Record kind 4. -/
def dequeRecord (logical : Nat) (ts : List Task) : List Byte :=
  saveRecord 4 logical (toBytes 2 ts.length) (ts.flatMap Task.bytes)
/-- Record kind 5. -/
def nodeRecord (cards : List (List Byte)) : List Byte := saveRecord 5 0 (toBytes 4 cards.length) cards.flatten

def Extent.bytes (e : Extent) : List Byte :=
  toBytes 8 (e.base + (if e.isHost then 0 else e.home * 2 ^ 52)) ++ toBytes 8 e.length ++ toBytes 8 e.comm
    ++ toBytes 8 (e.attr.toNat + e.owner * 2 ^ 32)
/-- The extent image (R410). -/
def Capsule.extentImage (c : Capsule) : List Byte :=
  (List.range 64).flatMap fun i => match c.extents.find i with | some e => e.bytes | none => zeros 32

/-- The save header (Table 21.7), of a save in this layout. -/
def Capsule.saveHeader (c : Capsule) (layout reason imageAt : Nat) : List Byte :=
  toBytes 4 0x56535A49 ++ toBytes 2 layout ++ toBytes 2 reason ++ toBytes 8 c.saveUsed ++ toBytes 4 c.saveCount
    ++ toBytes 4 c.saveRecs ++ toBytes 8 imageAt ++ toBytes 4 c.acked ++ toBytes 4 c.overflow ++ zeros 24

/-! Writing it. -/

/-- Where the save area begins (R410). -/
def Capsule.saveBase (c : Capsule) : Nat := ceilDiv (16 * c.actors.length) 4096 * 4096

/-- A save that would pass the continuation extent ends the capsule (R410). -/
def State.saveFails (s : State) (cap : Nat) : State :=
  let c := s.cap cap
  let len := match c.extents.find c.contSlot with | some e => e.length | none => 0
  let s := s.addRecord
    { code := 0x06, cls := 3, action := 0, nested := false, word := 0xFFFFFFFF, cap := cap, ep := c.cores.headD 0
      actor := 0xFFFF, slot := 0xFF, fkind := 0xFF, seq := 0, stamp := 0, info0 := BitVec.ofNat 64 len, info1 := 0
      info2 := 7, info3 := BitVec.ofNat 64 (c.cores.headD 0) }
  s.terminate cap

/-- Bytes at an offset of the continuation extent, as entries placed in Q(dev); growth it needs is made first. A write
past the extent, or that growth does not back, writes nothing and ends the capsule. Once it ends nothing more is
written. -/
def State.saveWrite (s : State) (cap off : Nat) (bs : List Byte) : State :=
  let c := s.cap cap
  if c.state = .terminating then s
  else match c.extents.find c.contSlot with
    | none => s.saveFails cap
    | some e =>
      let upto := off + bs.length
      let grown := if upto > e.length then (s, false) else if upto ≤ e.comm then (s, true)
        else if e.has permG then s.growExtent cap c.contSlot upto else (s, false)
      if grown.2 then grown.1.fwWrite (.dev c.chip) c.chip cap (e.key c.contSlot 0 off) bs else grown.1.saveFails cap

/-- A record behind those written, counted. -/
def State.saveRecord (s : State) (cap : Nat) (r : List Byte) : State :=
  let c := s.cap cap
  let s := s.saveWrite cap (c.saveBase + c.saveUsed) r
  if (s.cap cap).state = .terminating then s
  else s.modCap cap fun c => { c with saveUsed := c.saveUsed + r.length, saveRecs := c.saveRecs + 1 }

/-- The save header and the extent image. -/
def State.saveHead (s : State) (cap reason imageAt : Nat) : State :=
  let c := s.cap cap
  s.saveWrite cap c.saveBase (c.saveHeader (s.chip c.chip).saveLayout reason imageAt ++ c.extentImage)

/-- A save begins: the area holds the header and the extent image. -/
def Capsule.startSave (c : Capsule) : Capsule :=
  { c with saveCount := c.saveCount + 1, saveUsed := 64 + 2048, saveRecs := 0 }
/-- The capsule's block of the registry follows it (R428). -/
def State.noteCap (s : State) (cap : Nat) : State := s.modChip (s.cap cap).chip fun h => h.note cap (s.cap cap)

/-! Taking cores (R404, R405, R408). -/

/-- A capsule that may be a victim (R404). -/
def State.eligible (s : State) (cap : Nat) : Bool :=
  match s.caps.find cap with
  | some c => c.state == .running && !c.redundant && c.contSlot != 0xFF
  | none => false
/-- Cores of a capsule that a request may take: those under save go to the request that began their save (R409). -/
def State.takableCores (s : State) (cap : Nat) : List Nat := (s.cap cap).cores.filter fun ep => !(s.core ep).vacating

/-- Step 1 of Table 21.5: request `id` takes these cores of a victim, by a move, or by a park of the whole capsule. One
whose work has ended is left alone, and its cores are taken as they return (R24). A move that is under way already goes on:
the cores join it, behind the records it has written (R409). The save begins: joint operations partly formed in a taken core's
square are discarded (R160). -/
def State.takeCores (s : State) (cap : Nat) (eps : List Nat) (id : Nat) : State :=
  let c := s.cap cap
  let kept := (s.takableCores cap).filter fun e => !eps.contains e
  let c' : Capsule := { c with actors := c.actors.map fun (a : Actor) => if eps.contains a.ep then { a with moving := true } else a }
  let c' : Capsule := if c.remap then c' else { c'.startSave with remap := true }
  let fits := (placeMoved c'.movedActors (kept.map c'.loadOf)).isSome
  let s := eps.foldl (fun s e => s.modCore e fun k => { k with taker := some id }) s
  if s.workEnded cap && s.delivered cap then s
  else
  let s := s.modChip c.chip fun h => { h with telemetry := { h.telemetry with preemptions := h.telemetry.preemptions + 1 } }
  if kept.isEmpty ∨ kept.length < c.minCores ∨ !fits then c.cores.foldl State.dropJoint (s.park cap 1)
  else eps.foldl (fun s e => (s.modCore e fun k => { k with vacating := true }).dropJoint e) ((s.modCap cap fun _ => c').noteCap cap)

/-- The n cores with the highest endpoint IDs. -/
def highest (n : Nat) (eps : List Nat) : List Nat := eps.drop (eps.length - n)

/-! Saving one core. -/

/-- The kept core a vacating core's records go to (Table 21.6): of the same square, else of the same die, else any, the
one with the fewest records and room. -/
def State.dequeHeir (s : State) (ep : Nat) (kept : List Nat) : Option Nat :=
  let room := kept.filter fun e => decide ((s.core e).deque.length < Config.dequeDepth)
  match s.emptiest (room.filter fun e => squareOf e == squareOf ep), s.emptiest (room.filter fun e => dieOf e == dieOf ep),
    s.emptiest room with
  | some e, _, _ => some e
  | none, some e, _ => some e
  | none, none, e => e

/-- Records move behind those of their heirs; where no kept core has room, which only a park lets happen, they wait as those of
a continuation do, and the park saves them (R420). -/
def State.moveDeque (s : State) (cap ep : Nat) (kept : List Nat) : List Task → State
  | [] => s
  | t :: ts =>
    match s.dequeHeir ep kept with
    | some e => (s.modCore e fun c => { c with deque := c.deque ++ [t] }).moveDeque cap ep kept ts
    | none => s.modCap cap fun c => { c with late := c.late ++ t :: ts }

/-- Task records of a core, top first: those that its ready set holds came from the bottom (R251). -/
def Core.allTasks (c : Core) : List Task :=
  c.deque ++ (c.ready.filterMap fun r => match r.job with | .task t => some t | _ => none).reverse
def Core.readyNodes (c : Core) : List Ready :=
  c.ready.filter fun r => match r.job with | .node _ => true | _ => false

/-- A card with its flag [3] set: the pool chooses the core, and the tiles are copied there (Table 13.4). -/
def anyCard (card : List Byte) : List Byte :=
  card.take 0x0C ++ toBytes 2 (lget card 0x0C 2 ||| 8) ++ toBytes 2 (lget card 0x0E 2 / 1024 * 1024) ++ card.drop 0x10
/-- A pool's node is aimed at core ep of a capsule, as it has chosen it or as its card names it, numbers folded (R22). -/
def Node.aimedAt (n : Node) (cap : Nat) (c : Capsule) (ep : Nat) : Bool :=
  n.cap == cap && match n.target with
    | some t => t == ep
    | none => !cardAny n.card && c.foldCore (cardCore n.card) == some ep
/-- It is retargeted as if flag [3] of its card were set (Table 21.6). -/
def Node.retarget (n : Node) : Node :=
  { n with card := anyCard n.card, target := none, tile := 0, done := 0, buf := [], bad := false, waiting := [] }
/-- A node in a ready set as a node of a pool again. -/
def Ready.node (r : Ready) : Node := { cap := r.cap, slot := r.view, card := anyCard r.card, ptr := r.ptr, src := r.src }

/-- Nodes aimed at core ep, in the pools and in its ready set, go as cards of flag [3] to the pool of their die where the
capsule keeps cores there, else to that of the lowest die it keeps, as work queues do (Table 21.6). -/
def State.moveNodes (s : State) (cap : Nat) (c : Capsule) (ep : Nat) (kept : List Nat) : State :=
  let dies := kept.map fun e => dieOf e % 4
  let heir := fun d => if dies.contains d then d else dies.foldl min 3
  let h := s.chip c.chip
  let moved := h.pools.flatMap fun p => (p.2.filter fun n => n.aimedAt cap c ep || (n.cap == cap && !dies.contains p.1)).map fun n =>
    (heir p.1, n.retarget)
  let stay : AMap (List Node) := h.pools.map fun p => (p.1, p.2.filter fun n => !(n.aimedAt cap c ep || (n.cap == cap && !dies.contains p.1)))
  let ready := (s.core ep).readyNodes.map fun r => (heir (dieOf ep % 4), r.node)
  (moved ++ ready).foldl (fun s e =>
    if (s.chip c.chip).poolRoom e.1 then s.modChip c.chip fun h => h.addNode e.1 e.2
    else s.modCap cap fun c => { c with lateNodes := c.lateNodes ++ [e.2] }) (s.modChip c.chip fun h => { h with pools := stay })
/-- The pools have room for the ready nodes of a core. -/
def State.nodesFit (s : State) (c : Capsule) (ep : Nat) (kept : List Nat) : Bool :=
  let dies := kept.map fun e => dieOf e % 4
  let d := if dies.contains (dieOf ep % 4) then dieOf ep % 4 else dies.foldl min 3
  decide ((((s.chip c.chip).pools.get [] d).length + (s.core ep).readyNodes.length) ≤ Config.poolDepth)

/-- Phasers homed on the core move to the chip's gateway, and their handles stay live (Table 21.6): the bell is free. -/
def State.movePhasers (s : State) (ep : Nat) : State :=
  { s with phasers := s.phasers.flatMap fun (e : Nat × Phaser) =>
      if e.1 / 128 = ep ∧ e.2.live then
        [(e.1, e.2.freed), (gatewayKey e.1 e.2.gen, e.2)]
      else [e] }

/-- Nothing that the core wrote stands in its own store buffers and caches any more: Table 17.7 writes the lines back. -/
def State.drained (s : State) (ep : Nat) : Bool :=
  (s.iq.all fun i => i.ep != ep) && (s.phq.all fun r => r.ep != ep) && s.entries.all fun e =>
    e.core != ep || match e.place with | .sb _ | .core _ => false | _ => true

/-- Steps 4 to 6 of Table 21.5 for one core. -/
def State.saveCore (s : State) (cap ep : Nat) : State :=
  let c := s.cap cap
  let k := s.core ep
  let mine := ((List.range c.actors.length).zip c.actors).filter fun e => e.2.moving && e.2.ep == ep
  let priv := fun (a : Actor) => (k.lread a.privOff a.privSize).1
  let s := mine.foldl (fun s e => s.saveRecord cap (e.2.record e.1 (priv e.2))) s
  let s := s.saveRecord cap (c.coreRecord ep k)
  let s := s.saveHead cap 1 0
  if (s.cap cap).state = .terminating then s
  else
    let kept := c.cores.filter fun e => !(s.core e).vacating
    let s := s.moveDeque cap ep kept k.allTasks
    let s := (s.moveNodes cap c ep kept).movePhasers ep
    let s := s.modCap cap fun c => { c with
      cores := c.cores.filter (· != ep)
      deferred := c.deferred ++ k.deferred.map fun d => (ep, d)
      movedPriv := mine.foldl (fun m e => m.put e.1 (priv e.2)) c.movedPriv
      movedCode := mine.foldl (fun m e => if e.2.isMessage then m.put e.1 k.inlineBufs else m) c.movedCode }
    s.handOver ep

/-- The kept cores have room for what a core's deque and ready set hold. -/
def State.heirsFit (s : State) (cap ep : Nat) : Bool :=
  let c := s.cap cap
  let kept := c.cores.filter fun e => !(s.core e).vacating
  let room := kept.foldl (fun n e => n + (Config.dequeDepth - (s.core e).deque.length)) 0
  decide ((s.core ep).allTasks.length ≤ room) && s.nodesFit c ep kept

/-- The capsule's life lets the core's save go on: while it runs, or where a park came after step 4 had begun (R420). A park
that came before, and a terminate, absorb the save (R405). -/
def State.saveGoesOn (s : State) (cap ep : Nat) : Bool :=
  match (s.cap cap).state with
  | .running => s.heirsFit cap ep
  | .parking _ => (s.core ep).saving
  | .terminating => false

/-- Event PREEMPT_SAVE (R405): a vacating core, once step 3 is over. Step 4 begins, and at the next such event steps 4 to 6 are
done. Joint operations partly formed since the save began are discarded once the core's slots are free (R160). -/
def execPreemptSave (ep : Nat) (s : State) : Host.Outcome State Fault Refusal :=
  match (s.core ep).cap with
  | none => .next s
  | some cap =>
    if !(s.core ep).vacating || !s.saveGoesOn cap ep || (s.chip (chipOf ep)).frozen || !(s.core ep).slotsFree then .next s
    else
      let s := (s.dropJoint ep).freeQuanta ep
      if !(s.core ep).idle || !s.drained ep then .next s
      else if (s.core ep).saving then .next (s.saveCore cap ep)
      else .next (s.modCore ep fun k => { k with saving := true })

/-! Installing moved actors. -/

/-- Messages that waited for moving actors may be placed from now on; the actor goes back to its core's ready set, or is
tested, as its state, its messages and its work queue say. -/
def State.resume (s : State) (cap i : Nat) : State :=
  match (s.cap cap).actors[i]? with
  | none => s
  | some a =>
    match a.state with
    | .waiting _ _ => s
    | .ready => s.makeReady cap i
    | _ =>
      let s := s.modActor cap i fun a => { a with state := .armed }
      if a.boxes.isEmpty && !a.fired then s.makeReady cap i else s.testActor cap i

/-- An actor installed on a core at a private offset, with the bytes and the inline-code buffers saved for it. -/
def State.installActor (s : State) (cap i ep off : Nat) (priv : List Byte) (code : AMap (List (BitVec 96))) : State :=
  let s := s.modCore ep fun k =>
    let k := if priv.isEmpty then k else k.lwrite off priv false
    { k with inlineBufs := if code.isEmpty then k.inlineBufs else code }
  let s := { s with phasers := s.phasers.map fun (p : Nat × Phaser) => (p.1, { p.2 with members := p.2.members.map fun (m : Member) =>
    if m.cap = cap ∧ m.actor = i then { m with ep := ep } else m }) }
  s.modActor cap i fun a => { a with ep := ep, privOff := off, moving := false }

/-- Logical numbers over the cores a capsule holds (R22, R406). -/
def State.renumber (s : State) (cap : Nat) : State :=
  let c := s.cap cap
  let s := ((List.range c.cores.length).zip c.cores).foldl (fun s e => s.modCore e.2 fun k => { k with logical := e.1 }) s
  s.modCap cap fun c => { c with
    granted := c.cores.length
    actors := c.actors.map fun a => match listIdx (fun e => e == a.ep) c.cores 0 with
      | some i => { a with logical := i }
      | none => a }

/-- Work queues of one die join those of another, behind its entries. -/
def Chip.mergeQueues (h : Chip) (cap dst : Nat) : List (Nat × WorkQueue) → Chip
  | [] => h
  | (key, w) :: ws =>
    let r := ({ h with workQueues := h.workQueues.del key } : Chip).adopt cap dst w.q
    (r.1.setWq r.2 ((r.1.wq r.2).join (w.entries ++ w.late) w.closed w.waiters)).mergeQueues cap dst ws

/-- Queues of dies left with no kept core go to the lowest kept die (Table 21.6), with their waiters and held entries. -/
def State.moveQueues (s : State) (cap : Nat) : State :=
  let c := s.cap cap
  let h := s.chip c.chip
  let dies := c.dies
  let dst := dies.foldl min 3
  let lost := h.workQueues.filter fun e => e.2.cap == cap && !dies.contains e.2.die
  let fix := fun (a : Actor) => { a with
    state := match a.state with | .waiting d q => if dies.contains d then a.state else .waiting dst q | x => x
    held := a.held.map fun (e : HeldEntry) => if dies.contains e.die then e else { e with die := dst } }
  ({ s with chips := s.chips.put c.chip (h.mergeQueues cap dst lost) }).modCap cap fun c => { c with actors := c.actors.map fix }

/-- Claims of moved actors end. -/
def Core.endClaims (c : Core) (is : List Nat) : Core :=
  { c with banks := c.banks.map fun e => (e.1, match e.2.claim with
      | .actor i => if is.contains i then { e.2 with claim := .free } else e.2
      | _ => e.2) }

/-- Every kept core's ready set has the entries that its actors, those to come among them, have kept for them (R251). -/
def State.entriesFree (s : State) (c : Capsule) (ps : List (Nat × Nat × Nat)) : Bool :=
  c.cores.all fun e => decide (((s.core e).ready.filter Ready.isTask).length
    + (c.actors.filter fun a => a.ep == e).length + (ps.filter fun p => p.2.1 == e).length ≤ 64)

/-- Event PREEMPT_INSTALL (R405 step 7, R406): once every taken core is saved, whether or not actors stood on them, and tasks and
nodes on the kept cores have run as far as their places there go (log 39). -/
def execPreemptInstall (cap : Nat) (s : State) : Host.Outcome State Fault Refusal :=
  match s.caps.find cap with
  | none => .next s
  | some c =>
    let moved := c.movedActors
    if !c.remap || c.state != .running || (s.chip c.chip).frozen || c.cores.any fun e => (s.core e).vacating then .next s
    else match placeMoved moved (c.cores.map c.loadOf) with
      | none => .next s
      | some ps =>
        if !s.entriesFree c ps then .next s
        else
          let s := s.moveQueues cap
          let s := ps.foldl (fun s p =>
            s.installActor cap p.1 p.2.1 p.2.2 (c.movedPriv.get [] p.1) (c.movedCode.get [] p.1)) s
          let s := (s.modCap cap fun c => { c with movedPriv := [], movedCode := [], remap := false }).renumber cap
          let s := c.cores.foldl (fun s e => s.modCore e fun k => k.endClaims (moved.map Prod.fst)) s
          .next ((moved.foldl (fun s e => s.resume cap e.1) s).serveQueues cap)

/-! Parking (R392). -/

/-- An actor as its record has it: behind the messages of each mailbox those that are held for it, in their order, so that
none is lost. The mailboxes themselves never hold more than 8 (R14). -/
def State.withHeld (s : State) (cap i : Nat) (a : Actor) : Actor :=
  { a with boxes := a.boxes.map fun b =>
      (b.1, { b.2 with msgs := b.2.msgs ++ (s.held.filter fun h => h.cap == cap && h.addr == 16 * i + b.1).map HeldMsg.msg }) }

/-- Cards of a capsule's nodes not yet run: those of the pools, and those of ready nodes, whose tiles are already on the
core, as cards without tiles. -/
def State.parkedCards (s : State) (cap : Nat) : List (List Byte) :=
  let c := s.cap cap
  let card := fun (k : Core) (t : Task) =>
    toBytes 4 t.entry ++ toBytes 4 t.stamp ++ toBytes 4 t.budget ++ toBytes 2 0 ++ toBytes 2 (c.chip * 1024 + k.logical)
      ++ wordBytes [t.a0, t.a1, t.a2, t.a3] ++ zeros 80
  ((s.chip c.chip).pools.flatMap fun p => (p.2.filter fun n => n.cap == cap).map Node.card)
    ++ (c.cores.flatMap fun ep =>
      let k := s.core ep
      k.readyNodes.filterMap fun r => match r.job with | .node t => some (card k t) | _ => none)
    ++ c.lateNodes.map Node.card

/-- Every record of a park (R411). -/
def State.parkRecords (s : State) (cap : Nat) : State :=
  let c := s.cap cap
  let priv := fun (i : Nat) (a : Actor) => match c.movedPriv.find i with
    | some p => p
    | none => ((s.core a.ep).lread a.privOff a.privSize).1
  let s := ((List.range c.actors.length).zip c.actors).foldl (fun s e => s.saveRecord cap ((s.withHeld cap e.1 e.2).record e.1 (priv e.1 e.2))) s
  let s := c.cores.foldl (fun s ep => s.saveRecord cap (c.coreRecord ep (s.core ep))) s
  let s := ((s.chip c.chip).workQueues.filter fun e => e.2.cap == cap).foldl (fun s e =>
    s.saveRecord cap { e.2 with entries := c.givenTo e.2.die e.2.q ++ e.2.entries }.record) s
  let late := fun ep => if c.cores.head? = some ep then c.late else []
  let s := c.cores.foldl (fun s ep => s.saveRecord cap (dequeRecord (s.core ep).logical ((s.core ep).allTasks ++ late ep))) s
  s.saveRecord cap (nodeRecord (s.parkedCards cap))

/-- The offset of the manifest, of the continuation trailer and of the padding in an image (Table 17.1). -/
def manifestAt (extents : Nat) : Nat := ceilDiv (0x160 + 32 * extents) 64 * 64
def trailerAt (extents actors succs : Nat) : Nat := manifestAt extents + 64 * actors + 16 * succs

/-- The continuation image without its seal (R412, Table 21.9). -/
def Capsule.continuation (c : Capsule) (cap layout reason : Nat) : List Byte :=
  let img := c.image
  let at_ := trailerAt c.imageSlots c.actors.length c.succs.length
  let total := ceilDiv (at_ + 64) 64 * 64 + 384
  let table := (List.range c.imageSlots).flatMap fun i => match c.extents.find i with | some e => e.bytes | none => zeros 32
  let trailer := c.sealHash ++ toBytes 2 layout ++ toBytes 2 reason ++ zeros 4 ++ toBytes 8 c.saveBase ++ toBytes 8 cap ++ zeros 8
  let body := img.take 8 ++ toBytes 4 total ++ toBytes 4 (lget img 0xC 4 ||| 8) ++ (img.drop 0x10).take 0x150 ++ table
    ++ (img.drop (0x160 + 32 * c.imageSlots)).take (at_ - (0x160 + 32 * c.imageSlots)) ++ trailer
  body ++ zeros (total - 384 - body.length)

/-- The seal of the device identity, 384 bytes (R412). -/
def deviceSeal (ident : Nat) (msg : List Byte) : List Byte :=
  let b := (Config.deviceSign ident msg).take 384
  b ++ zeros (384 - b.length)

/-- The save of a park and its image, which the list of continuations takes up (R430): its layout is the running image's own. -/
def State.parkSave (s : State) (cap reason : Nat) : State :=
  let s := ((s.renumber cap).modCap cap Capsule.startSave).noteCap cap
  let s := s.parkRecords cap
  let c := s.cap cap
  let layout := (s.chip c.chip).saveLayout
  let body := c.continuation cap layout reason
  let image := body ++ deviceSeal (s.chip c.chip).ident body
  let s := s.saveHead cap reason (c.saveBase + c.saveUsed)
  let s := s.saveWrite cap (c.saveBase + c.saveUsed) image
  if (s.cap cap).state = .terminating then s
  else
    (s.modChip c.chip fun h => { h.setConts (h.conts ++
        [{ cap := cap, hash := sha256 image, layout := layout, successorOf := c.successorOf
           comm0 := c.extents.map fun e => (e.1, e.2.comm0)
           ranges := c.extents.map fun e => (keyOf e.2.homeKey e.2.base, keyOf e.2.homeKey e.2.base + e.2.length) }]) with
      telemetry := { h.telemetry with parks := h.telemetry.parks + 1 } }).modCap cap fun c => { c with parked := true }

/-- Event PARK (R392): once every core is idle, a save of one that had begun is finished (R420), every request has been answered
and every record is delivered, those of deferred faults not raised among them (R163), everything is saved. Joint operations partly
formed are discarded as the save of a core of their square begins, its slots free (R160). Once every write of the capsule, those of its save among them, has reached
the scope of the release, its packet completes (R236). -/
def execPark (cap : Nat) (s : State) : Host.Outcome State Fault Refusal :=
  match s.caps.find cap with
  | none => .next s
  | some c =>
    match c.state with
    | .parking reason =>
      if (s.chip c.chip).frozen then .next s
      else
        let s := (c.cores.filter fun e => (s.core e).slotsFree).foldl State.dropJoint s
        if !c.cores.all fun e => (s.core e).slotsFree then .next s
        else
        let s := s.freeCapQuanta cap
        if !c.cores.all (fun e => (s.core e).idle && !(s.core e).saving) || s.outstandingWork cap then .next s
        else
        let s := s.reportDeferred cap
        if !(s.cap cap).records.isEmpty then .next s
        else if !c.parked then .next (s.parkSave cap reason)
        else if s.capReached cap (s.endScope c) then .next ((s.reportEnd cap 0x0A).removeCapsule cap)
        else .next s
    | _ => .next s

end Sys2Proof.Machine
end

