-- ==== Sys2Proof/Machine/Shadow.lean ====
section
/-!
DEFINITION. Redundant execution (21 R416 to R418): the pod as the shadows of a capsule see it, what of a move a shadow keeps,
and the comparison of the faults of both sides.
-/
namespace Sys2Proof.Machine

/-- A slot's own registers on another slot's control: what of a firing both sides have in common is the primary's. -/
def Slot.withRegs (x r : Slot) : Slot :=
  { x with
    sregs := r.sregs, vregs := r.vregs, pregs := r.pregs, pastS := r.pastS, pastV := r.pastV, pastP := r.pastP
    fctl := r.fctl, fstat := r.fstat, srseed := r.srseed, dline := r.dline
    fltinfo0 := r.fltinfo0, fltinfo1 := r.fltinfo1, fltinfo2 := r.fltinfo2, fltinfo3 := r.fltinfo3 }
/-- A core with the registers and the matrix stores of another: all that a shadow computes for itself. -/
def Core.withOwn (c r : Core) : Core :=
  { c with
    slots := (List.range Config.slotCount).map fun k => (k, (c.slot k).withRegs (r.slot k))
    sq := r.sq, vq := r.vq, banks := r.banks, tiles := r.tiles, mq := r.mq, mflags := r.mflags, jd := r.jd
    jointSeq := r.jointSeq, deferred := r.deferred }

/-- A firing as its shadow runs it: with the shadow's signature, at the shadow's own word and loops. -/
def Firing.asShadow (f : Firing) : Firing :=
  match f.shadow with
  | some h => { f with sig := h.sig, pc := h.pc, loops := h.loops, shadow := none }
  | none => f
def Slot.asShadow (x : Slot) : Slot := { x with firing := x.firing.map Firing.asShadow }

/-- Primaries with their shadows. -/
def Capsule.pairs (c : Capsule) : List (Nat × Nat) := c.cores.zip c.shadows

/-- The pod as a redundant capsule's shadows see it: each primary has its shadow's registers and matrix stores, and all else
is the primary's: its L store, its queues and mailboxes, and memory (R417). -/
def State.asShadow (s : State) (c : Capsule) : State :=
  c.pairs.foldl (fun s e => s.modCore e.1 fun k =>
    let v := k.withOwn (s.core e.2)
    { v with slots := v.slots.map fun x => (x.1, x.2.asShadow) }) s

/-- What shadow `q` keeps of its side of a move: registers and matrix stores, and in the primary's firings its signatures and
places.
`v` is the pod its side left. -/
def State.keepShadow (s v : State) (p q : Nat) : State :=
  let s := s.modCore q fun k => k.withOwn (v.core p)
  (List.range Config.slotCount).foldl (fun s k => s.modSlot p k fun x => { x with firing := x.firing.map fun f =>
    match (v.slot p k).firing with
    | some g => if g.id = f.id then { f with shadow := f.shadow.map fun h => { h with sig := g.sig, pc := g.pc, loops := g.loops } } else f
    | none => f }) s

/-- The faults that a move has raised in firings of a capsule: core, slot, code and word of each. -/
def State.raised (before after : State) (cap : Nat) : List (Nat × Nat × Nat × Nat) :=
  let n := (after.cap cap).seqNo - (before.cap cap).seqNo
  let rs := (after.cap cap).records
  ((rs.drop (rs.length - n)).filter fun r => r.cls != 3).map fun r => (r.ep, r.slot, r.code, r.word)

/-- Redundancy-mismatch in slot k of a core (R418), in the state `t` after the primary's side of a move, or in the one before
it where that side's fault has ended the firing: the mismatch stands in place of it. DEDUCED (log 43): it names the word that
would issue next. -/
def State.mismatch (s t : State) (ep k : Nat) : State :=
  let go := fun (u : State) (f : Firing) => u.takeFault ep k ⟨0x13, f.sig, (f.shadow.map Shadow.sig).getD 0⟩ clsMismatch f.pc f.pc
  match (t.slot ep k).firing, (s.slot ep k).firing with
  | some g, some f => if g.id = f.id ∧ g.trap = f.trap then go t g else go s f
  | some g, none => go t g
  | none, some f => go s f
  | none, none => t

/-- A move of a redundant capsule, once both sides have made it: `s` before, `t` after the primary's side, `v` after the
shadow's. Only the primary's effects stand, and where the two sides have not raised the same faults the capsule raises
Redundancy-mismatch (R417, R418). -/
def State.joinSides (s t v : State) (cap : Nat) (c : Capsule) : State :=
  let a := s.raised t cap
  let b := s.raised v cap
  match (a.filter (fun r => !b.contains r) ++ b.filter fun r => !a.contains r).head? with
  | some r => s.mismatch t r.1 r.2.1
  | none => if (t.caps.find cap).isSome then c.pairs.foldl (fun t e => t.keepShadow v e.1 e.2) t else t

/-- An error of the hardware strikes one side of a pair alone. -/
def Move.oneSided (m : Move) : Bool :=
  match m with
  | .event (.uncorrectableError _) => true
  | _ => false

/-- The event is one of a shadow's own matrix unit, which works in step with its primary's. -/
def State.ofShadow (s : State) (i : Instr) : Bool :=
  match i with
  | .matrixOpStart ep _ | .matrixOpFinish ep _ => (s.core ep).shadowOf.isSome
  | _ => false

/-- Every redundant capsule's shadows make the move too, `side` being how it is made. -/
def State.mirror (s t : State) (m : Move) (side : State → Host.Outcome State Fault Refusal) : State :=
  if m.oneSided then t
  else (s.caps.filter fun e => e.2.redundant).foldl (fun t e =>
    match side (s.asShadow e.2) with
    | .next v => s.joinSides t v e.1 e.2
    | _ => t) t

end Sys2Proof.Machine
end

