-- ==== Sys2Proof/Machine/Admission.lean ====
section
/-!
DEFINITION. Admission (02 R21, R22, 17 R320 to R334, 21 R404, R409, R413, R414): the checks of Table 17.6 in order,
placement, pre-emption for a request, refusal, and the start of a capsule or of a continuation.
-/
namespace Sys2Proof.Machine

/-! The image's fields (Tables 17.1 to 17.5). -/

def imgFlag (b : List Byte) (i : Nat) : Bool := bit (lget b 0xC 4) i
/-- A child's image (R332); the continuation of a child has both flags and is sealed as every continuation is (R412). -/
def imgChild (b : List Byte) : Bool := imgFlag b 4 && !imgFlag b 3
def imgExtents (b : List Byte) : Nat := lget b 0x3C 2
def imgActors (b : List Byte) : Nat := lget b 0x3E 2
def imgSuccs (b : List Byte) : Nat := lget b 0x58 2
def imgMin (b : List Byte) : Nat := lget b 0x40 2
def imgMax (b : List Byte) : Nat := lget b 0x42 2
def imgPlacement (b : List Byte) : Nat := lget b 0x44 1
def imgDies (b : List Byte) : Nat := lget b 0x45 1
def imgPolicy (b : List Byte) : Nat := lget b 0x50 4
def imgReport (b : List Byte) : Nat := lget b 0x54 1
def imgCont (b : List Byte) : Nat := lget b 0x55 1
def imgFaultBox (b : List Byte) : Nat := lget b 0x56 2
def imgOwner (b : List Byte) : Nat := lget b 0x10 8
def imgTrailer (b : List Byte) : Nat := trailerAt (imgExtents b) (imgActors b) (imgSuccs b)
/-- Where the padding begins, and the total length the counts give. -/
def imgPad (b : List Byte) : Nat := imgTrailer b + if imgFlag b 3 then 64 else 0
def imgTotal (b : List Byte) : Nat := ceilDiv (imgPad b) 64 * 64 + 384

/-- A descriptor's bits and its fields. -/
def descBits (b : List Byte) (i : Nat) : Nat := lget b (0x160 + 32 * i) 32
def extentOf (d : Nat) : Extent :=
  { base := bits d 0 52, home := bits d 52 6, length := bits d 64 64, comm := bits d 128 64, attr := BitVec.ofNat 12 (bits d 192 12)
    owner := bits d 224 32, comm0 := bits d 128 64 }
def imgExtent (b : List Byte) (i : Nat) : Extent := extentOf (descBits b i)

/-- Manifest entry i. -/
def imgEntry (b : List Byte) (i : Nat) : List Byte := (b.drop (manifestAt (imgExtents b) + 64 * i)).take 64
/-- The mailboxes an entry declares. -/
def entryBoxes (m : List Byte) : AMap Mailbox :=
  (List.range 16).filterMap fun j =>
    let x := lget m (0x10 + j) 1
    if bit x 7 then some (j, { ty := bits x 5 2, count := bits x 0 4 }) else none
/-- The actor of a manifest entry, on no core yet. -/
def entryActor (m : List Byte) : Actor :=
  { entry := lget m 0 4, logical := lget m 4 2, ep := 0, stage := lget m 6 1, production := lget m 7 1, privSize := lget m 8 4
    privOff := 0, budget := lget m 0xC 4, boxes := entryBoxes m }

/-- Successor reference i. -/
def imgSucc (b : List Byte) (i : Nat) : List Byte :=
  (b.drop (manifestAt (imgExtents b) + 64 * imgActors b + 16 * i)).take 16

/-! The checks of Table 17.6: the reason and the detail of a refusal, or nothing. -/

/-- No index. -/
def noDetail : Nat := 0xFFFFFFFF

/-- The first index at which a test holds, as a refusal. -/
def refuseAt (reason : Nat) (n : Nat) (bad : Nat → Bool) : Option (Nat × Nat) :=
  ((List.range n).find? bad).map fun i => (reason, i)
def refuseIf (reason : Nat) (bad : Bool) : Option (Nat × Nat) := if bad then some (reason, noDetail) else none

/-- Check 1, with the fault policy (R390). -/
def check1 (a : Admission) : Option (Nat × Nat) :=
  let b := a.image
  let p := imgPolicy b
  let child := match a.origin with | .child _ _ _ _ _ => true | _ => false
  refuseIf 0x01 <|
    b.length != a.length || lget b 0 4 != 0x48414C41 || lget b 4 2 != 1 || lget b 6 2 != 0x160 || lget b 8 4 != a.length
    || a.length % 64 != 0 || lget b 0xC 4 / 32 != 0 || (if child then !imgChild b else imgChild b)
    || decide (imgExtents b < 4 ∨ 64 < imgExtents b) || imgTotal b != a.length || lget b 0x38 4 != manifestAt (imgExtents b)
    || !zeroFrom b 0x5A 6 || !zeroFrom b (imgPad b) (a.length - 384 - imgPad b)
    || !zeroFrom b (0x160 + 32 * imgExtents b) (manifestAt (imgExtents b) - (0x160 + 32 * imgExtents b))
    || (imgCont b != 0xFF && decide (64 ≤ imgCont b))
    || bits p 16 16 != 0 || bits p 5 3 != 0 || bits p 2 2 == 2 || bits p 0 2 == 3

/-- The message a seal covers, and the seal (R322). -/
def sealBody (b : List Byte) : List Byte := b.take (b.length - 384)
def sealBytes (b : List Byte) : List Byte := b.drop (b.length - 384)

def Chip.ownerKeyOf (h : Chip) (id : Nat) : Option OwnerKey :=
  match h.config with
  | some r => r.keys.find? fun k => k.id == id
  | none => none

/-- The Alahitric seal under an owner key, or the device's seal of a continuation (R322, R326). -/
def sealHolds (ident : Nat) (k : OwnerKey) (b : List Byte) : Bool :=
  if imgFlag b 3 then
    pssVerify (Config.deviceModulus ident) (Config.deviceExponent ident) (sealBody b) (sealBytes b)
      || sealBytes b == deviceSeal ident (sealBody b)
  else pssVerify k.modulus k.exponent (sealBody b) (sealBytes b)

/-- Check 2: the owner key, the queue's or the parent's, and the seal or its cached hash (R325, R332). -/
def check2 (h : Chip) (a : Admission) : Option (Nat × Nat) :=
  let b := a.image
  refuseIf 0x02 <| match h.ownerKeyOf (imgOwner b) with
    | none => true
    | some k =>
      (match a.ownerKey with | some o => o != imgOwner b | none => false)
      || (if imgChild b then sealBytes b != a.sealed ++ zeros (384 - a.sealed.length)
          else !(h.sealCache.contains (sha256 b, imgOwner b) || sealHolds h.ident k b))

/-- Check 3: a continuation is admitted once (R326). -/
def check3 (h : Chip) (a : Admission) : Option (Nat × Nat) :=
  refuseIf 0x09 (imgFlag a.image 3 && h.spent.contains (sha256 a.image))

/-- The code image behind slot 0's descriptor, on the read path of Q(dev): at most the extent's length. -/
def State.codeOf (s : State) (chip : Nat) (e : Extent) : List Byte :=
  let key := keyOf e.homeKey e.base
  let head := (s.fwRead chip key (min 96 e.length)).1
  (s.fwRead chip key (min (codeImageLen head) e.length)).1

/-- R55, R57. -/
def codeBad (code : List Byte) (len : Nat) : Bool :=
  let n := codeImageLen code
  let eoff := lget code 0xC 4
  let cnt := codeEntries code
  let boff := lget code 0x14 4
  let blen := lget code 0x18 4
  decide (code.length < 96) || lget code 0 4 != 0x4358594C || lget code 4 2 != 1 || lget code 6 2 != 96
    || !zeroFrom code 0x1C 68 || n % 12 != 0 || decide (len < n) || eoff % 8 != 0 || decide (blen < ceilDiv (n / 12) 8)
    || decide (n < eoff + 8 * cnt) || decide (n < boff + blen)
    || (List.range cnt).any fun i => lget code (eoff + 8 * i + 4) 4 != 0 || !codeMarked code (codeEntry code i)

/-- Check 4, with the trap entry (R390). -/
def check4 (a : Admission) (code : List Byte) : Option (Nat × Nat) :=
  let p := imgPolicy a.image
  refuseIf 0x04 (codeBad code (imgExtent a.image 0).length
    || (bits p 0 2 == 2 && decide (codeEntries code ≤ bits p 8 8)))

/-- Check 5 (R325). -/
def check5 (a : Admission) (code : List Byte) : Option (Nat × Nat) :=
  refuseIf 0x03 (sha256 code != (a.image.drop 0x18).take 32)

/-- R327, R328 and R309 for descriptor i; the stack of a child is made for it (R333). -/
def extentBad (chip : Nat) (b : List Byte) (i : Nat) : Bool :=
  let d := descBits b i
  let e := imgExtent b i
  let fresh := imgChild b && i == 1
  bits d 58 6 != 0 || bits d 204 20 != 0 || bits e.attr.toNat 6 2 == 3 || e.base % 64 != 0 || e.length == 0
    || decide (e.length < e.comm) || (e.has permG && e.comm % 65536 != 0) || (e.window && !e.has (permW ||| permA))
    || (e.isHost && (e.has permG || e.window || e.shared || e.home != 0))
    || (i == 0 && !e.has permX)
    || (i == 1 && (!e.has (permR ||| permW ||| permG) || e.length % 262144 != 0 || e.comm % 262144 != 0))
    || (if fresh then e.base != 0 || e.home != 0 else !e.isHost && e.home != chip && !e.has permE)

/-- The report extent (R389). -/
def reportBad (b : List Byte) : Bool :=
  let r := imgReport b
  r != 0xFF && (decide (imgExtents b ≤ r) || !(imgExtent b r).has (permR ||| permW) || decide ((imgExtent b r).length < 64))

/-- Check 6. -/
def check6 (chip : Nat) (a : Admission) : Option (Nat × Nat) :=
  let b := a.image
  refuseAt 0x05 (imgExtents b) (extentBad chip b) <|> if reportBad b then some (0x05, imgReport b) else none

/-- An extent lies in a region of its owner tag, and the key may seal the tag (R323, R423). -/
def State.regionBad (s : State) (chip : Nat) (b : List Byte) (i : Nat) : Bool :=
  let e := imgExtent b i
  let h := s.chip (if e.isHost then chip else e.home)
  let tagOk := match (s.chip chip).config with
    | some r => r.tags.any fun t => t.tag == e.owner && t.key == imgOwner b
    | none => false
  let a := e.base % 2 ^ 51
  let inside := h.regions.any fun r =>
    r.owner == e.owner && r.host == e.isHost && decide (r.base ≤ a ∧ a + e.length ≤ r.base + r.length)
  let firm := !e.isHost && decide (Config.firmwareBase < a + e.length)
  !tagOk || (!(imgChild b && i == 1) && (!inside || firm))
/-- Check 7. -/
def check7 (s : State) (chip : Nat) (a : Admission) : Option (Nat × Nat) :=
  refuseAt 0x06 (imgExtents a.image) (s.regionBad chip a.image)

/-- Attenuation of a child's extent against one extent of its parent (R332). -/
def within (c p : Extent) (x : Nat) : Bool :=
  let limited := 0xC1F
  let k := keyOf c.homeKey c.base
  c.owner == p.owner && c.homeKey == p.homeKey && !c.has permG && c.attr.toNat &&& limited &&& p.attr.toNat == c.attr.toNat &&& limited
    && (p.ranges x).any fun r => decide (r.1 ≤ k ∧ k + c.length ≤ r.2)
/-- Check 8: attenuation, dies, and the right to pre-empt (R332, R350). -/
def check8 (h : Chip) (a : Admission) : Option (Nat × Nat) :=
  let b := a.image
  if !imgChild b then none
  else
    let dies := match h.ownerKeyOf (imgOwner b) with | some k => k.dieMask | none => 0
    refuseAt 0x08 (imgExtents b) (fun i => i != 1 && !a.parent.any fun p => within (imgExtent b i) p.2 p.1)
    <|> refuseIf 0x08 ((imgDies b % 16) &&& dies != imgDies b % 16 || (bit (imgPlacement b) 1 && !bit a.placement 1))

/-- A manifest entry breaks Table 17.3 or R245. -/
def entryBad (b code : List Byte) (i : Nat) : Bool :=
  let m := imgEntry b i
  let a := entryActor m
  decide (codeEntries code ≤ a.entry) || decide (imgMax b ≤ a.logical) || decide (15 < a.stage) || a.privSize % 64 != 0
    || !zeroFrom m 0x20 32 || (List.range 16).any (fun j => bit (lget m (0x10 + j) 1) 4)
    || (a.boxes.any fun x => decide (x.2.count < 1 ∨ 8 < x.2.count))
    || (a.isMessage && (a.boxes.length != 1 || a.boxes.any fun x => x.2.count != 1))
/-- A successor reference breaks Table 17.4. -/
def succBad (b : List Byte) (i : Nat) : Bool :=
  let m := imgSucc b i
  bits (lget m 0 8) 52 11 != 0 || lget m 0 8 % 64 != 0 || decide (lget m 0xC 2 < 1 ∨ 16 < lget m 0xC 2) || lget m 0xE 2 != 0

/-- The successors of an image, addresses as locations. -/
def imgSuccList (chip : Nat) (b : List Byte) : List Succ :=
  (List.range (imgSuccs b)).map fun i =>
    let m := imgSucc b i
    { addr := (rawKey chip (lget m 0 8)).getD 0, length := lget m 8 4, preds := lget m 0xC 2 }

/-- Core and private offset of each actor, in manifest order, once logical numbers are folded onto the cores; the index
of the first that does not fit (R14, R244, R245, R321). -/
def foldActors (cores : List Nat) : List (Nat × Actor) → List Load → Except Nat (List Actor)
  | [], _ => .ok []
  | (i, a) :: as, ls =>
    let ep := cores.getD (a.logical % cores.length) 0
    match ls.find? fun l => l.ep == ep with
    | none => .error i
    | some l => match l.add a with
      | none => .error i
      | some l' =>
        match foldActors cores as (ls.map fun l => if l.ep = ep then l' else l) with
        | .ok r => .ok ({ a with logical := a.logical % cores.length, ep := ep, privOff := l'.low } :: r)
        | .error e => .error e

def emptyLoad (ep : Nat) : Load := { ep := ep, actors := 0, boxes := 0, message := false, low := Config.lBytes }
def imgActorList (b : List Byte) : List (Nat × Actor) := (List.range (imgActors b)).map fun i => (i, entryActor (imgEntry b i))
/-- DEDUCED (log 40). The manifest itself keeps the limits of one core, each logical core by its own number: row 9 of
Table 17.6. Row 10 applies them again once the numbers are folded (R22). -/
def manifestFull (b : List Byte) : Option (Nat × Nat) :=
  let cores := List.range (imgMax b)
  match foldActors cores ((imgActorList b).map fun e => (e.1, { e.2 with privSize := 0 })) (cores.map emptyLoad) with
  | .error i => some (0x07, i)
  | .ok _ => none

/-- Check 9. DEDUCED (log 40): the tallies that successors of running capsules (`awaited`) will need count too, so that no
completion passes the 4,096 of R335. -/
def check9 (h : Chip) (chip : Nat) (awaited : List Nat) (a : Admission) (code : List Byte) : Option (Nat × Nat) :=
  let b := a.image
  let f := imgFaultBox b
  let new := ((imgSuccList chip b).map Succ.addr ++ awaited).eraseDups.filter fun x => !h.tallies.any fun t => t.addr == x
  refuseIf 0x07 (decide (imgMin b < 1 ∨ imgMax b < imgMin b ∨ 1024 < imgMax b) || imgPlacement b / 4 != 0
      || decide (imgDies b < 1 ∨ 15 < imgDies b) || lget b 0x46 2 != 0
      || (bit (imgPlacement b) 0 && (imgMin b % 4 != 0 || imgMax b % 4 != 0)) || imgActors b == 0)
  <|> refuseAt 0x07 (imgActors b) (entryBad b code)
  <|> manifestFull b
  <|> refuseIf 0x07 (f != 0xFFFF && (decide (imgActors b ≤ f / 16)
      || !(entryBoxes (imgEntry b (f / 16))).any fun x => x.1 == f % 16 && x.2.ty == 0))
  <|> refuseIf 0x07 (decide (16 < imgSuccs b))
  <|> refuseAt 0x07 (imgSuccs b) (succBad b)
  <|> refuseIf 0x07 (decide (Config.tallyCount < h.tallies.length + new.length))

/-- Image addresses of the successors of a chip's running capsules. -/
def State.awaited (s : State) (chip : Nat) : List Nat :=
  (s.caps.filter fun e => e.2.chip == chip).flatMap fun e => e.2.succs.map Succ.addr

/-- Checks 1 to 9 in order. -/
def State.checks (s : State) (chip : Nat) (a : Admission) : Option (Nat × Nat) :=
  let h := s.chip chip
  let code := s.codeOf chip (imgExtent a.image 0)
  check1 a <|> check2 h a <|> check3 h a <|> check4 a code <|> check5 a code <|> check6 chip a <|> check7 s chip a
    <|> check8 h a <|> check9 h chip (s.awaited chip) a code

/-! Placement (R22, check 10). -/

/-- The chip's cores in the order of R22: the dies of the mask, and where squares are asked for only those wholly in the
list; the configuration record may turn the order round (Table 22.3). -/
def placeOrder (h : Chip) (b : List Byte) (avail : List Nat) : List Nat :=
  let ok := avail.filter fun e => bit (imgDies b) (dieOf e % 4)
  let whole := if bit (imgPlacement b) 0 then ok.filter fun e => squareCores e |>.all ok.contains else ok
  match h.config with
  | some r => if r.placement then whole.reverse else whole
  | none => whole

/-- The cores granted, by rising endpoint ID: the maximum where that many are available, else as many as there are, at
least the minimum; twice the number for a redundant capsule (R416). -/
def chooseCores (h : Chip) (b : List Byte) (avail : List Nat) : Option (List Nat) :=
  let o := placeOrder h b avail
  let f := if imgFlag b 0 then 2 else 1
  let n := min (f * imgMax b) (o.length / f * f)
  if n < f * imgMin b then none
  else
    let g := o.take n
    some (match h.config with
      | some r => if r.placement then g.reverse else g
      | none => g)

/-- Primaries and shadows; none where a shadow lies in its primary's square (R416). -/
def splitShadows (b : List Byte) (g : List Nat) : Option (List Nat × List Nat) :=
  if imgFlag b 0 then
    let m := g.length / 2
    let p := g.take m
    let q := g.drop m
    if (p.zip q).any fun e => squareOf e.1 == squareOf e.2 then none else some (p, q)
  else some (g, [])

def placeActors (b : List Byte) (cores : List Nat) : Except Nat (List Actor) :=
  foldActors cores (imgActorList b) (cores.map emptyLoad)

/-! The owner's reserve (check 11), and a child's stack (R333). -/

/-- Growth kept for a successor and taken up: the larger committed length (R334). -/
def Chip.keptComm (h : Chip) (o : Origin) (e : Extent) : Nat :=
  match o with
  | .successor run =>
    let ks := h.kept.filter fun k => k.runs.contains run && k.base == e.base && k.home == e.homeKey && k.owner == e.owner
    min e.length (ks.foldl (fun n k => max n k.comm) e.comm)
  | _ => e.comm

/-- The location range of a whole extent. -/
def Extent.whole (e : Extent) : Range := (keyOf e.homeKey e.base, keyOf e.homeKey e.base + e.length)
def meet (p q : Range) : Bool := decide (p.1 < q.2) && decide (q.1 < p.2)

/-- A place of the owner's memory for a child's stack of n bytes: no running capsule's extent, nothing of `own`, and no kept growth
lies there. -/
def State.stackFits (s : State) (own : List Range) (chip owner n a : Nat) : Bool :=
  let r : Range := (keyOf chip a, keyOf chip a + n)
  a % 64 == 0
    && ((s.chip chip).regions.any fun g => g.owner == owner && !g.host && decide (g.base ≤ a ∧ a + n ≤ g.base + g.length))
    && !s.meetsRetired r && (s.caps.all fun c => c.2.extents.all fun e => !meet r e.2.whole) && (own.all fun q => !meet r q)
    && (s.chip chip).kept.all fun k => !meet r (keyOf k.home k.base, keyOf k.home k.base + k.comm)
/-- DESIGN CHOICE (log 5). The stack's base: a free value where it is a fit place, else the lowest fit place that begins
a region or follows an extent or a retired page. -/
def State.stackBase (s : State) (own : List Range) (chip owner n : Nat) : Option Nat :=
  let up := fun x => ceilDiv x 64 * 64
  let starts := ((s.chip chip).regions.map fun g => up g.base)
    ++ (s.caps.flatMap fun c => c.2.extents.map fun e => up (addrOf (e.2.whole.2))) ++ (own.map fun q => up (addrOf q.2))
    ++ ((s.chip chip).kept.map fun k => up (addrOf (keyOf k.home k.base + k.comm)))
    ++ (s.chip chip).telemetry.retiredPages.map fun p => (p + 1) * 4096
  let free := Config.freeNat s.fresh
  if s.stackFits own chip owner n free then some free
  else (starts.filter (s.stackFits own chip owner n)).foldl (fun (m : Option Nat) x => match m with
    | some y => some (min x y)
    | none => some x) none

/-- What a child's stack may not lie on beside what runs: its own other extents, and those of parked capsules but the one that it
continues (Table 2.6). -/
def Chip.ownRanges (h : Chip) (b : List Byte) (es : AMap Extent) : List Range :=
  (es.filter fun x => x.1 != 1).map (fun x => x.2.whole)
    ++ (h.conts.filter fun k => !imgFlag b 3 || k.cap != lget b (imgTrailer b + 0x30) 8).flatMap ContEnt.ranges
/-- The extents a capsule starts with; none where a child's stack finds no place. -/
def State.startExtents (s : State) (chip : Nat) (a : Admission) : Option (AMap Extent) :=
  let b := a.image
  let es : AMap Extent := (List.range (imgExtents b)).map fun i =>
    let e := imgExtent b i
    (i, { e with comm := (s.chip chip).keptComm a.origin e, comm0 := e.comm })
  if imgChild b then
    match es.find 1 with
    | none => none
    | some e => (s.stackBase ((s.chip chip).ownRanges b es) chip e.owner e.length).map fun base =>
        es.put 1 { e with base := base, home := chip }
  else some es

/-- The reserve of every owner tag bears the capsule's committed bytes (R330). -/
def State.reserveOk (s : State) (chip : Nat) (es : AMap Extent) : Bool :=
  es.all fun x =>
    let mine := (es.filter fun y => y.2.owner == x.2.owner).flatMap fun y => y.2.ranges y.1
    decide (measure (mine ++ s.committed chip x.2.owner) ≤ (s.chip chip).reserve x.2.owner)

/-! Pre-emption for a request (R404, R409). -/

/-- Cores of a chip that a request may be placed on: free ones and those already taken for it. -/
def State.available (s : State) (chip id : Nat) : List Nat :=
  ((List.range 1024).map fun i => chip * 1024 + i).filter fun e =>
    (s.core e).cap.isNone && ((s.core e).taker.isNone || (id != 0 && (s.core e).taker == some id))

/-- Victims by falling admission number, each with its cores by falling endpoint ID. -/
def State.victims (s : State) (chip priority dies : Nat) : List (Nat × Nat) :=
  ((s.caps.filter fun e => e.2.chip == chip && decide (e.2.priority < priority) && s.eligible e.1).reverse).flatMap fun e =>
    ((s.takableCores e.1).reverse.filter fun ep => bit dies (dieOf ep % 4)).map fun ep => (e.1, ep)

/-- The first cores of the victims that make a placement possible. -/
def takeUntil (h : Chip) (b : List Byte) (avail : List Nat) : List (Nat × Nat) → List (Nat × Nat) → Option (List (Nat × Nat))
  | [], taken => if (chooseCores h b avail).isSome then some taken else none
  | v :: vs, taken =>
    if (chooseCores h b avail).isSome then some taken
    else takeUntil h b (avail.filter (· < v.2) ++ [v.2] ++ avail.filter (v.2 < ·)) vs (taken ++ [v])

/-- Lower-priority work whose cores may still come free: a save under way for another request, of a move or of a park
(R409), or cores already taken for this one. -/
def State.savesUnderWay (s : State) (chip priority id : Nat) : Bool :=
  s.cores.any fun e => chipOf e.1 == chip &&
    match e.2.cap with
    | some c =>
      let saving := e.2.vacating || (match (s.cap c).state with | .parking _ => true | _ => false)
      (saving && decide ((s.cap c).priority < priority)) || (id != 0 && e.2.taker == some id)
    | none => false

/-! Decisions. -/

inductive Verdict where
  | wait
  | refuse (reason detail : Nat)
  /-- cores to take, with their capsules -/
  | take (cores : List (Nat × Nat))
  | start (cores shadows : List Nat) (actors : List Actor) (extents : AMap Extent)
  deriving DecidableEq, Repr

/-- Checks 10 to 12. -/
def State.placement (s : State) (chip : Nat) (a : Admission) : Verdict :=
  let h := s.chip chip
  let b := a.image
  let avail := s.available chip a.id
  match chooseCores h b avail with
  | none =>
    if !bit (imgPlacement b) 1 then .refuse 0x0A noDetail
    else if a.id != 0 && s.savesUnderWay chip 0 a.id then .wait
    else match takeUntil h b avail (s.victims chip a.priority (imgDies b)) [] with
      | some vs => .take vs
      | none => if s.savesUnderWay chip a.priority a.id then .wait else .refuse 0x0A noDetail
  | some g =>
    match splitShadows b g with
    | none => .refuse 0x0A noDetail
    | some (cores, shadows) =>
      match placeActors b cores with
      | .error i => .refuse 0x0A i
      | .ok actors =>
        match s.startExtents chip a with
        | none => .refuse 0x0B noDetail
        | some es =>
          if !s.reserveOk chip es then .refuse 0x0B noDetail
          else if a.failed then .refuse 0x0C noDetail
          else if imgFlag b 3 && (s.caps.find (lget b (imgTrailer b + 0x30) 8)).isSome then .wait
          else .start cores shadows actors es

def State.verdict (s : State) (chip : Nat) (a : Admission) : Verdict :=
  match s.checks chip a with
  | some (r, d) => .refuse r d
  | none => s.placement chip a

/-! Refusal (R21, R351, R414). -/

/-- An address as a packet gives it. -/
def rawAddr (key : Nat) : Nat := if homeOf key = 64 then 2 ^ 63 + addrOf key else addrOf key

def refusalRecord (a : Admission) (reason detail : Nat) : List Byte :=
  let known := reason != 0x01
  toBytes 4 (reason + 5 * 2 ^ 8) ++ toBytes 4 detail ++ toBytes 8 (if known then imgOwner a.image else 0)
    ++ (if known then sha256 a.image else zeros 32) ++ toBytes 8 (rawAddr a.addr) ++ zeros 8

/-- Posts the parent's message on an admission decision (R351); the request no longer counts. -/
def State.tellParent (s : State) (chip : Nat) (a : Admission) (reason child : Nat) : State :=
  match a.origin with
  | .child parent box _ ptr stamp =>
    let s := s.modCap parent fun c => { c with emits := c.emits - 1 }
    if box = 0xFFFF then s
    else s.postTyped (.firmware chip 1) parent box [0] (mkMsg (BitVec.ofNat 64 reason) (BitVec.ofNat 64 child) ptr 0 stamp)
      ((s.cap parent).cores.headD 0) 3
  | _ => s

/-- Cores taken for a request that no longer needs them go to the free pool. -/
def State.releaseTaken (s : State) (id : Nat) : State :=
  if id = 0 then s
  else { s with cores := s.cores.map fun e => (e.1, if e.2.taker = some id then { e.2 with taker := none } else e.2) }

/-- The report extent could be loaded: the image is authentic and the descriptor passes checks 6 to 8. A child's slot 1 has
no place yet (R333). -/
def State.reportExtent (s : State) (chip : Nat) (a : Admission) : Option Extent :=
  let b := a.image
  let r := imgReport b
  if (check1 a).isSome || (check2 (s.chip chip) a).isSome || (check3 (s.chip chip) a).isSome || r == 0xFF || reportBad b
      || extentBad chip b r || s.regionBad chip b r
      || (imgChild b && (r == 1 || !a.parent.any fun p => within (imgExtent b r) p.2 p.1)) then none
  else some (imgExtent b r)

/-- A request is refused; every successor that the image names is marked failed (R335). -/
def State.refuse (s : State) (chip : Nat) (a : Admission) (reason detail : Nat) : State :=
  let record := refusalRecord a reason detail
  let s := match s.reportExtent chip a with
    | some e => s.fwWrite (.dev chip) chip 0 (keyOf e.homeKey e.base) record true
    | none => s
  let s := s.modChip chip fun h => { h with refusals := h.refusals ++ [record] }
  let s := (s.releaseTaken a.id).tellParent chip a reason 0
  let s := match a.origin with
    | .packet c q k => s.conclude c q k 0x08
    | .successor run => s.modChip chip fun h => h.dropKept run
    | _ => s
  if imgSuccs a.image ≤ 16 ∧ imgTrailer a.image ≤ a.image.length then
    (imgSuccList chip a.image).foldl (fun s x => s.tallyUp chip a.priority true x) s
  else s

/-! The start of a capsule (Table 2.5 steps 4 to 6). -/

def startCapsule (chip : Nat) (a : Admission) (cores shadows : List Nat) (actors : List Actor) (es : AMap Extent) : Capsule :=
  let b := a.image
  let hash := sha256 b
  { chip := chip, origin := a.origin, priority := a.priority, image := b, imageAddr := a.addr, sealHash := hash
    sealed := if imgChild b then a.sealed else hash, ownerKey := imgOwner b, codeId := (b.drop 0x18).take 32
    redundant := imgFlag b 0, strict := imgFlag b 1, tritstrict := imgFlag b 2, deadline := lget b 0x48 4, budget := lget b 0x4C 4
    policy := imgPolicy b, reportSlot := imgReport b, contSlot := imgCont b, faultBox := imgFaultBox b, minCores := imgMin b
    maxCores := imgMax b, placement := imgPlacement b, extents := es, imageSlots := imgExtents b, actors := actors
    cores := cores, shadows := shadows, succs := imgSuccList chip b, granted := cores.length, successorOf := a.origin.run }

/-- Every core of the capsule gets its coordinate; a shadow has its primary's. -/
def State.grant (s : State) (cap : Nat) (cores shadows : List Nat) : State :=
  let idx := fun (l : List Nat) => (List.range l.length).zip l
  let s := (idx cores).foldl (fun s e => s.modCore e.2 fun k => { k with cap := some cap, logical := e.1, taker := none }) s
  (idx shadows).foldl (fun s e => s.modCore e.2 fun k =>
    { k with cap := some cap, logical := e.1, shadowOf := cores[e.1]?, taker := none }) s

/-- The argument block is loaded as slot 2 (Table 17.1): it stands in M, and in place of what an earlier owner of the bytes
left on its way there. -/
def State.loadArgs (s : State) (b : List Byte) (es : AMap Extent) : State :=
  match es.find 2 with
  | some e =>
    let key := keyOf e.homeKey e.base
    let bs := (b.drop 0x60).take (min 256 e.comm)
    (s.cover (key, key + bs.length) fun a => bs.getD (a - key) 0).writeM key bs
  | none => s

/-! Restoring a continuation (R413). -/

/-- A bank's slot from its 16,960 bytes. DESIGN CHOICE (log 41): the holder of a claim is one byte (Table 21.8), so a claim of
an actor with a manifest index above 253 comes back as that of the index modulo 256, and none for 254 and 255 modulo 256; the
spec does not say how such a holder is saved. -/
def bankFrom (r : List Byte) : Bank :=
  let h := lget r (16384 + 512 + 1) 1
  { data := BitVec.ofNat 131072 (lget r 0 16384), side := BitVec.ofNat 4096 (lget r 16384 512)
    tag := (Tag.ofCode (lget r 16896 1 % 32)).getD .raw, claim := if h ≥ 0xFE then .free else .actor h }
def tileFrom (r : List Byte) : Tile :=
  { data := BitVec.ofNat 524288 (lget r 0 65536), tag := (Tag.ofCode (lget r 65536 1 % 32)).getD .raw }
def counterFrom (w : Nat) : Counter :=
  { c := bits w 0 16, t := bits w 16 8, ovf := bit w 24, threshold := bits w 32 16, source := bits w 48 5 }
def termFrom (w v : Nat) : Term :=
  { mask := bits w 0 16, isOr := bit w 16, action := bits w 20 2, arg := bits w 24 16, armed := bits v 0 16, actions := bits v 16 32 }
def capEntFrom (cap w : Nat) : CapEnt := { gen := bits w 0 20, mask := bits w 20 24, cap := cap, live := false }

/-- A core takes its record; capability-table entries are restored dead. -/
def Core.restore (c : Core) (cap : Nat) (p : List Byte) (lines : Nat) : Core :=
  let at_ := fun (off n : Nat) => (p.drop off).take n
  let t0 := 16 * 16960
  let c0 := t0 + 8 * 65600
  let x0 := c0 + 128
  let d0 := x0 + 256
  let l0 := d0 + 32
  let c := { c with
    banks := (List.range 16).map fun i => (i, bankFrom (at_ (16960 * i) 16960))
    tiles := (List.range 8).map fun i => (i, tileFrom (at_ (t0 + 65600 * i) 65600))
    captab := (List.range 16).map fun i => (i, capEntFrom cap (lget p (c0 + 8 * i) 8))
    counters := (List.range 16).map fun i => (i, counterFrom (lget p (x0 + 8 * i) 8))
    terms := (List.range 8).map fun i => (i, termFrom (lget p (x0 + 128 + 16 * i) 8) (lget p (x0 + 136 + 16 * i) 8))
    chans := (List.range 4).map fun i => (i, { deal := BitVec.ofNat 64 (lget p (d0 + 8 * i) 8) }) }
  (List.range lines).foldl (fun c i =>
    let off := lget p (l0 + 72 * i) 8
    if off + 64 ≤ Config.lBytes then c.lwrite off (at_ (l0 + 72 * i + 8) 64) false else c) c

/-- The die a saved queue goes to: its own where the capsule holds cores there, else the lowest it holds. -/
def Capsule.homeDie (c : Capsule) (d : Nat) : Nat := if c.dies.contains d then d else c.dies.foldl min 3

def wordAt (p : List Byte) (off : Nat) : Word := BitVec.ofNat 64 (lget p off 8)

/-- Messages of an actor record, in order. DESIGN CHOICE (log 5). The layout has no room for an active message's
handler: it is a free value. -/
def savedMsgs (fresh : Nat) (p : List Byte) (n : Nat) : List (Nat × Msg) :=
  (List.range n).map fun i =>
    let o := 48 * i
    (lget p (o + 0x24) 1, { w0 := wordAt p o, w1 := wordAt p (o + 8), w2 := wordAt p (o + 16), w3 := wordAt p (o + 24)
                            stamp := lget p (o + 0x20) 4
                            handler := if lget p (o + 0x25) 1 = 2 then Config.freeNat (fresh + i) else 0 })

/-- An actor takes its record. Of more than 8 messages for one mailbox (R14) the later ones wait in the gateway. -/
def State.restoreActor (s : State) (cap : Nat) (r : List Byte) : State :=
  let i := lget r 2 2
  match (s.cap cap).actors[i]? with
  | none => s
  | some a =>
    let flags := lget r 0xD 1
    let q := lget r 0xE 2
    let die := (s.cap cap).homeDie (q / 16)
    let n := (List.range 16).foldl (fun n j => n + lget r (0x10 + j) 1) 0
    let size := lget r 8 4
    let p := r.drop 64
    let msgs := savedMsgs s.fresh (p.drop size) n
    let e := p.drop (size + 48 * n)
    let a' := { a with
      stage := lget r 0xC 1, fired := bit flags 0
      state := if bit flags 1 then .waiting die (q % 16) else if bit flags 3 then .ready else .armed
      held := if bit flags 3 then
          [{ die := die, q := q % 16, w0 := wordAt e 0, w1 := wordAt e 8, w2 := wordAt e 16, w3 := wordAt e 24 }]
        else []
      boxes := a.boxes.map fun b => (b.1, { b.2 with msgs := ((msgs.filter fun m => m.1 == b.1).take Config.mailboxDepth).map Prod.snd }) }
    let excess := a.boxes.flatMap fun b => ((msgs.filter fun m => m.1 == b.1).drop Config.mailboxDepth).map fun m =>
      { src := .gateway (s.cap cap).chip, cap := cap, addr := 16 * i + b.1, msg := m.2 : HeldMsg }
    let s := { s with fresh := s.fresh + n, held := s.held ++ excess }
    let s := s.modActor cap i fun _ => a'
    if size = 0 ∨ size ≠ a.privSize then s else s.modCore a.ep fun k => k.lwrite a.privOff (p.take size) false

/-- A record of the save area takes effect. DEDUCED (log 43): a shadow's matrix stores go on from its primary's, whose record the
save holds. -/
def State.restoreRecord (s : State) (cap : Nat) (r : List Byte) : State :=
  let c := s.cap cap
  let index := lget r 2 2
  let p := r.drop 64
  let core := c.cores.getD (index % c.cores.length) 0
  match lget r 0 2 with
  | 1 => s.restoreActor cap r
  | 2 =>
    match c.cores[index]? with
    | some ep =>
      let s := s.modCore ep fun k => k.restore cap p (lget r 0xC 4)
      match c.shadows[index]? with
      | some q => s.modCore q fun k => k.withOwn (s.core ep)
      | none => s
    | none => s
  | 3 =>
    let die := c.homeDie (index / 16)
    let n := lget r 8 2
    let h := (s.chip c.chip).adopt cap die (index % 16)
    let es := (List.range n).map fun i =>
      { die := die, q := index % 16, w0 := wordAt p (32 * i), w1 := wordAt p (32 * i + 8), w2 := wordAt p (32 * i + 16)
        w3 := wordAt p (32 * i + 24) : HeldEntry }
    let ws := (List.range (lget r 0xC 2)).map fun i => lget p (32 * n + 2 * i) 2
    { s with chips := s.chips.put c.chip (h.1.setWq h.2 ((h.1.wq h.2).join es (lget r 0xA 1 != 0) ws)) }
  | 4 =>
    let ts := (List.range (lget r 8 2)).map fun i =>
      let t := (p.drop (64 * i)).take 64
      taskOf t (lget t 4 4)
    let n := Config.dequeDepth - (s.core core).deque.length
    (s.modCore core fun k => { k with deque := k.deque ++ ts.take n }).modCap cap fun c => { c with late := c.late ++ ts.drop n }
  | 5 =>
    (List.range (lget r 8 4)).foldl (fun s i =>
      let card := (p.drop (128 * i)).take 128
      let l := if bit (lget card 0xC 2) 3 then 0 else lget card 0xE 2 % 1024
      let ep := c.cores.getD (l % c.cores.length) 0
      let n : Node := { cap := cap, slot := 0, card := card, ptr := 0, src := ep }
      if (s.chip c.chip).poolRoom (dieOf ep % 4) then s.modChip c.chip fun h => h.addNode (dieOf ep % 4) n
      else s.modCap cap fun c => { c with lateNodes := c.lateNodes ++ [n] }) s
  | _ => s

/-- The records behind one another; each names its own length. -/
def State.restoreRecords : Nat → State → Nat → List Byte → State
  | 0, s, _, _ => s
  | n + 1, s, cap, b =>
    let len := lget b 4 4
    if len < 64 ∨ b.length < len then s else State.restoreRecords n (s.restoreRecord cap (b.take len)) cap (b.drop len)

/-- Derived extents of the extent image come back: those behind the image's own (R348, R410). -/
def Capsule.withDerived (c : Capsule) (image : List Byte) : Capsule :=
  ((List.range 64).drop c.imageSlots).foldl (fun c i =>
    let e := extentOf (lget image (32 * i) 32)
    if e.length = 0 then c else { c with extents := c.extents.put i { e with derived := true } }) c

/-- The save area that a continuation's trailer names, read on the path of Q(dev). -/
def State.restoreAll (s : State) (chip cap : Nat) (b : List Byte) : State :=
  let c := s.cap cap
  match c.extents.find c.contSlot with
  | none => s
  | some e =>
    let off := lget b (imgTrailer b + 0x28) 8
    if e.length < off + 64 then s
    else
      let head := (s.fwRead chip (e.key c.contSlot 0 off) 64).1
      let used := lget head 8 8
      let s := if e.length < off + 2112 then s
        else s.modCap cap fun c => c.withDerived (s.fwRead chip (e.key c.contSlot 0 (off + 64)) 2048).1
      let s := s.modCap cap fun c => { c with
        acked := lget head 0x20 4, seqNo := lget head 0x20 4, told := lget head 0x20 4, seen := lget head 0x20 4, overflow := lget head 0x24 4, saveCount := lget head 0x10 4 }
      if used < 2112 ∨ e.length < off + used then s
      else State.restoreRecords (lget head 0x14 4) s cap (s.fwRead chip (e.key c.contSlot 0 (off + 2112)) (used - 2112)).1

/-- The admission number of the next capsule: never 0 in 32 bits (Table 18.5). -/
def Chip.newNumber (h : Chip) : Nat := if h.nextNumber % 2 ^ 32 = 0 then h.nextNumber + 1 else h.nextNumber

/-- A continuation leaves the list and is never admitted (Table 22.5). DEDUCED (log 40): what was kept for its capsule as a
successor is released then. -/
def Chip.dropCont (h : Chip) (x : List Byte) : Chip :=
  let gone := (h.conts.filter fun c => c.hash == x).filterMap ContEnt.successorOf
  gone.foldl Chip.dropKept { h.setConts (h.conts.filter fun c => c.hash != x) with spent := h.spent ++ [x] }

/-- A continuation goes on from the first admission of its capsule: what it took up as a successor, and the committed
lengths above which growth is its own (R331, R334). -/
def Capsule.continues (c : Capsule) (k : ContEnt) : Capsule :=
  { c with successorOf := k.successorOf
           extents := c.extents.map fun e => (e.1, { e.2 with comm0 := k.comm0.get e.2.comm0 e.1 }) }

/-- A capsule starts: its extents are backed, its cores set up, its state restored where it continues another's, and its
actors without input made ready. -/
def State.start (s : State) (chip : Nat) (a : Admission) (cores shadows : List Nat) (actors : List Actor) (es : AMap Extent) :
    State :=
  let b := a.image
  let cont := imgFlag b 3
  let n := (s.chip chip).newNumber
  let cap := if cont then lget b (imgTrailer b + 0x30) 8 else chip * 2 ^ 32 + n % 2 ^ 32
  let s := if cont then s else s.modChip chip fun h => { h with nextNumber := n + 1 }
  let s := (s.grant cap cores shadows).releaseTaken a.id
  let c := startCapsule chip a cores shadows actors es
  let c := match (s.chip chip).conts.find? fun k => cont && k.hash == sha256 b with
    | some k => c.continues k
    | none => c
  let s := { s with caps := s.caps.put cap c, fresh := s.fresh + 1 }
  let s := if imgChild b then match es.find 1 with
      | some e => (e.ranges 1).foldl State.zeroM s
      | none => s
    else s
  let s := s.loadArgs b es
  let s := if cont then
      (s.modChip chip fun h =>
        let x := sha256 b
        { h.setConts (h.conts.filter fun k => k.hash != x) with spent := h.spent ++ [x] }).restoreAll chip cap b
    else s
  let s := ((List.range actors.length).foldl (fun s i => s.resume cap i) s).serveQueues cap
  let s := s.noteCap cap
  s.tellParent chip a 0 cap

/-! The event. -/

/-- The copy of an image (R324): what cannot be read whole is no image. -/
def State.copyImage (s : State) (chip : Nat) (a : Admission) : Admission :=
  if !a.image.isEmpty then a
  else
    let bad := homeOf a.addr < 64 && decide (Config.hbmTop < addrOf a.addr + a.length)
    let r := s.fwRead chip a.addr a.length
    { a with image := if bad || r.2 || r.1.isEmpty then [0] else r.1 }

/-- The pair of a seal that passed goes into the cache, in place of the oldest of 4,096 (R325). -/
def Chip.cacheSeal (h : Chip) (a : Admission) : Chip :=
  let x := (sha256 a.image, imgOwner a.image)
  if imgChild a.image ∨ h.sealCache.contains x then h
  else { h with sealCache := h.sealCache.drop (h.sealCache.length - 4095) ++ [x] }

def Chip.setAdmission (h : Chip) (i : Nat) (a : Admission) : Chip := { h with admissions := listSet h.admissions i a }
def Chip.dropAdmission (h : Chip) (i : Nat) : Chip := { h with admissions := listDel h.admissions i }

/-- The first request that a decision can be made for, after its image has been copied. -/
def State.nextAdmission (s : State) (chip : Nat) : Option (Nat × Admission × Verdict) :=
  let as := (s.chip chip).admissions
  (((List.range as.length).zip as).map fun e =>
    let a := s.copyImage chip e.2
    (e.1, a, s.verdict chip a)).find? fun e => e.2.2 != .wait || (match as[e.1]? with | some a => a.image.isEmpty | none => false)

/-- Event CAPSULE_ADMISSION (R21): one decision for one request; no request is taken up during a warm reboot. -/
def execCapsuleAdmission (chip : Nat) (s : State) : Host.Outcome State Fault Refusal :=
  if (s.chip chip).frozen || (s.chip chip).boot != .ready then .next s
  else match s.nextAdmission chip with
    | none => .next s
    | some (i, a, v) =>
      let s := if (check1 a).isNone && (check2 (s.chip chip) a).isNone then s.modChip chip fun h => h.cacheSeal a else s
      match v with
      | .wait => .next (s.modChip chip fun h => h.setAdmission i a)
      | .refuse r d => .next ((s.modChip chip fun h => h.dropAdmission i).refuse chip a r d)
      | .start cores shadows actors es =>
        .next ((s.modChip chip fun h => h.dropAdmission i).start chip a cores shadows actors es)
      | .take vs =>
        let id := if a.id = 0 then s.fresh else a.id
        let s := (s.modChip chip fun h => h.setAdmission i { a with id := id }).bump
        .next ((vs.map Prod.fst).eraseDups.foldl (fun s c =>
          s.takeCores c ((vs.filter fun v => v.1 == c).map Prod.snd) id) s)

end Sys2Proof.Machine
end

