-- ==== Sys2Proof/Machine/Firmware.lean ====
section
/-!
DEFINITION. The firmware complex, the host and the module (22, and 17 R338, R339, 18 R356, 21 R389, R404, R415, R419).
-/
namespace Sys2Proof.Machine

/-! Fault records and attestation reports. -/

/-- Step 1 of R389: the record's offset in the report extent where it is written. -/
def State.writeRecord (s : State) (cap : Nat) (r : FaultRec) : State × Option Nat :=
  let c := s.cap cap
  if c.reportSlot = 0xFF then (s, none)
  else
    let late := fun (s : State) => if c.seen < r.seq then
        s.modCap cap fun c => { c with overflow := min (c.overflow + 1) (2 ^ 32 - 1), seen := r.seq }
      else s
    match c.extents.find c.reportSlot with
    | none => (late s, none)
    | some e =>
      let q := e.length / 64
      let off := 64 * ((r.seq - 1) % q)
      if q = 0 ∨ r.seq - c.acked > q then (late s, none)
      else
        let g := if off + 64 ≤ e.comm then (s, true) else if e.has permG then s.growExtent cap c.reportSlot (off + 64) else (s, false)
        if !g.2 then (late g.1, none)
        else (g.1.fwWrite (.dev c.chip) c.chip cap (e.key c.reportSlot 0 off) r.bytes, some off)

/-- Event FAULT_RECORD_DELIVERY (R389): the oldest record is written, then its message posted, then it is done with; an
Errors report raises vector 1 (R431). A record that a warm reboot falls upon is written again with the same bytes at the same
offset, and the inbox takes the message of a sequence only once (R426). -/
def execFaultRecordDelivery (cap : Nat) (s : State) : Host.Outcome State Fault Refusal :=
  match s.caps.find cap with
  | none => .next s
  | some c =>
    match c.records with
    | [] => .next s
    | r :: rs =>
      if (s.chip c.chip).frozen then .next s
      else match c.recAt with
        | none =>
          let w := s.writeRecord cap r
          let s := w.1.modCap cap fun c => { c with recAt := some w.2 }
          .next ((s.noteCap cap).modChip c.chip fun h => { h with msix := h.msix ++ [1] })
        | some at_ =>
          if c.told < r.seq then
            let s := s.modCap cap fun c => { c with told := r.seq }
            let off : Word := match at_ with
              | some o => BitVec.ofNat 64 o
              | none => BitVec.allOnes 64
            let stamp := if r.cls = 3 then c.deadline else r.stamp
            .next (if c.faultBox = 0xFFFF then s
              else s.postTyped (.firmware c.chip 3) cap c.faultBox [0]
                (mkMsg (wordAt r.bytes 0) (wordAt r.bytes 0x10) off r.info0 stamp) r.ep 3)
          else .next (s.modCap cap fun c => { c with records := rs, recAt := none })

/-- An attestation report (Table 17.8). -/
def Chip.report (h : Chip) (sealed code nonce : List Byte) (owner : Nat) : List Byte :=
  let m := toBytes 4 0x54415A49 ++ toBytes 2 1 ++ toBytes 2 0x280 ++ zeros 8 ++ sha256 (deviceKeyDer h.ident)
    ++ (match h.firmware with | some f => f.measure | none => zeros 32)
    ++ (match h.config with | some r => r.hash | none => zeros 32)
    ++ sealed ++ code ++ nonce ++ toBytes 8 owner ++ zeros 40
  m ++ deviceSeal h.ident m

/-- Event ATTEST_REPORT_DONE (R356): the oldest request's report, as entries in Q(dev), then its message. -/
def execAttestReportDone (chip : Nat) (s : State) : Host.Outcome State Fault Refusal :=
  let h := s.chip chip
  match h.attests with
  | [] => .next s
  | r :: rs =>
    if h.frozen then .next s
    else
      let c := s.cap r.cap
      let s := (s.modChip chip fun h => { h with attests := rs }).modCap r.cap fun c => { c with attesting := false }
      let s := s.fwWrite (.dev chip) chip r.cap r.key (h.report c.sealed c.codeId r.nonce c.ownerKey)
      .next (s.postTyped (.firmware chip 5) r.cap (bits r.ctl.toNat 0 16) [0] (mkMsg 0 r.ctl r.ptr 0 r.stamp) (c.cores.headD 0) 3)

/-! Host commands (R429, Table 22.5). -/

/-- Slot counts that a command ring may have. -/
def ringSlots : List Nat := (List.range 9).map fun i => 2 ^ (i + 4)
/-- The 64-byte command at the head of the ring: its opcode and its tag; none while the ring is empty or not set up. -/
def State.command (s : State) (chip : Nat) : Option (Nat × Nat) :=
  let b := (s.chip chip).bar0
  let n := b.slotCount.toNat
  if ringSlots.contains n && b.head != b.tail then
    let c := (s.fwRead chip (keyOf 64 (b.ringBase.toNat + 64 * (b.head.toNat % n))) 64).1
    some (lget c 0 2, lget c 2 2)
  else none

/-- The Host core serves the command at the head of the ring, where the chip has booted and no warm reboot is under way: one
with this opcode and tag. Its arguments are the event's (log 16). -/
def State.serve (s : State) (chip opcode tag : Nat) (f : State → State) : Host.Outcome State Fault Refusal :=
  let h := s.chip chip
  if h.frozen || h.boot != .ready || s.command chip != some (opcode, tag) then .next s
  else .next (f (s.modChip chip fun h => { h with bar0 := { h.bar0 with head := h.bar0.head + 1 } }))

/-- REGISTER_QUEUE (R228): the result is the queue's index. -/
def execRegisterQueue (chip tag desc : Nat) (s : State) : Host.Outcome State Fault Refusal :=
  s.serve chip 0x01 tag fun s =>
    match s.registerHost chip desc with
    | some (s, q) => s.hostReply chip tag 0 (BitVec.ofNat 64 q) 0
    | none => s.hostReply chip tag 1 0 0

/-- UNREGISTER_QUEUE (R345). -/
def execUnregisterQueue (chip tag queue : Nat) (s : State) : Host.Outcome State Fault Refusal :=
  s.serve chip 0x02 tag fun s =>
    match s.queue chip queue with
    | some c => if c.gone then s.hostReply chip tag 1 0 0 else (s.unregister chip queue).hostReply chip tag 0 0 0
    | none => s.hostReply chip tag 1 0 0

/-- ASSIGN_REGION (R323, R423): `base` as an address field, bit 63 set for the host's. -/
def execAssignRegion (chip tag owner base length : Nat) (s : State) : Host.Outcome State Fault Refusal :=
  s.serve chip 0x03 tag fun s =>
    let r : Region := { owner := owner % 2 ^ 32, host := bit base 63, base := bits base 0 51, length := length }
    let clash := (s.chip chip).regions.any fun g =>
      g.owner != r.owner && g.host == r.host && decide (g.base < r.base + r.length) && decide (r.base < g.base + g.length)
    let top := if r.host then 2 ^ 51 else Config.firmwareBase
    if bits base 51 12 ≠ 0 ∨ clash ∨ top < r.base + r.length then s.hostReply chip tag 1 0 0
    else (s.modChip chip fun h => { h with regions := h.regions ++ [r] }).hostReply chip tag 0 0 0

/-- PRE_EMPT (R404, R409): the command waits while an earlier save of the victim is under way. -/
def execPreEmpt (chip tag cap cores : Nat) (s : State) : Host.Outcome State Fault Refusal :=
  match s.caps.find cap with
  | some c =>
    if c.chip = chip ∧ cores ≠ 0 ∧ c.state = .running ∧ !c.redundant ∧ c.contSlot ≠ 0xFF then
      if (s.takableCores cap).isEmpty then .next s
      else s.serve chip 0x04 tag fun s =>
        let id := s.fresh
        let s := s.modChip chip fun h => { h with preempts := h.preempts.put id tag }
        s.bump.takeCores cap (highest cores (s.takableCores cap)) id
    else s.serve chip 0x04 tag fun s => s.hostReply chip tag 1 0 0
  | none => s.serve chip 0x04 tag fun s => s.hostReply chip tag 1 0 0

/-- Seconds that a core has stood in a band of its thermal residency (Table 21.10). -/
def Telemetry.residency (t : Telemetry) (ep band : Nat) : Nat :=
  ((List.range t.thermal).filter fun i => Config.thermalBand ep i == band).length
/-- The counters of Table 21.10 as numbers. -/
def Telemetry.numbers (t : Telemetry) (chip : Nat) : List Nat :=
  let pairs := fun (m : AMap Nat) => m.length :: m.flatMap fun e => [e.1, e.2]
  pairs t.codes ++ pairs t.classes ++ pairs t.corrected ++ pairs t.uncorrectable ++ (t.retiredPages.length :: t.retiredPages)
    ++ pairs t.buckets ++ pairs t.retrainings ++ [t.preemptions, t.parks, t.terminations, t.rasReports, t.shutdowns]
    ++ (List.range 1024).flatMap fun i => (List.range 16).map fun b => t.residency (chip * 1024 + i) b
/-- The continuation list as numbers. -/
def contNumbers (l : List ContEnt) : List Nat := l.flatMap fun c => [ofBytes c.hash, c.layout]

/-- READ_TELEMETRY (R419): the counters, to a host buffer. -/
def execReadTelemetry (chip tag buffer : Nat) (s : State) : Host.Outcome State Fault Refusal :=
  s.serve chip 0x05 tag fun s =>
    let t := (s.chip chip).telemetry
    (s.fwWrite .pod chip 0 (keyOf 64 buffer) (Config.bufferBytes (t.numbers chip))).hostReply chip tag 0 0 0 (.telemetry t)

/-- HOST_ATTEST (R339): a report with no capsule's fields, to a host buffer. -/
def execHostAttest (chip tag nonce buffer : Nat) (s : State) : Host.Outcome State Fault Refusal :=
  s.serve chip 0x06 tag fun s =>
    (s.fwWrite .pod chip 0 (keyOf 64 buffer) ((s.chip chip).report (zeros 32) (zeros 32) (toBytes 32 nonce) 0)).hostReply
      chip tag 0 0 0

/-- The drive the chip boots from (R421). -/
def Chip.drive (h : Chip) : Option Drive := if h.drive0.good then some h.drive0 else if h.drive1.good then some h.drive1 else none
def Chip.modDrive (h : Chip) (f : Drive → Drive) : Chip :=
  if h.drive0.good then { h with drive0 := f h.drive0 } else if h.drive1.good then { h with drive1 := f h.drive1 } else h

/-- A firmware image's bytes pass R422. PRESUMED (log 4): its seal is its last 384 bytes, as every other signed object's. -/
def firmwareImage (b : List Byte) : Option FwImage :=
  if lget b 0 4 = 0x57465A49 ∧ pssVerify Config.firmwareModulus Config.firmwareExponent (sealBody b) (sealBytes b) then
    some { version := Config.firmwareVersion b, layouts := layoutsOf (Config.firmwareVersion b), measure := sha256 b, bytes := b }
  else none

/-- A firmware image is copied into the reserved firmware region (Table 22.2 step 4). -/
def State.loadFirmware (s : State) (chip : Nat) (f : FwImage) : State :=
  s.writeM (keyOf chip Config.firmwareBase) (f.bytes.take (Config.hbmTop - Config.firmwareBase))
/-- The device certificate (R338), as the host reads it from the boot drive. DESIGN CHOICE (log 4): the spec says that the host can
read it and gives no command for it. -/
def Chip.certificate (h : Chip) : List Byte :=
  match h.drive.bind Drive.certificate with
  | some i => Config.deviceCertificate i (deviceKeyDer i)
  | none => []

/-- STAGE_FIRMWARE (R422): written to the inactive slot and checked. -/
def execStageFirmware (chip tag image length : Nat) (s : State) : Host.Outcome State Fault Refusal :=
  s.serve chip 0x07 tag fun s =>
    match rawKey chip image with
    | none => s.hostReply chip tag 1 0 0
    | some key =>
      let f := firmwareImage (s.fwRead chip key length).1
      let s := s.modChip chip fun h => { h.modDrive (fun d => if d.active = 0 then { d with slot1 := f } else { d with slot0 := f })
        with staged := f }
      s.hostReply chip tag (if f.isSome then 0 else 1) 0 0

/-- A warm reboot starts (R425); it may fall upon the writing of a registry block (R428), as `n` has it. -/
def Chip.freeze (n : Nat) (h : Chip) : Chip :=
  if h.boot = .ready ∧ !h.frozen then
    { h with
      frozen := true
      registry := h.registry.map fun e => (e.1, e.2.interrupted (Config.stopStep (n + e.1)) (Config.stopByte (n + e.1)))
      contBlock := h.contBlock.interrupted (Config.stopStep n) (Config.stopByte n) }
  else h

/-- ACTIVATE_FIRMWARE (R430): deferred while the staged image cannot read the layout of a listed continuation, whose hash
the result words begin; else the active slot switches and a warm reboot loads the image. -/
def execActivateFirmware (chip tag : Nat) (s : State) : Host.Outcome State Fault Refusal :=
  s.serve chip 0x08 tag fun s =>
    let h := s.chip chip
    match h.staged with
    | none => s.hostReply chip tag 1 0 0
    | some f =>
      match h.conts.find? fun c => !f.layouts.contains c.layout with
      | some c => s.hostReply chip tag 2 (wordAt c.hash 0) (wordAt c.hash 8)
      | none =>
        (((s.modChip chip fun h => { h.modDrive (fun d => d.setActive (1 - d.active)) with
          firmware := some f, staged := none }).loadFirmware chip f).hostReply chip tag 0 0 0).modChip chip (Chip.freeze s.fresh)

/-- A configuration record's key and tag tables (Table 22.3). -/
def confKeys (b : List Byte) : List OwnerKey :=
  (List.range (lget b 0x18 2)).map fun i =>
    let k := (b.drop (0x40 + 400 * i)).take 400
    { id := lget k 0 8, dieMask := lget k 8 1 % 16, exponent := lget k 0xC 4, modulus := ofBytesBE (k.drop 0x10) }
def confTagAt (b : List Byte) : Nat := 0x40 + 400 * lget b 0x18 2
def confTags (b : List Byte) : List OwnerTag :=
  (List.range (lget b 0x1A 2)).map fun i =>
    let t := (b.drop (confTagAt b + 32 * i)).take 32
    { tag := lget t 0 4, key := lget t 8 8, reserve := lget t 0x10 8 }
def distinct (l : List Nat) : Bool := l.eraseDups.length == l.length

/-- A configuration record that passes R424; it gives the module its chip number (R358). -/
def configOf (b : List Byte) : Option ConfigRec :=
  let chip := lget b 0xC 1
  let nk := lget b 0x18 2
  let nt := lget b 0x1A 2
  let op := confTagAt b + 32 * nt
  let members := BitVec.ofNat 64 (lget b 0x10 8)
  let keys := confKeys b
  let tags := confTags b
  let reserved := lget b 0xD 1 / 2 != 0 || !zeroFrom b 0xE 2 || !zeroFrom b 0x1C 36
    || (List.range nk).any (fun i => lget b (0x40 + 400 * i + 8) 1 / 16 != 0 || !zeroFrom b (0x40 + 400 * i + 9) 3)
    || (List.range nt).any fun i =>
      let t := confTagAt b + 32 * i
      !zeroFrom b (t + 4) 4 || !zeroFrom b (t + 0x18) 8 || lget b (t + 0x10) 8 % 65536 != 0
  if lget b 0 4 = 0x46435A49 ∧ lget b 4 2 = 1 ∧ lget b 6 2 = 0x40 ∧ lget b 8 4 = b.length ∧ b.length = op + 388 + 384
      ∧ chip < 64 ∧ members.getLsbD chip ∧ 1 ≤ nk ∧ nk ≤ 256 ∧ 1 ≤ nt ∧ nt ≤ 1024 ∧ !reserved
      ∧ tags.all (fun t => keys.any fun k => k.id == t.key) ∧ distinct (keys.map OwnerKey.id) ∧ distinct (tags.map OwnerTag.tag)
      ∧ pssVerify (lget b (op + 4) 384) (lget b op 4) (sealBody b) (sealBytes b) then
    some { chip := chip, placement := bit (lget b 0xD 1) 0, members := members, keys := keys, tags := tags, hash := sha256 b }
  else none

/-- INSTALL_CONFIGURATION (R424): the record is in force from the next cold boot. -/
def execInstallConfiguration (chip tag record length : Nat) (s : State) : Host.Outcome State Fault Refusal :=
  s.serve chip 0x09 tag fun s =>
    match (match rawKey chip record with
      | some key => configOf (s.fwRead chip key length).1
      | none => none) with
    | none => s.hostReply chip tag 1 0 0
    | some r => (s.modChip chip fun h => h.modDrive fun d => { d with config := some r }).hostReply chip tag 0 0 0

/-- LIST_CONTINUATIONS (R430): the list, to a host buffer. -/
def execListContinuations (chip tag buffer : Nat) (s : State) : Host.Outcome State Fault Refusal :=
  s.serve chip 0x0A tag fun s =>
    let l := (s.chip chip).conts
    (s.fwWrite .pod chip 0 (keyOf 64 buffer) (Config.bufferBytes (contNumbers l))).hostReply chip tag 0 0 0 (.conts l)

/-- DROP_CONTINUATION (R430): the image of that hash is never admitted. -/
def execDropContinuation (chip tag hash : Nat) (s : State) : Host.Outcome State Fault Refusal :=
  s.serve chip 0x0B tag fun s =>
    let x := toBytes 32 hash
    if (s.chip chip).conts.any fun c => c.hash == x then
      (s.modChip chip fun h => h.dropCont x).hostReply chip tag 0 0 0
    else s.hostReply chip tag 1 0 0

/-! The host link (R431, R432). -/

/-- BAR0_REGISTER_WRITE (Table 22.6): the ring registers the host writes, the window's base and the doorbells; a doorbell
makes the Parser look at its queue where it is enabled (R233), and every other register ignores a write. -/
def execBar0RegisterWrite (chip offset value : Nat) (s : State) : Host.Outcome State Fault Refusal :=
  let v : Word := BitVec.ofNat 64 value
  let set := fun (f : Bar0 → Bar0) => Host.Outcome.next (s.modChip chip fun h => { h with bar0 := f h.bar0 })
  if offset = 0x1000 then set fun b => { b with ringBase := v }
  else if offset = 0x1008 then set fun b => { b with slotCount := v }
  else if offset = 0x1010 then set fun b => { b with tail := v }
  else if offset = 0x1020 then set fun b => { b with complBase := v }
  else if offset = 0x2000 then set fun b => { b with window := v }
  else if 0x100000 ≤ offset ∧ offset < 0x100000 + 8 * 1024 ∧ offset % 8 = 0 then
    let q := (offset - 0x100000) / 8
    match s.queue chip q with
    | some c =>
      if c.enabled && !c.gone && (s.chip chip).boot == .ready then .next (s.modChip chip fun h =>
        { h with looks := if h.looks.contains q then h.looks else h.looks ++ [q] })
      else .next s
    | none => .next s
  else .next s

/-- The location that a BAR2 offset names, where n bytes of the window and of HBM lie behind it. The window's base counts
64 GiB steps. -/
def Chip.bar2 (h : Chip) (chip offset n : Nat) : Option Nat :=
  let a := h.bar0.window.toNat * 2 ^ 36 + offset
  if offset + n ≤ 2 ^ 36 ∧ a + n ≤ Config.hbmTop then some (keyOf chip a) else none

/-- HOST_BAR2_WRITE (R432): the bytes enter Q(pod). -/
def execHostBar2Write (chip offset : Nat) (data : List Byte) (s : State) : Host.Outcome State Fault Refusal :=
  match (s.chip chip).bar2 chip offset data.length with
  | some key => .next (s.fwWrite .pod chip 0 key data)
  | none => .next s

/-- HOST_BAR2_READ (R432): the bytes along the read path of Q(pod) are the link's completion. -/
def execHostBar2Read (chip offset count : Nat) (s : State) : Host.Outcome State Fault Refusal :=
  match (s.chip chip).bar2 chip offset count with
  | some key =>
    let r := s.readPath [.pod] key s.tick count
    let s := if r.2 then s.ras (chip * 1024) else s
    .next (s.modChip chip fun h => { h with hostRead := r.1, hostUnsupported := false })
  | none => .next s

/-- HOST_ATOMIC (R432): an operand of 32 or 64 bits is performed at M once the host's earlier writes there have reached M
(R186), and the completion carries the old value; a wider one, as the 128-bit CAS is, completes with Unsupported Request. -/
def execHostAtomic (chip offset : Nat) (op : HostAtomicOp) (width : Nat) (operand compare : Word) (s : State) :
    Host.Outcome State Fault Refusal :=
  let n := width / 8
  if width ≠ 32 ∧ width ≠ 64 then .next (s.modChip chip fun h => { h with hostRead := [], hostUnsupported := true })
  else match (s.chip chip).bar2 chip offset n with
  | none => .next s
  | some key =>
    if key % n ≠ 0 ∨ s.entries.any (fun e => e.party == 0 && e.core == chip * 1024 && overlap (key, n) (e.key, e.bytes.length)) then
      .next s
    else
      let o : AmoOp := match op with | .fetchAdd => .add | .swap => .swap | .cas => .cas
      let r := s.atM o (if width = 64 then .i64 else .i32) key operand compare
      let s := if r.2.2 then r.1.ras (chip * 1024) else r.1
      .next (s.modChip chip fun h => { h with hostRead := toBytes n r.2.1, hostUnsupported := false })

/-! Boot (R421 to R423). -/

/-- The chip that holds an entry: of one in Q(pod) that of its home, or for host memory the chip it came through. -/
def Entry.chip (e : Entry) : Nat :=
  match e.place with
  | .gw c _ => c
  | .pod => if homeOf e.key = 64 then chipOf e.core else homeOf e.key
  | _ => chipOf e.core
/-- What a power-off of a chip takes away: its cores, capsules, requests, HBM and the entries it holds. Host memory stays, and
what other chips hold: what came from this one and stands in their gateways goes on to M (R372). -/
def State.powerOff (s : State) (chip : Nat) : State :=
  let mine := fun (ep : Nat) => chipOf ep == chip
  let s := (s.caps.filter fun e => e.2.chip == chip).foldl (fun s e => s.dropMembers e.1) s
  { s with
    caps := s.caps.filter fun e => e.2.chip != chip
    cores := s.cores.filter fun e => !mine e.1
    entries := s.entries.filter fun e => e.chip != chip
    iq := s.iq.filter fun i => !mine i.ep
    remote := s.remote.filter fun r => r.chip != chip
    phasers := s.phasers.filter fun p => !mine (p.1 / 128)
    phq := s.phq.filter fun r => !mine r.ep && !mine (r.key / 128)
    held := s.held.filter fun m => (s.cap m.cap).chip != chip
    mem := s.mem.filter fun e => homeOf e.1 != chip
    poison := s.poison.filter fun e => homeOf (e.1 * 64) != chip }

/-- The firmware image that step 3 of Table 22.2 chooses. -/
def Drive.image (d : Drive) : Option FwImage :=
  let a := if d.active = 0 then d.slot0 else d.slot1
  let b := if d.active = 0 then d.slot1 else d.slot0
  match a with
  | some f => some f
  | none => b

/-- The step at which a cold boot fails by what the drives hold. -/
def Chip.bootFails (h : Chip) : Option Nat :=
  match h.drive with
  | none => some 2
  | some d => if d.image.isNone then some 3 else if d.config.isNone then some 5 else none

/-- Base sets, spare pools and receive wavelengths after training (R359, R360). -/
def trained (chip : Nat) (members : BitVec 64) : Fabric :=
  let peers := (List.range 64).filter fun m => m != chip && members.getLsbD m
  let n := peers.length
  let idx := (List.range n).zip peers
  let sets := idx.map fun e => (e.2, (List.range 4).map fun j => 16 * (e.1 / 4) + 4 * (e.1 % 4) + j)
  let rest := (List.range Config.wavelengths).drop (4 * n)
  { base := sets, spare := rest, rbase := sets, rspare := rest }

/-- What a module keeps while it is off: its identity, its drives, and what the host has been told. -/
def Chip.whileOff (h : Chip) (boot : BootState) : Chip :=
  { boot := boot, ident := h.ident, bar0 := { identity := h.bar0.identity }, drive0 := h.drive0, drive1 := h.drive1, spent := h.spent
    hostDone := h.hostDone, msix := h.msix }

/-- A chip after the steps of a cold boot before the one that fails, or after all nine; `n` numbers the cause of a failure. -/
def Chip.booted (h : Chip) (chip n : Nat) (fails : Option Nat) : Chip :=
  let d := h.drive.getD {}
  let past := fun n => match fails with | some f => decide (n < f) | none => true
  let t : Telemetry := if past 7 then d.telemetry else { retiredPages := if past 6 then d.telemetry.retiredPages else [] }
  { h.whileOff (match fails with | some f => .failed f (Config.bootCause f n) | none => .ready) with
    config := if past 5 then d.config else none, firmware := if past 4 then d.image else none, telemetry := t
    fabric := if past 8 then match d.config with | some r => trained chip r.members | none => {} else {}
    msix := h.msix ++ [1] }

/-- The chip number that a module boots with: that of its configuration record (R358). -/
def Chip.number (h : Chip) (chip : Nat) : Nat := ((h.drive.bind Drive.config).map ConfigRec.chip).getD chip

/-- The step at which the boot fails: `failure` is one that fails by what the model does not hold, such as training. DESIGN
CHOICE (log 18): a module whose record gives it the number of another module fails at step 8. -/
def State.bootFailure (s : State) (chip : Nat) (failure : Option Nat) : Option Nat :=
  let h := s.chip chip
  let taken := h.number chip != chip && (s.chips.find (h.number chip)).isSome
  ([failure.filter fun f => decide (1 ≤ f ∧ f ≤ 9), h.bootFails, if taken then some 8 else none].filterMap id).foldl
    (fun (m : Option Nat) f => some (match m with | some x => min x f | none => f)) none

/-- COLD_BOOT (R423, Table 22.2): a power-on, a module reset or a restart after a thermal shutdown takes step 1, and BAR0
status reads booting; the same event then stands for the steps that follow. -/
def execColdBoot (chip : Nat) (failure : Option Nat) (s : State) : Host.Outcome State Fault Refusal :=
  let h := s.chip chip
  if h.boot ≠ .booting then
    .next ((s.powerOff chip).modChip chip fun _ => { h.whileOff .booting with msix := h.msix ++ [1] })
  else
    let fails := s.bootFailure chip failure
    let n := if fails.isNone then h.number chip else chip
    let h' := h.booted n s.fresh fails
    let s := { s with chips := (s.chips.del chip).put n h', fresh := s.fresh + 1 }
    .next (match h'.firmware with
      | some f => s.loadFirmware n f
      | none => s)

/-! Failure and warm reboot (R425 to R427). -/

/-- WATCHDOG_EXPIRY (R425). -/
def execWatchdogExpiry (chip core : Nat) (s : State) : Host.Outcome State Fault Refusal :=
  .next (if core < 8 then s.bump.modChip chip (Chip.freeze s.fresh) else s)

/-- KERNEL_PANIC (R425). -/
def execKernelPanic (chip : Nat) (s : State) : Host.Outcome State Fault Refusal :=
  .next (s.bump.modChip chip (Chip.freeze s.fresh))

/-- The origin of work whose packet is gone. -/
def Origin.orphan (o : Origin) (chip : Nat) (host : Nat → Bool) : Origin :=
  match o with
  | .packet c q k => if c = chip ∧ host q then .gone else .packet c q k
  | o => o

/-- FUNCTION_LEVEL_RESET (R425, R427). -/
def execFunctionLevelReset (chip : Nat) (s : State) : Host.Outcome State Fault Refusal :=
  let host := fun q => match s.queue chip q with | some c => c.cap.isNone | none => false
  let s := { s with caps := s.caps.map fun (e : Nat × Capsule) => (e.1, { e.2 with origin := e.2.origin.orphan chip host }) }
  .next (s.bump.modChip chip fun h => Chip.freeze s.fresh { h with
    queues := h.queues.filter fun e => !host e.1, looks := h.looks.filter fun q => !host q, preempts := []
    admissions := h.admissions.map fun (a : Admission) => { a with origin := a.origin.orphan chip host }
    bar0 := { h.bar0 with ringBase := 0, slotCount := 0, tail := 0, head := 0, complBase := 0, completions := 0 } })

/-- A terminate or a park that waited for the end of a warm reboot is taken up. -/
def State.takeUp (s : State) (cap : Nat) : State :=
  let x := (s.cap cap).asked
  let s := s.modCap cap fun c => { c with asked := none }
  match x with
  | some .terminating => s.terminate cap
  | some (.parking reason) => s.park cap reason
  | _ => s

/-- WARM_REBOOT_END (R425, R426, R428, R430, Table 22.4): torn blocks are restored and every block brought into the layout of
the firmware that runs; what a writer was at is written once more. The record whose delivery was under way is
delivered again, dispatch resumes, requests that waited are taken up, barriers are checked. -/
def execWarmRebootEnd (chip : Nat) (s : State) : Host.Outcome State Fault Refusal :=
  if (s.chip chip).frozen then
    let s := s.modChip chip fun h => { h with
      frozen := false, registry := h.registry.map fun e => (e.1, e.2.recovered.converted h.version)
      contBlock := h.contBlock.recovered.converted h.version }
    let mine := (s.caps.filter fun e => e.2.chip == chip).map Prod.fst
    let s := mine.foldl (fun s c => (s.modCap c fun c => { c with recAt := none }).takeUp c) s
    .next (s.checkBarriers chip)
  else .next s

/-! Temperature, clocks and telemetry (R267, R419, R434). -/

/-- THERMAL_THROTTLE (R434): a step of 100 MHz down to 1.0 GHz for a core of the die. -/
def execThermalThrottle (chip die ep : Nat) (s : State) : Host.Outcome State Fault Refusal :=
  if dieOf ep = chip * 4 + die ∧ die < 4 then .next (s.modCore ep fun c => { c with mhz := max 1000 (c.mhz - 100) }) else .next s

def Chip.saveTelemetry (h : Chip) : Chip := h.modDrive fun d => { d with telemetry := h.telemetry }
/-- So many more seconds of thermal residency. -/
def Chip.runFor (h : Chip) (seconds : Nat) : Chip :=
  { h with telemetry := { h.telemetry with thermal := h.telemetry.thermal + seconds } }
/-- Seconds since the last minute's save at a shutdown: a free value below 60. -/
def restSeconds (n : Nat) : Nat := Config.freeNat n % 60

/-- THERMAL_SHUTDOWN (R434): the event is logged; the chip is off until a cold boot. -/
def execThermalShutdown (chip : Nat) (s : State) : Host.Outcome State Fault Refusal :=
  let h := s.chip chip
  let h := (Chip.runFor { h with telemetry := { h.telemetry with shutdowns := h.telemetry.shutdowns + 1 } }
    (restSeconds s.fresh)).saveTelemetry
  .next ((s.bump.powerOff chip).modChip chip fun _ => h.whileOff .off)

/-- CLOCK_BOOST (R267): a whole number of 100 MHz steps from nominal to 2.6 GHz. -/
def execClockBoost (ep mhz : Nat) (s : State) : Host.Outcome State Fault Refusal :=
  if 2000 ≤ mhz ∧ mhz ≤ 2600 ∧ mhz % 100 = 0 then .next (s.modCore ep fun c => { c with mhz := mhz }) else .next s

/-- TELEMETRY_SAVE (R419): every 60 s. -/
def execTelemetrySave (chip : Nat) (s : State) : Host.Outcome State Fault Refusal :=
  .next (if (s.chip chip).frozen then s else s.modChip chip fun h => (h.runFor 60).saveTelemetry)

/-- ORDERLY_SHUTDOWN (R419). -/
def execOrderlyShutdown (chip : Nat) (s : State) : Host.Outcome State Fault Refusal :=
  .next (s.bump.modChip chip fun h => (h.runFor (restSeconds s.fresh)).saveTelemetry)

/-! Memory errors (R415). -/

/-- A page is retired, on the boot drive too: it stays retired across boots (R415). -/
def Telemetry.retire (t : Telemetry) (page : Nat) : Telemetry :=
  { t with retiredPages := if t.retiredPages.contains page then t.retiredPages else t.retiredPages ++ [page] }
def Chip.retire (h : Chip) (page : Nat) : Chip :=
  { h.modDrive (fun d => { d with telemetry := d.telemetry.retire page }) with telemetry := h.telemetry.retire page }
/-- One more uncorrectable error of a stack (R15). -/
def Chip.countError (h : Chip) (stack : Nat) : Chip :=
  let t := h.telemetry
  { h with telemetry := { t with uncorrectable := t.uncorrectable.put stack (t.uncorrectable.get 0 stack + 1) } }

/-- UNCORRECTABLE_ERROR (R415, R147, R167): the line is marked and its page retired, or the slot or tile is tagged
poison; vector 1 tells of the Errors core's report. A line of host memory is one whose accesses meet a host-side error (R71):
each that does is reported as it is poisoned (R72). DESIGN CHOICE (log 19): the error lasts, as a line's of HBM does, until
every byte of the line has been written. -/
def execUncorrectableError (target : ErrTarget) (s : State) : Host.Outcome State Fault Refusal :=
  match target with
  | .line key =>
    let chip := homeOf key
    if chip < 64 then
      let s := (s.markM key).modChip chip fun h => (h.retire (addrOf key / 4096)).countError (addrOf key / 4096 % 12)
      .next (s.ras (chip * 1024))
    else if chip = 64 then .next (s.markM key)
    else .next s
  | .slot ep n =>
    if n < 16 then .next ((s.modCore ep fun c => { c with banks := c.banks.put n { c.bank n with tag := .poison } }).ras ep)
    else .next s
  | .tile ep n =>
    if n < 8 then .next ((s.modCore ep fun c => { c with tiles := c.tiles.put n { c.tile n with tag := .poison } }).ras ep)
    else .next s

/-- CORRECTED_ERROR (R415): a row past 64 in its lifetime retires its page. PRESUMED (log 19): a row is a 4 KiB page's
bytes in one stack, numbered as the page. -/
def execCorrectedError (chip row : Nat) (s : State) : Host.Outcome State Fault Refusal :=
  .next (s.modChip chip fun h =>
    let n := h.telemetry.corrected.get 0 row + 1
    let h := { h with telemetry := { h.telemetry with corrected := h.telemetry.corrected.put row n } }
    if n > 64 then h.retire row else h)

end Sys2Proof.Machine
end

