-- ==== Sys2Proof/Machine/Perform.lean ====
section
/-!
DEFINITION. The event in which a request of an issue queue is performed (09 R179 to R185, R190, R192).
-/
namespace Sys2Proof.Machine

/-- One request, where its conditions hold; `pick` chooses among its elements and among the entries that a byte may be
read from. -/
def State.performItem (s : State) (it : Item) (pick : Nat) : State :=
  match it.act with
  | .load es t vec poison => s.performLoad it es t vec poison pick
  | .store es v => s.performStore it es v pick
  | .amo op t key b cmp u q _ => s.performAmo it op t key b cmp u q
  | .fence => s.performFence it (it.rel.getD .sys)
  | .fenceEng mask => s.performFenceEng it mask (it.rel.getD .sys)
  | .pgo ch q => s.performPgo it ch q
  | .evpulse i => s.performEvpulse it i
  | .qpub phys trailer e => s.performQpub it phys trailer e
  | .rld reply ptr t key => s.performRemote it reply ptr (.load key t)
  | .rst reply ptr key w v => s.performRemote it reply ptr (.put key w v)
  | .ramo reply ptr op t key b cmp => s.performRemote it reply ptr (.amo op t key b cmp)
  | .red _ op t es => s.performRed it op t es pick
  | .rcopy dptr ctl skey dkey len k => s.performRemote it (copyReply ctl) dptr (.copy skey dkey 0 len k)
  | .push key w0 w1 w2 w3 => s.performPush it key w0 w1 w2 w3
  | .qclose key => s.performQclose it key
  | .fork key stamp => s.performFork it key stamp pick
  | .join key ckey ckind cptr stamp => s.performJoin it key ckey ckind cptr stamp pick
  | .joinPool t => s.performJoinPool it t
  | .spawn card stamp => s.performSpawn it card stamp
  | .phSig key gen actor sp => s.performPhase it key gen actor fun p => p.arrive sp
  | .phDrop key gen actor => s.performPhase it key gen actor fun p => p.drop it.cap actor
  | .registerQueue _ key => s.performRegister it key
  | .cemit ptr ctl key len parent stamp => s.performCemit it ptr ctl key len parent stamp
  | .attest ctl ptr nonce key stamp => s.performAttest it ctl ptr nonce key stamp
  | .xderive x e => s.performXderive it x e
  | .fltack a => s.performFltack it a
  | .lrel h => s.performLrel it h
  | .lstat h => s.performLstat it h

/-- Event ISSUE_QUEUE_PERFORM (R184): the request at a place of the list, unless it is an atomic performed early, which
SPC_COMMIT ends (R187). -/
def execIssueQueuePerform (idx pick : Nat) (s : State) : Host.Outcome State Fault Refusal :=
  match s.iq[idx]? with
  | none => .next s
  | some it => .next (if it.held then s else s.performItem it pick)

end Sys2Proof.Machine
end

