-- ==== Sys2Proof/Machine/Dispatch.lean ====
section
/-!
DEFINITION. The dispatch of every instruction and event to its meaning.
-/
namespace Sys2Proof.Machine

def exec (i : Instr) (s : State) : Host.Outcome State Fault Refusal :=
  match i with
  | .nop o => Sys2Proof.Machine.execNop o s
  | .mov o => Sys2Proof.Machine.execMov o s
  | .movi o => Sys2Proof.Machine.execMovi o s
  | .ldiw o => Sys2Proof.Machine.execLdiw o s
  | .mkptr o => Sys2Proof.Machine.execMkptr o s
  | .ptrx o => Sys2Proof.Machine.execPtrx o s
  | .br o => Sys2Proof.Machine.execBr o s
  | .jr o => Sys2Proof.Machine.execJr o s
  | .call o => Sys2Proof.Machine.execCall o s
  | .callr o => Sys2Proof.Machine.execCallr o s
  | .ret o => Sys2Proof.Machine.execRet o s
  | .done o => Sys2Proof.Machine.execDone o s
  | .loop o => Sys2Proof.Machine.execLoop o s
  | .lexit o => Sys2Proof.Machine.execLexit o s
  | .add o => Sys2Proof.Machine.execAdd o s
  | .sub o => Sys2Proof.Machine.execSub o s
  | .addc o => Sys2Proof.Machine.execAddc o s
  | .subb o => Sys2Proof.Machine.execSubb o s
  | .mul o => Sys2Proof.Machine.execMul o s
  | .mulh o => Sys2Proof.Machine.execMulh o s
  | .div o => Sys2Proof.Machine.execDiv o s
  | .rem o => Sys2Proof.Machine.execRem o s
  | .neg o => Sys2Proof.Machine.execNeg o s
  | .abs o => Sys2Proof.Machine.execAbs o s
  | .min o => Sys2Proof.Machine.execMin o s
  | .max o => Sys2Proof.Machine.execMax o s
  | .andB o => Sys2Proof.Machine.execAndB o s
  | .orB o => Sys2Proof.Machine.execOrB o s
  | .xorB o => Sys2Proof.Machine.execXorB o s
  | .andn o => Sys2Proof.Machine.execAndn o s
  | .notB o => Sys2Proof.Machine.execNotB o s
  | .shl o => Sys2Proof.Machine.execShl o s
  | .shr o => Sys2Proof.Machine.execShr o s
  | .sar o => Sys2Proof.Machine.execSar o s
  | .rol o => Sys2Proof.Machine.execRol o s
  | .ror o => Sys2Proof.Machine.execRor o s
  | .clz o => Sys2Proof.Machine.execClz o s
  | .ctz o => Sys2Proof.Machine.execCtz o s
  | .popc o => Sys2Proof.Machine.execPopc o s
  | .bfx o => Sys2Proof.Machine.execBfx o s
  | .bfi o => Sys2Proof.Machine.execBfi o s
  | .sext o => Sys2Proof.Machine.execSext o s
  | .zext o => Sys2Proof.Machine.execZext o s
  | .cmp o => Sys2Proof.Machine.execCmp o s
  | .sel o => Sys2Proof.Machine.execSel o s
  | .pand o => Sys2Proof.Machine.execPand o s
  | .por o => Sys2Proof.Machine.execPor o s
  | .pxor o => Sys2Proof.Machine.execPxor o s
  | .pnot o => Sys2Proof.Machine.execPnot o s
  | .vadd o => Sys2Proof.Machine.execVadd o s
  | .vsub o => Sys2Proof.Machine.execVsub o s
  | .vmul o => Sys2Proof.Machine.execVmul o s
  | .vmulh o => Sys2Proof.Machine.execVmulh o s
  | .vmad o => Sys2Proof.Machine.execVmad o s
  | .vmin o => Sys2Proof.Machine.execVmin o s
  | .vmax o => Sys2Proof.Machine.execVmax o s
  | .vabs o => Sys2Proof.Machine.execVabs o s
  | .vneg o => Sys2Proof.Machine.execVneg o s
  | .vand o => Sys2Proof.Machine.execVand o s
  | .vor o => Sys2Proof.Machine.execVor o s
  | .vxor o => Sys2Proof.Machine.execVxor o s
  | .vnot o => Sys2Proof.Machine.execVnot o s
  | .vshl o => Sys2Proof.Machine.execVshl o s
  | .vshr o => Sys2Proof.Machine.execVshr o s
  | .vsar o => Sys2Proof.Machine.execVsar o s
  | .vcmp o => Sys2Proof.Machine.execVcmp o s
  | .vsel o => Sys2Proof.Machine.execVsel o s
  | .vaddsub o => Sys2Proof.Machine.execVaddsub o s
  | .vdot4 o => Sys2Proof.Machine.execVdot4 o s
  | .vred o => Sys2Proof.Machine.execVred o s
  | .vpopc o => Sys2Proof.Machine.execVpopc o s
  | .vclz o => Sys2Proof.Machine.execVclz o s
  | .vbcast o => Sys2Proof.Machine.execVbcast o s
  | .vperm o => Sys2Proof.Machine.execVperm o s
  | .vslide o => Sys2Proof.Machine.execVslide o s
  | .vextr o => Sys2Proof.Machine.execVextr o s
  | .vins o => Sys2Proof.Machine.execVins o s
  | .vcompress o => Sys2Proof.Machine.execVcompress o s
  | .vexpand o => Sys2Proof.Machine.execVexpand o s
  | .vtrit o => Sys2Proof.Machine.execVtrit o s
  | .vcvt o => Sys2Proof.Machine.execVcvt o s
  | .vpack o => Sys2Proof.Machine.execVpack o s
  | .vunpk o => Sys2Proof.Machine.execVunpk o s
  | .vscale o => Sys2Proof.Machine.execVscale o s
  | .vtag o => Sys2Proof.Machine.execVtag o s
  | .vfadd o => Sys2Proof.Machine.execVfadd o s
  | .vfsub o => Sys2Proof.Machine.execVfsub o s
  | .vfmul o => Sys2Proof.Machine.execVfmul o s
  | .vffma o => Sys2Proof.Machine.execVffma o s
  | .vfmin o => Sys2Proof.Machine.execVfmin o s
  | .vfmax o => Sys2Proof.Machine.execVfmax o s
  | .vfabs o => Sys2Proof.Machine.execVfabs o s
  | .vfneg o => Sys2Proof.Machine.execVfneg o s
  | .vfdiv o => Sys2Proof.Machine.execVfdiv o s
  | .vfsqrt o => Sys2Proof.Machine.execVfsqrt o s
  | .vfrcp o => Sys2Proof.Machine.execVfrcp o s
  | .vfrsq o => Sys2Proof.Machine.execVfrsq o s
  | .vfexp2 o => Sys2Proof.Machine.execVfexp2 o s
  | .vflog2 o => Sys2Proof.Machine.execVflog2 o s
  | .vfcmp o => Sys2Proof.Machine.execVfcmp o s
  | .vfred o => Sys2Proof.Machine.execVfred o s
  | .vfclass o => Sys2Proof.Machine.execVfclass o s
  | .vfredSeq o => Sys2Proof.Machine.execVfredSeq o s
  | .tclaim o => Sys2Proof.Machine.execTclaim o s
  | .trel o => Sys2Proof.Machine.execTrel o s
  | .tfill o => Sys2Proof.Machine.execTfill o s
  | .tdrain o => Sys2Proof.Machine.execTdrain o s
  | .tzero o => Sys2Proof.Machine.execTzero o s
  | .mma o => Sys2Proof.Machine.execMma o s
  | .mmaj o => Sys2Proof.Machine.execMmaj o s
  | .mcmd o => Sys2Proof.Machine.execMcmd o s
  | .mcapMint o => Sys2Proof.Machine.execMcapMint o s
  | .mcapRevoke o => Sys2Proof.Machine.execMcapRevoke o s
  | .tmov o => Sys2Proof.Machine.execTmov o s
  | .ttr o => Sys2Proof.Machine.execTtr o s
  | .ttrit o => Sys2Proof.Machine.execTtrit o s
  | .tscale o => Sys2Proof.Machine.execTscale o s
  | .mstat o => Sys2Proof.Machine.execMstat o s
  | .mwait o => Sys2Proof.Machine.execMwait o s
  | .ld o => Sys2Proof.Machine.execLd o s
  | .st o => Sys2Proof.Machine.execSt o s
  | .ldl o => Sys2Proof.Machine.execLdl o s
  | .stl o => Sys2Proof.Machine.execStl o s
  | .ldv o => Sys2Proof.Machine.execLdv o s
  | .stv o => Sys2Proof.Machine.execStv o s
  | .ldlv o => Sys2Proof.Machine.execLdlv o s
  | .stlv o => Sys2Proof.Machine.execStlv o s
  | .stackGrowth ep slot => Sys2Proof.Machine.execStackGrowth ep slot s
  | .amoAdd o => Sys2Proof.Machine.execAmoAdd o s
  | .amoAnd o => Sys2Proof.Machine.execAmoAnd o s
  | .amoOr o => Sys2Proof.Machine.execAmoOr o s
  | .amoXor o => Sys2Proof.Machine.execAmoXor o s
  | .amoMin o => Sys2Proof.Machine.execAmoMin o s
  | .amoMax o => Sys2Proof.Machine.execAmoMax o s
  | .amoSwap o => Sys2Proof.Machine.execAmoSwap o s
  | .amoCas o => Sys2Proof.Machine.execAmoCas o s
  | .amoFadd o => Sys2Proof.Machine.execAmoFadd o s
  | .amoInc o => Sys2Proof.Machine.execAmoInc o s
  | .fence o => Sys2Proof.Machine.execFence o s
  | .fenceEng o => Sys2Proof.Machine.execFenceEng o s
  | .pappend o => Sys2Proof.Machine.execPappend o s
  | .pgo o => Sys2Proof.Machine.execPgo o s
  | .pseq o => Sys2Proof.Machine.execPseq o s
  | .pdeal o => Sys2Proof.Machine.execPdeal o s
  | .qpub o => Sys2Proof.Machine.execQpub o s
  | .rld o => Sys2Proof.Machine.execRld o s
  | .rst o => Sys2Proof.Machine.execRst o s
  | .ramo o => Sys2Proof.Machine.execRamo o s
  | .amsg o => Sys2Proof.Machine.execAmsg o s
  | .amsgc o => Sys2Proof.Machine.execAmsgc o s
  | .red o => Sys2Proof.Machine.execRed o s
  | .rcopy o => Sys2Proof.Machine.execRcopy o s
  | .send o => Sys2Proof.Machine.execSend o s
  | .recv o => Sys2Proof.Machine.execRecv o s
  | .recvW o => Sys2Proof.Machine.execRecvW o s
  | .pop o => Sys2Proof.Machine.execPop o s
  | .popW o => Sys2Proof.Machine.execPopW o s
  | .push o => Sys2Proof.Machine.execPush o s
  | .qclose o => Sys2Proof.Machine.execQclose o s
  | .fork o => Sys2Proof.Machine.execFork o s
  | .join o => Sys2Proof.Machine.execJoin o s
  | .spawn o => Sys2Proof.Machine.execSpawn o s
  | .phReg o => Sys2Proof.Machine.execPhReg o s
  | .phDrop o => Sys2Proof.Machine.execPhDrop o s
  | .phSig o => Sys2Proof.Machine.execPhSig o s
  | .phWait o => Sys2Proof.Machine.execPhWait o s
  | .phSw o => Sys2Proof.Machine.execPhSw o s
  | .phTwait o => Sys2Proof.Machine.execPhTwait o s
  | .phStat o => Sys2Proof.Machine.execPhStat o s
  | .qstat o => Sys2Proof.Machine.execQstat o s
  | .evcfg o => Sys2Proof.Machine.execEvcfg o s
  | .evarm o => Sys2Proof.Machine.execEvarm o s
  | .evpulse o => Sys2Proof.Machine.execEvpulse o s
  | .stage o => Sys2Proof.Machine.execStage o s
  | .budget o => Sys2Proof.Machine.execBudget o s
  | .cemit o => Sys2Proof.Machine.execCemit o s
  | .xderive o => Sys2Proof.Machine.execXderive o s
  | .xinfo o => Sys2Proof.Machine.execXinfo o s
  | .xgrow o => Sys2Proof.Machine.execXgrow o s
  | .lease o => Sys2Proof.Machine.execLease o s
  | .lrel o => Sys2Proof.Machine.execLrel o s
  | .lstat o => Sys2Proof.Machine.execLstat o s
  | .sysrd o => Sys2Proof.Machine.execSysrd o s
  | .syswr o => Sys2Proof.Machine.execSyswr o s
  | .syswrRegisterQueue o => Sys2Proof.Machine.execSyswrRegisterQueue o s
  | .syswrUnregisterQueue o => Sys2Proof.Machine.execSyswrUnregisterQueue o s
  | .attest o => Sys2Proof.Machine.execAttest o s
  | .trap o => Sys2Proof.Machine.execTrap o s
  | .tret o => Sys2Proof.Machine.execTret o s
  | .fltrd o => Sys2Proof.Machine.execFltrd o s
  | .fltack o => Sys2Proof.Machine.execFltack o s
  | .ckpt o => Sys2Proof.Machine.execCkpt o s
  | .poisck o => Sys2Proof.Machine.execPoisck o s
  | .sigacc o => Sys2Proof.Machine.execSigacc o s
  | .budgetExhausted ep slot => Sys2Proof.Machine.execBudgetExhausted ep slot s
  | .dispatch ep => Sys2Proof.Machine.execDispatch ep s
  | .steal ep => Sys2Proof.Machine.execSteal ep s
  | .hawkerBalance chip die square => Sys2Proof.Machine.execHawkerBalance chip die square s
  | .governorMove chip die => Sys2Proof.Machine.execGovernorMove chip die s
  | .readyPoolNode chip die => Sys2Proof.Machine.execReadyPoolNode chip die s
  | .sendStreamDeliver ep slot idx => Sys2Proof.Machine.execSendStreamDeliver ep slot idx s
  | .heldMessagePlace idx => Sys2Proof.Machine.execHeldMessagePlace idx s
  | .porterEntry ep ch => Sys2Proof.Machine.execPorterEntry ep ch s
  | .dealEntry ep ch => Sys2Proof.Machine.execDealEntry ep ch s
  | .heldSlotWrite ep idx => Sys2Proof.Machine.execHeldSlotWrite ep idx s
  | .matrixOpStart ep idx => Sys2Proof.Machine.execMatrixOpStart ep idx s
  | .matrixOpFinish ep idx => Sys2Proof.Machine.execMatrixOpFinish ep idx s
  | .matrixCommandAccept ep => Sys2Proof.Machine.execMatrixCommandAccept ep s
  | .phaserArbiterStep ep idx => Sys2Proof.Machine.execPhaserArbiterStep ep idx s
  | .phaserCompletionNotice ep home phaser => Sys2Proof.Machine.execPhaserCompletionNotice ep home phaser s
  | .phTwaitExpiry ep slot => Sys2Proof.Machine.execPhTwaitExpiry ep slot s
  | .entryMove idx => Sys2Proof.Machine.execEntryMove idx s
  | .atomicPerform idx early => Sys2Proof.Machine.execAtomicPerform idx early s
  | .spcCommit idx => Sys2Proof.Machine.execSpcCommit idx s
  | .gatewayMerge a j => Sys2Proof.Machine.execGatewayMerge a j s
  | .remoteRequestPerform idx => Sys2Proof.Machine.execRemoteRequestPerform idx s
  | .remoteResend idx => Sys2Proof.Machine.execRemoteResend idx s
  | .peerUnreachable chip peer => Sys2Proof.Machine.execPeerUnreachable chip peer s
  | .epochOpen chip peer => Sys2Proof.Machine.execEpochOpen chip peer s
  | .reductionWaitExpiry idx => Sys2Proof.Machine.execReductionWaitExpiry idx s
  | .fabricBarrierArrival idx => Sys2Proof.Machine.execFabricBarrierArrival idx s
  | .amsgAccept idx => Sys2Proof.Machine.execAmsgAccept idx s
  | .flitCrcFail chip flit => Sys2Proof.Machine.execFlitCrcFail chip flit s
  | .retrainEnd chip wl => Sys2Proof.Machine.execRetrainEnd chip wl s
  | .retirementBucketDecay chip wl => Sys2Proof.Machine.execRetirementBucketDecay chip wl s
  | .packetHeaderFlit chip peer cap flits => Sys2Proof.Machine.execPacketHeaderFlit chip peer cap flits s
  | .leaseGrant chip => Sys2Proof.Machine.execLeaseGrant chip s
  | .leaseRevoke chip => Sys2Proof.Machine.execLeaseRevoke chip s
  | .receiveRevokeRequest chip => Sys2Proof.Machine.execReceiveRevokeRequest chip s
  | .leaseWavelengthReturn chip wl => Sys2Proof.Machine.execLeaseWavelengthReturn chip wl s
  | .queueDoorbell chip queue => Sys2Proof.Machine.execQueueDoorbell chip queue s
  | .packetStart chip queue idx => Sys2Proof.Machine.execPacketStart chip queue idx s
  | .packetComplete chip queue idx => Sys2Proof.Machine.execPacketComplete chip queue idx s
  | .barrierCheck chip => Sys2Proof.Machine.execBarrierCheck chip s
  | .capsuleAdmission chip => Sys2Proof.Machine.execCapsuleAdmission chip s
  | .capsuleCompletion cap => Sys2Proof.Machine.execCapsuleCompletion cap s
  | .queueRegistrationAnswer chip => Sys2Proof.Machine.execQueueRegistrationAnswer chip s
  | .attestReportDone chip => Sys2Proof.Machine.execAttestReportDone chip s
  | .faultRecordDelivery cap => Sys2Proof.Machine.execFaultRecordDelivery cap s
  | .park cap => Sys2Proof.Machine.execPark cap s
  | .preemptSave ep => Sys2Proof.Machine.execPreemptSave ep s
  | .preemptInstall cap => Sys2Proof.Machine.execPreemptInstall cap s
  | .registerQueue chip tag desc => Sys2Proof.Machine.execRegisterQueue chip tag desc s
  | .unregisterQueue chip tag queue => Sys2Proof.Machine.execUnregisterQueue chip tag queue s
  | .assignRegion chip tag owner base length => Sys2Proof.Machine.execAssignRegion chip tag owner base length s
  | .preEmpt chip tag cap cores => Sys2Proof.Machine.execPreEmpt chip tag cap cores s
  | .readTelemetry chip tag buffer => Sys2Proof.Machine.execReadTelemetry chip tag buffer s
  | .hostAttest chip tag nonce buffer => Sys2Proof.Machine.execHostAttest chip tag nonce buffer s
  | .stageFirmware chip tag image length => Sys2Proof.Machine.execStageFirmware chip tag image length s
  | .activateFirmware chip tag => Sys2Proof.Machine.execActivateFirmware chip tag s
  | .installConfiguration chip tag record length => Sys2Proof.Machine.execInstallConfiguration chip tag record length s
  | .listContinuations chip tag buffer => Sys2Proof.Machine.execListContinuations chip tag buffer s
  | .dropContinuation chip tag hash => Sys2Proof.Machine.execDropContinuation chip tag hash s
  | .bar0RegisterWrite chip offset value => Sys2Proof.Machine.execBar0RegisterWrite chip offset value s
  | .hostBar2Write chip offset data => Sys2Proof.Machine.execHostBar2Write chip offset data s
  | .hostBar2Read chip offset count => Sys2Proof.Machine.execHostBar2Read chip offset count s
  | .hostAtomic chip offset op width operand compare => Sys2Proof.Machine.execHostAtomic chip offset op width operand compare s
  | .coldBoot chip failure => Sys2Proof.Machine.execColdBoot chip failure s
  | .watchdogExpiry chip core => Sys2Proof.Machine.execWatchdogExpiry chip core s
  | .functionLevelReset chip => Sys2Proof.Machine.execFunctionLevelReset chip s
  | .kernelPanic chip => Sys2Proof.Machine.execKernelPanic chip s
  | .thermalThrottle chip die ep => Sys2Proof.Machine.execThermalThrottle chip die ep s
  | .thermalShutdown chip => Sys2Proof.Machine.execThermalShutdown chip s
  | .clockBoost ep mhz => Sys2Proof.Machine.execClockBoost ep mhz s
  | .telemetrySave chip => Sys2Proof.Machine.execTelemetrySave chip s
  | .issueQueuePerform idx pick => Sys2Proof.Machine.execIssueQueuePerform idx pick s
  | .remoteReplyReceive idx => Sys2Proof.Machine.execRemoteReplyReceive idx s
  | .uncorrectableError target => Sys2Proof.Machine.execUncorrectableError target s
  | .correctedError chip row => Sys2Proof.Machine.execCorrectedError chip row s
  | .orderlyShutdown chip => Sys2Proof.Machine.execOrderlyShutdown chip s
  | .warmRebootEnd chip => Sys2Proof.Machine.execWarmRebootEnd chip s

end Sys2Proof.Machine
end

