-- ==== Sys2Proof/Machine/Cycle.lean ====
section
/-!
DEFINITION. One cycle of a core (R255 to R259): which slot issues, the checks of Table 3.10 on its next word, and what
the end of a cycle does.
-/
namespace Sys2Proof.Machine

/-- The endpoint is a core of a chip of the pod (Table 2.1). -/
def State.isCore (s : State) (ep : Nat) : Bool := (s.chips.find (chipOf ep)).isSome

/-- The slot may be looked at for issue (R257): a firing, its delay run out, no wait that another event ends. -/
def Slot.eligible (x : Slot) : Bool := x.firing.isSome && x.delay == 0 && x.wait == .none

/-- Slots by age, the older first, ties by lower number. -/
def byAge (c : Core) : List Nat → List Nat
  | [] => []
  | k :: ks =>
    let r := byAge c ks
    r.filter (fun j => decide ((c.slot j).age < (c.slot k).age)) ++ k :: r.filter (fun j => decide ((c.slot k).age ≤ (c.slot j).age))

/-- The order in which the issue slot looks at the slots (R259). -/
def Core.issueOrder (c : Core) : List Nat :=
  let el := (List.range Config.slotCount).filter fun k => (c.slot k).eligible
  if c.ipol then
    let rr := (List.range Config.slotCount).map fun i => (c.lastSlot + 1 + i) % Config.slotCount
    rr.filter el.contains
  else
    let aged := byAge c el
    if el.contains c.lastSlot && c.lastCycle == c.cycles.toNat && c.runLen != 0 && decide (c.runLen < 256) then
      c.lastSlot :: aged.filter (· != c.lastSlot)
    else aged

end Sys2Proof.Machine

namespace Sys2Proof
open Machine

/-- The fault of a word that is no instruction (steps 3 to 7 of Table 3.10). -/
def DecodeFault.info (w : Int) : DecodeFault → FaultInfo
  | .short => fData w
  | .zeroWord => ⟨0x00, 0, 0⟩
  | .illegalOpcode => ⟨0x01, 0, 0⟩
  | .dataWord => fData w
  | .operandKind f => fIllegal f
  | .reservedField b => fReserved b

/-- An operand that is no queue register. -/
def Operand.offQueue (x : Operand) : Bool :=
  match x with
  | .q _ => false
  | _ => true

/-- The instruction changes nothing but registers, predicates, the loop stack and the next word: moves, jumps and the
arithmetic of chapters 4 to 6 without queue operands. -/
def Instr.registerOnly (i : Instr) : Bool :=
  match i.form with
  | .word op o =>
    (decide (op ≤ 0x00E) && op != 0x00C || decide (0x080 ≤ op ∧ op ≤ 0x191))
      && o.d.offQueue && o.a.offQueue && o.b.offQueue
  | .wide _ o => o.d.offQueue
  | .event => false

/-- An atomic of the `.spc` use. -/
def Instr.isSpc (i : Instr) : Bool :=
  match i.form with
  | .word op o => decide (0x280 ≤ op ∧ op ≤ 0x289) && o.mods.mode == 5
  | _ => false

end Sys2Proof

namespace Sys2Proof.Machine

/-- A fault of the word at the slot's pc; while an atomic performed early is held nothing is raised (R73, R187), and the
slot does not issue. -/
def State.fetchFault (s : State) (f : FaultInfo) : State :=
  if s.spcHeld s.curF.id then s else (s.trapHere f clsPrecise).issued plainHdr

/-- The latest request of the firing is a `.spc` atomic that may be performed early, and nothing else happened at its issue
(R187). -/
def State.issuedEarly (t s : State) : Bool :=
  t.iq.length == s.iq.length + 1 && t.cur.wait == .none &&
    match t.iq.getLast? with
    | some i => match i.act with | .amo _ _ _ _ _ _ _ (some _) => true | _ => false
    | none => false

/-- A slot's next instruction, once its word is fetched and decoded: while a `.spc` atomic of the firing has been
performed early, only an instruction that changes nothing but registers, or another such atomic, may issue, and none that
would fault (R73, R187). -/
def issueDecoded (i : Instr) (s : State) : Host.Outcome State Fault Refusal :=
  if s.spcHeld s.curF.id then
    if i.registerOnly || i.isSpc then
      match exec i s with
      | .next t => .next (if (t.cap s.curF.cap).seqNo = s.curCap.seqNo && (i.registerOnly || t.issuedEarly s) then t else s)
      | o => o
    else .next s
  else exec i s

/-- The growth that the current slot's next fetch asks for (R67). -/
def State.growthAtFetch (s : State) (f : Firing) : Option (Nat × Int) :=
  if f.inInline then none else fetchGrowth (s.cap f.cap) f.pc

/-- The next instruction of slot k of core ep: an outcome-unknown fault first (R226), then Table 3.10. -/
def issueSlot (s0 : State) (ep k : Nat) : Host.Outcome State Fault Refusal :=
  let s := { s0 with curCore := ep, curSlot := k }
  match s.cur.firing with
  | none => .next s0
  | some f =>
    match f.unknown with
    | u :: us =>
      let s := s.modF fun f => { f with unknown := us }
      .next ((s.takeFaultRaw ep k ⟨0x12, u.ptr, BitVec.ofNat 64 u.opcode⟩ clsImprecise u.word u.raw f.pc).issued plainHdr)
    | [] =>
      match s.growthAtFetch f with
      | some (x, upto) => .next (if s.spcHeld f.id then s else Eff.run plainHdr s (.grow x upto (fetchBound f.pc)))
      | none =>
        match fetchWord s ep f f.pc with
        | .error e => .next (s.fetchFault e)
        | .ok w =>
          match decodeWord w with
          | .error d => .next (s.fetchFault (d.info f.pc))
          | .ok i => issueDecoded i s

/-- The first slot in order that issues (R257, R259). -/
def tryIssue (ep : Nat) : List Nat → State → Host.Outcome State Fault Refusal
  | [], s => .next s
  | k :: ks, s =>
    match issueSlot s ep k with
    | .next t => if (t.core ep).lastCycle = (s.core ep).cycles.toNat + 1 then .next t else tryIssue ep ks s
    | o => o

/-- One slot at the end of a cycle: its delay and budget fall (R31, R254), the delay though its firing has left, Budget-exhausted is raised (R255), and an
ending firing whose writes are done leaves (R79). -/
def State.endCycleSlot (s : State) (ep : Nat) (k : Nat) : State :=
  let x := s.slot ep k
  let s := s.modSlot ep k fun x => { x with delay := x.delay - 1 }
  match x.firing with
  | none => s
  | some f =>
    let growing := match x.wait with | .growth _ _ _ => true | _ => false
    let f' := if growing then f else { f with budget := f.budget - 1 }
    let s := s.modSlot ep k fun x => { x with firing := some f' }
    match x.wait with
    | .ending p =>
      if s.settled f' then (s.endFiring ep k f' p).reportUnknown ep f' else if f'.budget = 0 then s.exhaust ep k else s
    | _ => if f'.budget = 0 then s.exhaust ep k else s

/-- The end of a cycle: waits on phasers are tested (R291), and in the cycle that follows every term may act again, so
testing repeats (R296). -/
def State.endCycle (s : State) (ep : Nat) : State :=
  let s := s.phWaitTests ep (s.core ep).cycles.toNat
  let s := (s.modCore ep fun c => { c with cycles := c.cycles + 1, acted := [] }).testTerms ep
  (List.range Config.slotCount).foldl (fun s k => s.endCycleSlot ep k) s

/-- Slots whose `mwait` has finished go on (R162). -/
def State.mwaitTests (s : State) (ep : Nat) : State := (List.range Config.slotCount).foldl (fun s k => s.mwaitTest ep k) s

/-- A cycle of core ep: slots whose `mwait` has finished go on first. -/
def cycle (ep : Nat) (s : State) : Host.Outcome State Fault Refusal :=
  if !s.isCore ep then .next s
  else
    let s := s.mwaitTests ep
    match tryIssue ep (s.core ep).issueOrder s with
    | .next t => .next (t.endCycle ep)
    | o => o

/-! The order of moves (log 2). -/

def upTo (n : Nat) (f : Nat → Instr) : List Instr := (List.range n).map f

/-- Events of a core. -/
def State.coreEvents (s : State) (ep : Nat) : List Instr :=
  let c := s.core ep
  [.dispatch ep, .steal ep, .preemptSave ep]
    ++ ((List.range Config.slotCount).flatMap fun k =>
      [.stackGrowth ep k, .phTwaitExpiry ep k] ++ upTo (c.slot k).stream.length fun i => .sendStreamDeliver ep k i)
    ++ upTo 4 (fun ch => .porterEntry ep ch) ++ upTo 4 (fun ch => .dealEntry ep ch)
    ++ upTo c.held.length (fun i => .heldSlotWrite ep i) ++ upTo c.mq.length (fun i => .matrixOpStart ep i)
    ++ upTo c.mq.length (fun i => .matrixOpFinish ep i)
    ++ s.phasers.map fun p => .phaserCompletionNotice ep (p.1 % 2 ^ 24 / 128) (p.1 % 128)

/-- Events of a chip. -/
def State.chipEvents (s : State) (c : Nat) : List Instr :=
  let h := s.chip c
  [.leaseGrant c, .leaseRevoke c, .receiveRevokeRequest c, .barrierCheck c, .capsuleAdmission c, .queueRegistrationAnswer c,
    .attestReportDone c, .warmRebootEnd c]
    ++ upTo 4 (fun d => .readyPoolNode c d) ++ upTo 4 (fun d => .governorMove c d)
    ++ ((List.range 4).flatMap fun d => upTo 64 fun q => .hawkerBalance c d q)
    ++ (h.fabric.wls.flatMap fun w => [.retrainEnd c w.1, .retirementBucketDecay c w.1, .leaseWavelengthReturn c w.1])
    ++ h.queues.flatMap fun q => [.queueDoorbell c q.1] ++ upTo q.2.packets.length (fun i => .packetStart c q.1 i)
      ++ upTo q.2.packets.length fun i => .packetComplete c q.1 i

/-- Events of requests, entries and messages on their way. -/
def State.trafficEvents (s : State) : List Instr :=
  let n := s.entries.length
  let r := s.remote.length
  upTo s.iq.length (fun i => .issueQueuePerform i s.tick) ++ upTo s.iq.length (fun i => .spcCommit i)
    ++ upTo n (fun i => .entryMove i) ++ upTo s.iq.length (fun i => .atomicPerform i true)
    ++ upTo s.iq.length (fun i => .atomicPerform i false) ++ upTo n (fun i => .reductionWaitExpiry i)
    ++ upTo n (fun i => .gatewayMerge i (i + 1)) ++ upTo r (fun i => .remoteRequestPerform i)
    ++ upTo r (fun i => .remoteReplyReceive i) ++ upTo r (fun i => .fabricBarrierArrival i) ++ upTo r (fun i => .amsgAccept i)
    ++ upTo s.held.length (fun i => .heldMessagePlace i)
    ++ ((List.range s.phq.length).zip s.phq).map fun r => .phaserArbiterStep (r.2.key / 128) r.1
def State.capEvents (cap : Nat) : List Instr :=
  [.capsuleCompletion cap, .faultRecordDelivery cap, .park cap, .preemptInstall cap]

/-- The moves that an empty agenda chooses among: cycles of the cores that hold a capsule, the command inputs of every core,
and every event that no party outside the machine and no error causes. -/
def State.moves (s : State) : List Move :=
  let eps := (s.cores.filter fun c => c.2.cap.isSome).map Prod.fst
  let commanded := (s.cores.filter fun c => c.2.cap.isSome || !c.2.cmdIn.isEmpty).map Prod.fst
  eps.map Move.cycle ++ (commanded.map Instr.matrixCommandAccept ++ eps.flatMap s.coreEvents ++ s.trafficEvents ++ s.caps.flatMap (fun c => State.capEvents c.1)
    ++ s.chips.flatMap fun c => s.chipEvents c.1).map Move.event

/-- A move is made. An event that is an instruction of the opcode map is none: those issue in cycles. -/
def moveOnce (m : Move) (s : State) : Host.Outcome State Fault Refusal :=
  match m with
  | .cycle ep => cycle ep s
  | .event i => if i.form = .event && !s.ofShadow i then exec i s else .next s

/-- A move is made, by the shadows of redundant capsules too (R417). -/
def makeMove (m : Move) (s : State) : Host.Outcome State Fault Refusal :=
  match moveOnce m s with
  | .next t => .next (s.mirror t m (moveOnce m))
  | o => o

/-- The next move and the state it is made in. -/
def State.nextMove (s : State) : Option (Move × State) :=
  match s.agenda with
  | m :: ms => some (m, { s with agenda := ms })
  | [] =>
    let ms := s.moves
    match ms[s.tick % ms.length]? with
    | some m => some (m, { s with tick := s.tick + 1 })
    | none => none

end Sys2Proof.Machine
end

