-- ==== Sys2Proof/Machine/Placing.lean ====
section
/-!
DEFINITION. A small capsule on core 0 of chip 0 whose firing stands at a given word: what an admission and a dispatch
leave (13, 17), for `State.withFetchWord`.
-/
namespace Sys2Proof.Machine

/-- The capsule's code image: header, the word as word 8, and an execution bitmap that marks it. -/
def placedCode (w : Nat) : List Byte :=
  toBytes 4 0x4358594C ++ toBytes 2 1 ++ toBytes 2 96 ++ toBytes 4 120 ++ toBytes 4 112 ++ toBytes 4 0 ++ toBytes 4 108
    ++ toBytes 4 2 ++ List.replicate 68 0 ++ toBytes 12 w ++ [0, 1] ++ List.replicate 10 0

/-- Its extents: code (R, X), stack (R, W, G) and arguments (R, W), release-consistent, in the HBM of chip 0. -/
def placedExtents : AMap Extent :=
  [(0, { base := 0x10000, home := 0, length := 4096, comm := 4096, attr := 0x045, owner := 0 }),
   (1, { base := 0x100000, home := 0, length := 0x100000, comm := 0x100000, attr := 0x063, owner := 0 }),
   (2, { base := 0x20000, home := 0, length := 4096, comm := 4096, attr := 0x04B, owner := 0 }),
   (3, { base := 0x30000, home := 0, length := 4096, comm := 4096, attr := 0x04B, owner := 0 })]

/-- Its one actor, without mailboxes and with any production. -/
def placedActor : Actor :=
  { entry := 0, logical := 0, ep := 0, stage := 0, production := 255, privSize := 0, privOff := Config.lBytes, budget := 0
    state := .running }

def placedCapsule : Capsule :=
  { chip := 0, extents := placedExtents, actors := [placedActor], cores := [0] }

/-- Its firing, dispatched in slot 0 of core 0 with the word at index 8 next. -/
def placedFiring (id w : Nat) : Firing :=
  { id := id, cap := 1, kind := .actor, actor := 0, stage := 0, stamp := 0, pc := 8, budget := 2 ^ 32, budget0 := 2 ^ 32
    code := placedCode w }

/-- The state with that capsule running and the next move a cycle of its core. -/
def State.placed (s : State) (w : Nat) : State :=
  let f := placedFiring s.fresh w
  let slot := startSlot {} f 0x40000 [(11, BitVec.ofNat 64 Config.lBytes)] false 0
  let core : Core := { s.core 0 with cap := some 1, logical := 0, slots := [(0, slot)] }
  let s := { s with caps := s.caps.put 1 placedCapsule, agenda := [.cycle 0], fresh := s.fresh + 1 }
  (s.setCore 0 core).writeM (keyOf 0 0x10000) (placedCode w)

end Sys2Proof.Machine
end

