-- ==== Sys2Proof/Machine/Step.lean ====
section
/-!
DEFINITION. The step of the machine, and the placing of one instruction where the next step fetches it.
-/
namespace Sys2Proof.Machine

/-- One step: the next move of the agenda, or where it is empty the move that `tick` chooses (log 2). -/
def step (s : State) : Host.Outcome State Fault Refusal :=
  match s.nextMove with
  | some (m, t) => makeMove m t
  | none => .next s

/-- The state with one instruction placed where the next step fetches and issues it (log 2): a program comes to run by the
admission of a capsule, and this stands for the admission of a small one whose first word is the instruction. -/
def State.withFetchWord (s : State) (nbits w : Nat) : State := s.placed (w % 2 ^ nbits)

end Sys2Proof.Machine
end

