-- ==== Sys2Proof/Safety.lean ====
section
/-!
DEFINITION. The terms in which statements about the machine are made: what an instruction leaves when it is done, what
a state keeps from step to step, and what two states have in common.
-/
namespace Sys2Proof.Machine

/-- What an instruction leaves once it has changed the state to t: its slot waits for nothing, AtEnd is applied to its
word (R271), and its hints and the issue order take effect (R31, R259). -/
def completed (h : Hdr) (t : State) : State := ((t.modCur fun x => { x with wait := .none }).advance).issued h

/-- What an instruction that transfers control leaves: the next word is the target, and AtEnd is not applied (R271). -/
def jumped (h : Hdr) (t : State) (target : Int) : State := (t.modF fun f => { f with pc := target }).issued h

/-- A fault of the instruction in the current slot, in the state before it issued (R52). -/
def faulted (s : State) (f : FaultInfo) : State := (s.trapHere f clsPrecise).issued plainHdr

/-- The current firing's word index. -/
def State.pc (s : State) : Int := s.curF.pc

/-- Every memory of the machine is in canonical form: M, and each core's L store. -/
def State.Canonical (s : State) : Prop := s.mem.wf = true ∧ ∀ e ∈ s.cores, e.2.lstore.wf = true

/-- Nothing outside the cores differs: M and its marks, the entries and requests on their way, phasers, held messages,
capsules and chips. -/
def SameOutside (s t : State) : Prop :=
  t.mem = s.mem ∧ t.poison = s.poison ∧ t.entries = s.entries ∧ t.iq = s.iq ∧ t.remote = s.remote
    ∧ t.phasers = s.phasers ∧ t.phq = s.phq ∧ t.held = s.held ∧ t.caps = s.caps ∧ t.chips = s.chips

/-- Nothing of any core differs but the core and slot whose instruction is performed. -/
def SameCores (s t : State) : Prop :=
  (∀ ep, ep ≠ s.curCore → t.core ep = s.core ep) ∧ ∀ k, k ≠ s.curSlot → t.slot s.curCore k = s.slot s.curCore k

/-- The current core's stores, queues and engines are the same. -/
def SameStores (s t : State) : Prop :=
  t.curC.lstore = s.curC.lstore ∧ t.curC.lpoison = s.curC.lpoison ∧ t.curC.banks = s.curC.banks
    ∧ t.curC.tiles = s.curC.tiles ∧ t.curC.sq = s.curC.sq ∧ t.curC.vq = s.curC.vq ∧ t.curC.mq = s.curC.mq

/-- The operand names scalar register n; s0 is none. -/
def namesS (x : Operand) (n : Nat) : Bool := match x with | .s m _ => m.val == n | _ => false
def namesV (x : Operand) (n : Nat) : Bool := match x with | .v m _ => m.val == n | _ => false
def namesP (x : Operand) (n : Nat) : Bool := match x with | .p m _ => m.val == n | _ => false

end Sys2Proof.Machine
end

