-- ==== Sys2Proof/Certificates/Slice0/Obligations.lean ====
section
/-!
DEFINITION. The statements for the provers, in the order of `OBLIGATIONS.json`.
-/
open Sys2Proof Sys2Proof.Machine

/-- Decoding the encoding of a well-formed instruction gives it back (03, Tables 3.1 to 3.9). -/
def Obligations.DecodeOfEncode : Prop :=
  ∀ i : Instr, i.wellFormed = true → decodeWord (encode i) = .ok i

/-- A 96-bit word that decodes is the encoding of what it decodes to (03, Table 3.10: a reserved bit that is not zero is refused). -/
def Obligations.EncodeOfDecode : Prop :=
  ∀ (w : Nat) (i : Instr), w < 2 ^ 96 → decodeWord w = .ok i → i.wellFormed = true ∧ encode i = w

/-- Words that the spec writes out, and the instructions that stand beside them there (Tables 1.1 to 20.2 of its listings; 18 Table 18.2, 20 and 21 Table 21.5a among them); the last six words but one are made of the fields of Tables 3.1 to 3.6. -/
def Obligations.SampleWords : Prop :=
  let m : Mods := Mods.plain
  decodeWord 0x201E00040001880002100005 = .ok (.add ⟨plainHdr, m, .s 6 false, .s 4 false, .s 5 false⟩)
    ∧ decodeWord 0x275E000C7080880004F00064
      = .ok (.cmp ⟨plainHdr, { m with ty := some .i64, mode := 2 }, .p 2 false, .s 9 false, .imm 100⟩)
    ∧ decodeWord 0x025E00000000000000000004 = .ok (.call ⟨plainHdr, .none, 4⟩)
    ∧ decodeWord 0x449E00081001100000A80002
      = .ok (.vaddsub ⟨plainHdr, { m with ty := some .i8 }, .v 4 false, .v 1 false, .v 2 true⟩)
    ∧ decodeWord 0x505E00089040D00001700001
      = .ok (.vpack ⟨plainHdr, { m with ty := some .bf16, mode := 1 }, .v 3 false, .v 2 false, .imm 1⟩)
    ∧ decodeWord 0x60DE0008A041900002200005
      = .ok (.vffma ⟨plainHdr, { m with ty := some .f32, mode := 1 }, .v 6 false, .v 4 false, .v 5 false⟩)
    ∧ decodeWord 0x815E00100004200000400008 = .ok (.mma ⟨plainHdr, m, .tile 16, .tile 0, .tile 8⟩)
    ∧ decodeWord 0x901E00047C1108000CF00000
      = .ok (.ld ⟨plainHdr, { m with ty := some .i64, scope := .sys, order := .acq }, .s 4 false, .s 25 false, .imm 0⟩)
    ∧ decodeWord 0xA1DE00047A31080004100005
      = .ok (.amoCas ⟨plainHdr, { m with ty := some .i64, scope := .dev, order := .ar }, .s 4 false, .s 8 false, .s 5 false⟩)
    ∧ decodeWord 0xA81E00040A0238008010000B
      = .ok (.qpub ⟨plainHdr, { m with scope := .dev }, .s 8 false, .imm 256, .s 11 false⟩)
    ∧ decodeWord 0xC01E00040005080002000000 = .ok (.send ⟨plainHdr, m, .s 20 false, .s 4 false, .none⟩)
    ∧ decodeWord 0xD41E00040001300000000000 = .ok (.sysrd ⟨plainHdr, m, .s 4 false, .special 0, .none⟩)
    ∧ decodeWord 0x909E10047002C8000E700000
      = .ok (.ldl ⟨{ plainHdr with yield := true }, { m with ty := some .i64 }, .s 11 false, .s 28 false, .imm 0⟩)
    ∧ decodeWord 0xA61E001C0000080005000000 = .ok (.pappend ⟨plainHdr, m, .imm 0, .s 10 false, .none⟩)
    ∧ decodeWord 0xB19E00040001C8000310001E = .ok (.rcopy ⟨plainHdr, m, .s 7 false, .s 6 false, .s 30 false⟩)
    ∧ decodeWord 0x035E00040002C00000000007 = .ok (.loop ⟨plainHdr, .s 11 false, 7⟩)
    ∧ decodeWord 0xD85E001C0000400000000000 = .ok (.tret ⟨plainHdr, m, .imm 1, .none, .none⟩)
    ∧ decodeWord 0xD21E00040001080002900006 = .ok (.lease ⟨plainHdr, m, .s 4 false, .s 5 false, .s 6 false⟩)
    ∧ decodeWord 0x485E00080000D00000A00002 = .ok (.vperm ⟨plainHdr, m, .v 3 false, .v 1 false, .v 2 false⟩)
    ∧ decodeWord 0xA41E00000600000000000000 = .ok (.fence ⟨plainHdr, { m with scope := .sq }, .none, .none, .none⟩)
    ∧ decodeWord 0xC49E00040001400000000000 = .ok (.phSig ⟨plainHdr, m, .s 5 false, .none, .none⟩)
    ∧ decodeWord 0xC81E001C0000080002000000 = .ok (.evcfg ⟨plainHdr, m, .imm 0, .s 4 false, .none⟩)
    ∧ decodeWord 0xCA1E00040001380001100005 = .ok (.stage ⟨plainHdr, m, .s 4 false, .imm 2, .s 5 false⟩)
    ∧ decodeWord 0xD05E001C0002480002100006 = .ok (.xderive ⟨plainHdr, m, .imm 9, .s 4 false, .s 6 false⟩)
    ∧ decodeWord 0 = .error .zeroWord

/-- A step that is a cycle of a core runs the instruction that the first slot in issue order decodes (13 R257, R259; 03 Table 3.10), and then ends the cycle. -/
def Obligations.StepRunsDecoded : Prop :=
  ∀ (s t u : State) (ep k : Nat) (ks : List Nat) (f : Firing) (w : Nat) (i : Instr),
    let t0 := t.mwaitTests ep
    let t1 := { t0 with curCore := ep, curSlot := k }
    s.nextMove = some (.cycle ep, t) → t.isCore ep = true → (t0.core ep).issueOrder = k :: ks →
    (t0.slot ep k).firing = some f → f.unknown = [] → t0.spcHeld f.id = false → t1.growthAtFetch f = none →
    fetchWord t1 ep f f.pc = .ok w → decodeWord w = .ok i →
    exec i t1 = .next u → (u.core ep).lastCycle = (t0.core ep).cycles.toNat + 1 →
    step s = .next (t.mirror (u.endCycle ep) (.cycle ep) (moveOnce (.cycle ep)))
    ∧ ((∀ e, e ∈ t.caps → e.2.redundant = false) → step s = .next (u.endCycle ep))

/-- A step that is an event of the machine runs it (log 2: the agenda and the tick are the model's own order of moves). -/
def Obligations.StepRunsEvent : Prop :=
  (∀ (s t : State) (i : Instr), s.nextMove = some (.event i, t) → i.form = .event →
      (∀ e, e ∈ t.caps → e.2.redundant = false) → (∀ ep, (t.core ep).shadowOf = none) → step s = exec i t)
    ∧ (∀ (s t u : State) (i : Instr), s.nextMove = some (.event i, t) → i.form = .event → t.ofShadow i = false → exec i t = .next u →
      step s = .next (t.mirror u (.event i) (moveOnce (.event i))))
    ∧ ∀ (s t : State) (i : Instr), s.nextMove = some (.event i, t) → i.form ≠ .event →
      (∀ e, e ∈ t.caps → e.2.redundant = false) → step s = .next t

/-- Steps 1 to 7 of Table 3.10: a word that cannot be fetched or decoded raises its fault before anything else happens. The growth that a fetch asks for is 04 R67; which of several wrong fields is named is the model's choice (log 9). -/
def Obligations.FetchFaults : Prop :=
  ∀ (s : State) (ep k : Nat) (f : Firing), (s.slot ep k).firing = some f → f.unknown = [] → s.spcHeld f.id = false →
    let s1 := { s with curCore := ep, curSlot := k }
    let c := s1.cap f.cap
    let p := mkPtr 0 (12 * f.pc)
    (∀ x, f.inInline = false → c.extents.find 0 = some x → x.homeKey = 64 ∨ x.homeKey = c.chip →
      (x.has permX = false → issueSlot s ep k = .next (faulted s1 ⟨0x07, p, BitVec.ofNat 64 permX⟩))
      ∧ (x.has permX = true → f.pc < 0 ∨ (x.length : Int) < 12 * f.pc + 12 →
        issueSlot s ep k = .next (faulted s1 ⟨0x06, p, 12⟩))
      ∧ (x.has permX = true → 0 ≤ f.pc → 12 * f.pc + 12 ≤ x.comm → x.comm ≤ x.length → codeMarked f.code f.pc.toNat = false →
        issueSlot s ep k = .next (faulted s1 ⟨0x0A, toWord f.pc, 0⟩)))
    ∧ (∀ b, f.inline = some b → f.trap = none → (((s1.core ep).inlineBufs.get [] b).length : Int) ≤ f.pc →
      issueSlot s ep k = .next (faulted s1 ⟨0x0A, toWord f.pc, 0⟩))
    ∧ (∀ w d, s1.growthAtFetch f = none → fetchWord s1 ep f f.pc = .ok w → decodeWord w = .error d →
      match d with
      | .zeroWord => issueSlot s ep k = .next (faulted s1 ⟨0x00, 0, 0⟩)
      | .illegalOpcode => issueSlot s ep k = .next (faulted s1 ⟨0x01, 0, 0⟩)
      | .dataWord => issueSlot s ep k = .next (faulted s1 ⟨0x0A, toWord f.pc, 0⟩)
      | .operandKind n => issueSlot s ep k = .next (faulted s1 ⟨0x02, BitVec.ofNat 64 n, 0⟩)
      | .reservedField b => issueSlot s ep k = .next (faulted s1 ⟨0x03, BitVec.ofNat 64 b, 0⟩)
      | .short => True)
    ∧ (∀ w, (bits w 86 10 = 0 → decodeWord w = .error .zeroWord) ∧ (bits w 86 10 = 0x3FF → decodeWord w = .error .dataWord)
      ∧ (bits w 86 10 ≠ 0 → bits w 86 10 ≠ 0x3FF → rowOf (bits w 86 10) = none → decodeWord w = .error .illegalOpcode))
    ∧ (∀ e, s1.growthAtFetch f = none → fetchWord s1 ep f f.pc = .error e → issueSlot s ep k = .next (faulted s1 e))
    ∧ ∀ x n, s1.growthAtFetch f = some (x, n) → issueSlot s ep k = .next (Eff.run plainHdr s1 (.grow x n ⟨0x06, p, 12⟩))

/-- An instruction that its guard lets not act frees what its last-use bits name and does nothing else (03 R28, R30), whatever the instruction is; `loop` goes on at the word behind it, without AtEnd (14 R271). That a freed guard is a fault of step 8 with field 3 under strict last use (R44) is the model's choice (log 21). -/
def Obligations.GuardedOut : Prop :=
  ∀ (i : Instr) (s : State) (f : Firing), i.wellFormed = true → s.cur.firing = some f →
    let refused := fun (h : Hdr) => (s.cap f.cap).strict = true ∧ (s.cur.preg h.guard.val).freed = true
    (∀ op o, i.form = .word op o →
      (refused o.hdr → exec i s = .next (faulted s ⟨0x04, 3, BitVec.ofNat 64 o.hdr.guard.val⟩))
      ∧ (¬refused o.hdr → guardBits s s.cur o.hdr = 0
        ∨ ((guardBits s s.cur o.hdr).getLsbD 0 = false ∧ op ≠ 0x245 ∧ op ≠ 0x247 ∧ (op = 0x2C5 → Operand.isVec o.a = false)
          ∧ match o.d with
            | .v _ _ => False
            | .q n => n.val < 12
            | _ => True) →
      exec i s = .next (completed o.hdr (s.skipped op o))))
    ∧ ∀ op w, i.form = .wide op w →
      (refused w.hdr → exec i s = .next (faulted s ⟨0x04, 3, BitVec.ofNat 64 w.hdr.guard.val⟩))
      ∧ (¬refused w.hdr → (guardBits s s.cur w.hdr).getLsbD 0 = false →
      (op = 0x00D → exec i s = .next (jumped w.hdr (s.skipped op w.ops) ((s.skipped op w.ops).pc + 1)))
      ∧ (op ≠ 0x00D → exec i s = .next (completed w.hdr (s.skipped op w.ops))))

/-- When an instruction issues, under a scalar guard or one by element (03 Table 3.10, R28, R29, R43, R49; 13 R257), and what its fields read (03 R33). A queue named twice as a source pops two entries, the older into the earlier field, and the instruction waits while it holds fewer (03 R49). -/
def Obligations.IssueConditions : Prop :=
  (
    (∀ (sp : Spec) (o : Ops) (s : State) (f : Firing) (r : Row) (v : Vals) (c : Core),
      let gb := guardBits s s.cur o.hdr
      s.cur.firing = some f → rowOf sp.op = some r → ((s.cap f.cap).strict = true → (s.cur.preg o.hdr.guard.val).freed = false) →
      (match sp.guard with
        | .scalar => gb.getLsbD 0 = true
        | .fixed w => 0 < w ∧ ∃ i, i < 256 / w ∧ gb.getLsbD (i * w) = true
        | .elem n => match o.mods.ty with
          | some t => ∃ i, i < 256 / t.width ∧ gb.getLsbD (i * t.width) = true
          | none => ∃ m l, o.field n = .v m l ∧ (s.cur.vreg m.val).pend = none
            ∧ ∃ i, i < 256 / (s.cur.vreg m.val).tag.width ∧ gb.getLsbD (i * (s.cur.vreg m.val).tag.width) = true) →
      readFields r s.fresh s.cur s.curC o = some (v, c) → busy sp r s.cur s.curC o = false →
      step9 sp s s.curC s.cur (s.cap f.cap).strict o v = none →
      ready sp o s = .go { s.setCore s.curCore (c.setSlot s.curSlot
        (freeSources r (!r.dSrc o.shape || sp.dDst) s.cur o)) with fresh := s.fresh + 1 } v gb)
    ∧ ∀ (k : Nat) (x : Slot) (c : Core) (l : Bool),
      (∀ n, (x.sreg n.val).pend = none → (x.sreg n.val).freed = false →
        readField k x c (.s n l) = some (.s (x.sreg n.val).val false (x.sreg n.val).poison, c))
      ∧ (∀ n, (x.sreg n.val).pend ≠ none → readField k x c (.s n l) = none)
      ∧ (∀ n, (x.vreg n.val).pend = none → (x.vreg n.val).tag ≠ .freed →
        readField k x c (.v n l) = some (.v (x.vreg n.val).bits (x.vreg n.val).tag false, c))
      ∧ (∀ n, (x.vreg n.val).pend ≠ none → readField k x c (.v n l) = none)
      ∧ (∀ n, (x.preg n.val).freed = false → readField k x c (.p n l) = some (.p (x.preg n.val).bits false, c))
      ∧ (∀ i, readField k x c (.imm i) = some (.imm (BitVec.signExtend 64 i), c))
      ∧ (∀ n, readField k x c (.tile n) = some (.tile n.val, c)) ∧ readField k x c .none = some (.none, c))
  ∧ (
    ∀ (r : Row) (k : Nat) (x : Slot) (c : Core) (o : Ops) (q : Fin 16), q.val < 12 → r.dSrc o.shape = false → r.aDst = false →
      o.a = .q q → o.b = .q q →
      (∀ e1 e2 es, c.sq' q.val = e1 :: e2 :: es → e1.pend = none → e2.pend = none →
        ∃ c', readFields r k x c o
            = some ({ d := .none, a := .s e1.val false e1.poison, b := .s e2.val false e2.poison, old := x, at_ := k }, c')
          ∧ c'.sq' q.val = es)
      ∧ ((c.sq' q.val).length < 2 → readFields r k x c o = none)
      ∧ (∀ e1 e2 es, c.sq' q.val = e1 :: e2 :: es → e1.pend ≠ none ∨ e2.pend ≠ none → readFields r k x c o = none))

/-- s0 reads as zero and p15 as all ones; writes to them are discarded, last-use marks on them have no effect, and neither is ever freed or poisoned (03 R41). -/
def Obligations.HardwiredRegisters : Prop :=
  ∀ (x : Slot), x.sreg 0 = { val := 0, freed := false, poison := false, pend := none }
    ∧ (x.preg 15).bits = BitVec.allOnes 256 ∧ (x.preg 15).freed = false
    ∧ (∀ v, x.setS 0 v = x) ∧ (∀ r, x.setSReg 0 r = x) ∧ (∀ v, x.setP 15 v = x) ∧ x.freeS 0 = x ∧ x.freeP 15 = x
    ∧ (∀ l, freeField x (.s 0 l) = x) ∧ (∀ l, freeField x (.p 15 l) = x)
    ∧ (∀ id v p, x.arriveS 0 id v p = x) ∧ ∀ k, readS k x 0 = 0

/-- A write that leaves a register whole clears freed and poison (03 R44, R48), and no other register changes. -/
def Obligations.RegisterWrites : Prop :=
  ∀ (x : Slot), (∀ n v, n ≠ 0 → (x.setS n v).sreg n = { val := v, freed := false, poison := false, pend := none })
    ∧ (∀ n m v, m ≠ n → (x.setS n v).sreg m = x.sreg m)
    ∧ (∀ n v m, (x.setS n v).vreg m = x.vreg m) ∧ (∀ n v m, (x.setS n v).preg m = x.preg m)
    ∧ (∀ n v t, (x.setV n v t).vreg n = { bits := v, tag := t, pend := none })
    ∧ (∀ n m v t, m ≠ n → (x.setV n v t).vreg m = x.vreg m)
    ∧ (∀ n v t m, (x.setV n v t).sreg m = x.sreg m) ∧ (∀ n v t m, (x.setV n v t).preg m = x.preg m)
    ∧ (∀ n v, n ≠ 15 → ((x.setP n v).preg n).bits = v ∧ ((x.setP n v).preg n).freed = false)
    ∧ (∀ n m v, m ≠ n → (x.setP n v).preg m = x.preg m) ∧ (∀ n v m, (x.setP n v).sreg m = x.sreg m)
    ∧ ∀ n v m, (x.setP n v).vreg m = x.vreg m

/-- Results of the common moves (04 R62 to R66): each completes with the state the rules give. Where `mkptr` and `ptrx` fault (04 R62, R63), in the state before the instruction. -/
def Obligations.CommonResults : Prop :=
  (
    ∀ (o : Ops) (w : Wide) (s s1 : State) (v : Vals) (g : PBits),
      (ready { op := 0x001 } o s = .go s1 v g → exec (.nop o) s = .next (completed o.hdr s1))
      ∧ (∀ x fr po, ready { op := 0x002 } o s = .go s1 v g → Row.movClass o.d.kind o.d.num ≠ 2 → v.a = .s x fr po →
        exec (.mov o) s = .next (completed o.hdr (s1.putS o.d x)))
      ∧ (∀ b fr, ready { op := 0x002 } o s = .go s1 v g → Row.movClass o.d.kind o.d.num ≠ 2 → v.a = .p b fr →
        exec (.mov o) s = .next (completed o.hdr (s1.putP o.d b)))
      ∧ (∀ b t fr, ready { op := 0x002, guard := .elem 1 } o s = .go s1 v g → Row.movClass o.d.kind o.d.num = 2 → v.a = .v b t fr →
        exec (.mov o) s = .next (completed o.hdr (s1.putV o.d g t.width b (if t = .freed then .raw else t))))
      ∧ (ready { op := 0x003 } o s = .go s1 v g → exec (.movi o) s = .next (completed o.hdr (s1.putS o.d v.a.word)))
      ∧ (ready { op := 0x004 } w.ops s = .go s1 v g →
        exec (.ldiw w) s = .next (completed w.hdr (s1.putS w.d (BitVec.signExtend 64 w.imm))))
      ∧ (ready { op := 0x005 } o s = .go s1 v g → v.a.word.toNat ≤ 63 →
        exec (.mkptr o) s = .next (completed o.hdr (s1.putS o.d
          (BitVec.ofNat 64 (v.a.word.toNat * 2 ^ 58 + (sval v.b.word % 2 ^ 58).toNat)))))
      ∧ (ready { op := 0x006 } o s = .go s1 v g →
        let off := (ptrOff v.a.word : Int) + sval v.b.word * (o.mods.ty.map Tag.width).getD 1
        0 ≤ off → off < 2 ^ 58 →
        exec (.ptrx o) s = .next (completed o.hdr (s1.putS o.d (BitVec.ofNat 64 (ptrSlot v.a.word * 2 ^ 58 + off.toNat))))))
  ∧ (
    ∀ (o : Ops) (s s1 : State) (v : Vals) (g : PBits),
      (ready { op := 0x005 } o s = .go s1 v g → 63 < v.a.word.toNat →
        exec (.mkptr o) s = .next (faulted s ⟨0x08, v.a.word, 0⟩))
      ∧ (ready { op := 0x006 } o s = .go s1 v g →
        let step := sval v.b.word * (o.mods.ty.map Tag.width).getD 1
        (ptrOff v.a.word : Int) + step < 0 ∨ 2 ^ 58 ≤ (ptrOff v.a.word : Int) + step →
        exec (.ptrx o) s = .next (faulted s ⟨0x06, v.a.word, toWord step⟩)))

/-- Where control goes (04 R77, R78; 14 R270, R273); the words of an inline buffer are R225's. What AtEnd does to the loop stack and the next word (14 R271). -/
def Obligations.ControlTransfers : Prop :=
  (
    ∀ (o : Ops) (w : Wide) (s s1 : State) (v : Vals) (g : PBits),
      (ready { op := 0x007 } w.ops s = .go s1 v g → s1.inlineLen = none →
        exec (.br w) s = .next (jumped w.hdr s1 (s1.pc + w.imm.toInt)))
      ∧ (∀ c, ready { op := 0x007 } w.ops s = .go s1 v g → s1.inlineLen = some c → 0 ≤ s1.pc + w.imm.toInt →
        s1.pc + w.imm.toInt < c → exec (.br w) s = .next (jumped w.hdr s1 (s1.pc + w.imm.toInt)))
      ∧ (ready { op := 0x009, writes := fun _ => [1] } w.ops s = .go s1 v g → s1.inlineLen = none →
        exec (.call w) s = .next (jumped w.hdr (s1.setS 1 (toWord (12 * (s1.pc + 1)))) (s1.pc + w.imm.toInt)))
      ∧ (ready { op := 0x008 } o s = .go s1 v g → s1.inlineLen = none → ptrSlot v.d.word = 0 → ptrOff v.d.word % 12 = 0 →
        exec (.jr o) s = .next (jumped o.hdr s1 ((ptrOff v.d.word / 12 : Nat) : Int)))
      ∧ (ready { op := 0x00A, writes := fun _ => [1] } o s = .go s1 v g → s1.inlineLen = none → ptrSlot v.d.word = 0 →
        ptrOff v.d.word % 12 = 0 →
        exec (.callr o) s = .next (jumped o.hdr (s1.setS 1 (toWord (12 * (s1.pc + 1)))) ((ptrOff v.d.word / 12 : Nat) : Int)))
      ∧ (ready { op := 0x00B, reads := fun _ => [(3, 1)] } o s = .go s1 v g → s1.inlineLen = none →
        ptrSlot (v.reg 1) = 0 → ptrOff (v.reg 1) % 12 = 0 →
        exec (.ret o) s = .next (jumped o.hdr s1 ((ptrOff (v.reg 1) / 12 : Nat) : Int)))
      ∧ (ready { op := 0x00D } w.ops s = .go s1 v g → 1 ≤ w.imm.toInt → 0 < sval v.d.word ∨ (v.d.isImm = false ∧ v.d.word ≠ 0) →
        s1.curF.loops.length < 4 →
        exec (.loop w) s = .next (jumped w.hdr
          (s1.modF fun f => { f with loops := { start := f.pc + 1, last := f.pc + w.imm.toInt, count := v.d.word } :: f.loops })
          (s1.pc + 1)))
      ∧ (ready { op := 0x00D } w.ops s = .go s1 v g → 1 ≤ w.imm.toInt → v.d.word = 0 →
        exec (.loop w) s = .next (jumped w.hdr s1 (s1.pc + w.imm.toInt + 1)))
      ∧ (∀ n e, ready { op := 0x00E } o s = .go s1 v g → (o.d = .none ∧ n = 1) ∨ o.d = .imm (BitVec.ofNat 20 n) → 1 ≤ n → n ≤ 4 →
        s1.curF.loops[n - 1]? = some e →
        exec (.lexit o) s = .next (jumped o.hdr (s1.modF fun f => { f with loops := f.loops.drop n }) (e.last + 1))))
  ∧ (
    ∀ (e : Int) (l : LoopEnt) (ls : List LoopEnt),
      atEnd e [] = ([], e + 1)
      ∧ (l.last ≠ e → atEnd e (l :: ls) = (l :: ls, e + 1))
      ∧ (l.last = e → l.count ≠ 1 → atEnd e (l :: ls) = ({ l with count := l.count - 1 } :: ls, l.start))
      ∧ (l.last = e → l.count = 1 → atEnd e (l :: ls) = atEnd e ls))

/-- `done` (04 R79; 13 R246, R247, R249). -/
def Obligations.FiringEnds : Prop :=
  ∀ (o : Ops) (s s1 : State) (v : Vals) (g : PBits) (f : Firing),
    ready { op := 0x00C } o s = .go s1 v g → s1.cur.firing = some f → f.shadow = none →
    (s1.settled f = true →
      exec (.done o) s = .next ((s1.endFiring s1.curCore s1.curSlot f none).issued o.hdr)
      ∧ ((s1.endFiring s1.curCore s1.curSlot f none).slot s1.curCore s1.curSlot).firing = none
      ∧ ((f.kind = .task ∨ f.kind = .node) →
          s1.endFiring s1.curCore s1.curSlot f none = s1.clearSlot s1.curCore s1.curSlot f)
      ∧ (f.kind = .actor ∨ f.kind = .message →
          s1.endFiring s1.curCore s1.curSlot f none
            = ((s1.clearSlot s1.curCore s1.curSlot f).modActor f.cap f.actor fun a =>
                { a.discard with state := .armed, fired := a.fired || a.boxes.isEmpty }).testActor f.cap f.actor))
    ∧ (s1.settled f = false →
      exec (.done o) s = .next ((s1.modCur fun x => { x with wait := .ending none }).issued o.hdr))

/-- Results of the typed scalar instructions (06 R108, Table 6.2): a and b are the values at type T, x and y the low 8w bits unsigned, c the shift count. -/
def Obligations.ScalarArithmetic : Prop :=
  ∀ (o : Ops) (s s1 : State) (v : Vals) (g : PBits) (op : Nat),
    ready { op := op } o s = .go s1 v g →
    let t := o.mods.ty.getD .i64
    let w := 8 * t.width
    let a := iread t v.a.word.toNat
    let b := iread t v.b.word.toNat
    let x := v.a.word.toNat % 2 ^ w
    let y := v.b.word.toNat % 2 ^ w
    let c := y % w
    let gives := fun (i : Instr) (z : Int) =>
      exec i s = .next (completed o.hdr
        ((s1.orFlags (narrow t (o.mods.mode == 1) z).2).putS o.d (iwide t (narrow t (o.mods.mode == 1) z).1)))
    (op = 0x080 → gives (.add o) (a + b)) ∧ (op = 0x081 → gives (.sub o) (a - b))
    ∧ (op = 0x082 → gives (.addc o) ((x + y) / 2 ^ w : Nat)) ∧ (op = 0x083 → gives (.subb o) (if x < y then 1 else 0))
    ∧ (op = 0x084 → gives (.mul o) (a * b)) ∧ (op = 0x085 → gives (.mulh o) ((a * b).fdiv (2 ^ w)))
    ∧ (op = 0x088 → gives (.neg o) (-a)) ∧ (op = 0x089 → gives (.abs o) a.natAbs)
    ∧ (op = 0x08A → gives (.min o) (min a b)) ∧ (op = 0x08B → gives (.max o) (max a b))
    ∧ (op = 0x08C → gives (.andB o) (x &&& y : Nat)) ∧ (op = 0x08D → gives (.orB o) (x ||| y : Nat))
    ∧ (op = 0x08E → gives (.xorB o) (x ^^^ y : Nat)) ∧ (op = 0x08F → gives (.andn o) (x &&& (2 ^ w - 1 - y) : Nat))
    ∧ (op = 0x090 → gives (.notB o) (-1 - a))
    ∧ (op = 0x091 → gives (.shl o) (a * 2 ^ c)) ∧ (op = 0x092 → gives (.shr o) (x / 2 ^ c : Nat))
    ∧ (op = 0x093 → gives (.sar o) ((signed w x).fdiv (2 ^ c)))
    ∧ (op = 0x094 → gives (.rol o) (x * 2 ^ c + x / 2 ^ (w - c) : Nat))
    ∧ (op = 0x095 → gives (.ror o) (x / 2 ^ c + x * 2 ^ (w - c) : Nat))
    ∧ (op = 0x096 → gives (.clz o) (clzN w x : Nat)) ∧ (op = 0x097 → gives (.ctz o) (ctzN w x : Nat))

/-- Narrowing and widening (05 R81; 06 R108). -/
def Obligations.IntegerWrites : Prop :=
  ∀ (t : Tag) (x : Int), t.isInt = true →
    (narrow t false x = ((x % 2 ^ (8 * t.width)).toNat, 0))
    ∧ (imin t ≤ x → x ≤ imax t → narrow t true x = ((x % 2 ^ (8 * t.width)).toNat, 0))
    ∧ (x < imin t → narrow t true x = ((imin t % 2 ^ (8 * t.width)).toNat, 0x20))
    ∧ (imax t < x → narrow t true x = ((imax t % 2 ^ (8 * t.width)).toNat, 0x20))
    ∧ ((t = .i8 → imin t = -128 ∧ imax t = 127) ∧ (t = .n8 → imin t = 0 ∧ imax t = 255)
      ∧ (t = .i16 → imin t = -32768 ∧ imax t = 32767) ∧ (t = .n16 → imin t = 0 ∧ imax t = 65535)
      ∧ (t = .i32 → imin t = -2147483648 ∧ imax t = 2147483647) ∧ (t = .n32 → imin t = 0 ∧ imax t = 4294967295)
      ∧ (t = .i64 → imin t = -9223372036854775808 ∧ imax t = 9223372036854775807)
      ∧ (t = .n64 → imin t = 0 ∧ imax t = 18446744073709551615))
    ∧ ((t = .i8 → t.code = 0x01 ∧ t.width = 1) ∧ (t = .n8 → t.code = 0x02 ∧ t.width = 1)
      ∧ (t = .i16 → t.code = 0x03 ∧ t.width = 2) ∧ (t = .n16 → t.code = 0x04 ∧ t.width = 2)
      ∧ (t = .i32 → t.code = 0x05 ∧ t.width = 4) ∧ (t = .n32 → t.code = 0x06 ∧ t.width = 4)
      ∧ (t = .i64 → t.code = 0x07 ∧ t.width = 8) ∧ (t = .n64 → t.code = 0x18 ∧ t.width = 8))
    ∧ ∀ n : Nat, (t.isSigned = true → iread t n = (BitVec.ofNat (8 * t.width) n).toInt)
      ∧ (t.isSigned = false → iread t n = (n % 2 ^ (8 * t.width) : Nat))
      ∧ (t = .i8 ∨ t = .i16 ∨ t = .i32 →
        iwide t n = BitVec.signExtend 64 (BitVec.ofNat (8 * t.width) n))
      ∧ (t ≠ .i8 ∧ t ≠ .i16 ∧ t ≠ .i32 → iwide t n = BitVec.zeroExtend 64 (BitVec.ofNat (8 * t.width) n))

/-- Without a type the scalar instructions work on 64-bit words (06 R108, R109). -/
def Obligations.UntypedArithmetic : Prop :=
  ∀ (o : Ops) (s s1 : State) (v : Vals) (g : PBits) (op : Nat),
    ready { op := op } o s = .go s1 v g → o.mods.ty = none → o.mods.mode = 0 →
    let a := v.a.word
    let b := v.b.word
    let n := b.toNat % 64
    let gives := fun (i : Instr) (z : Word) => exec i s = .next (completed o.hdr ((s1.orFlags 0).putS o.d z))
    (op = 0x080 → gives (.add o) (a + b)) ∧ (op = 0x081 → gives (.sub o) (a - b)) ∧ (op = 0x084 → gives (.mul o) (a * b))
    ∧ (op = 0x08C → gives (.andB o) (a &&& b)) ∧ (op = 0x08D → gives (.orB o) (a ||| b))
    ∧ (op = 0x08E → gives (.xorB o) (a ^^^ b)) ∧ (op = 0x08F → gives (.andn o) (a &&& ~~~b))
    ∧ (op = 0x090 → gives (.notB o) (~~~a)) ∧ (op = 0x088 → gives (.neg o) (-a))
    ∧ (op = 0x091 → gives (.shl o) (a <<< n)) ∧ (op = 0x092 → gives (.shr o) (a >>> n))
    ∧ (op = 0x093 → gives (.sar o) (a.sshiftRight n)) ∧ (op = 0x094 → gives (.rol o) (a.rotateLeft n))
    ∧ (op = 0x095 → gives (.ror o) (a.rotateRight n))

/-- Division (06 R110). -/
def Obligations.DivisionResults : Prop :=
  ∀ (o : Ops) (s s1 : State) (v : Vals) (g : PBits),
    let t := o.mods.ty.getD .i64
    let w := 8 * t.width
    let a := iread t v.a.word.toNat
    let b := iread t v.b.word.toNat
    let write := fun (u : State) (x : Int) => completed o.hdr (u.putS o.d (iwide t (x % 2 ^ w).toNat))
    (ready { op := 0x086 } o s = .go s1 v g →
      (b ≠ 0 → exec (.div o) s = .next (write s1 (a.tdiv b)))
      ∧ (b = 0 → s1.cur.fctl.getLsbD 3 = false → exec (.div o) s = .next (write (s1.orFlags 0x40) (2 ^ w - 1)))
      ∧ (b = 0 → s1.cur.fctl.getLsbD 3 = true → ∃ i0, exec (.div o) s = .next (faulted s ⟨0x14, i0, 0⟩)))
    ∧ (ready { op := 0x087 } o s = .go s1 v g →
      (b ≠ 0 → exec (.rem o) s = .next (write s1 (a - b * a.tdiv b)))
      ∧ (b = 0 → s1.cur.fctl.getLsbD 3 = false → exec (.rem o) s = .next (write (s1.orFlags 0x40) a))
      ∧ (b = 0 → s1.cur.fctl.getLsbD 3 = true → ∃ i0, exec (.rem o) s = .next (faulted s ⟨0x14, i0, 0⟩)))

/-- Bit fields (06 R111), extension (R112), comparison (R113), selection (R114) and predicate logic (R115). -/
def Obligations.BitFieldsAndSelect : Prop :=
  ∀ (o : Ops) (s s1 : State) (v : Vals) (g : PBits),
    let t := o.mods.ty.getD .i64
    let pos := v.b.word.toNat % 64
    let l0 := v.b.word.toNat / 64 % 128
    let len := if l0 = 0 ∨ l0 > 64 - pos then 64 - pos else l0
    let field := v.a.word.toNat / 2 ^ pos % 2 ^ len
    let a := iread t v.a.word.toNat
    let b := iread t v.b.word.toNat
    (ready { op := 0x099 } o s = .go s1 v g → exec (.bfx o) s = .next (completed o.hdr (s1.putS o.d
      (if o.mods.ty = some .i64 then toWord (signed len field) else BitVec.ofNat 64 field))))
    ∧ (ready { op := 0x09A, dDst := true } o s = .go s1 v g → ∃ z : Word,
      exec (.bfi o) s = .next (completed o.hdr (s1.putS o.d z))
      ∧ ∀ k, k < 64 → z.getLsbD k =
          if pos ≤ k ∧ k < pos + len then v.a.word.getLsbD (k - pos) else v.d.word.getLsbD k)
    ∧ (ready { op := 0x09B } o s = .go s1 v g → exec (.sext o) s = .next (completed o.hdr (s1.putS o.d
      (toWord (signed (8 * t.width) v.a.word.toNat)))))
    ∧ (ready { op := 0x09C } o s = .go s1 v g → exec (.zext o) s = .next (completed o.hdr (s1.putS o.d
      (BitVec.ofNat 64 (v.a.word.toNat % 2 ^ (8 * t.width))))))
    ∧ (∀ bs fr, ready { op := 0x098 } o s = .go s1 v g → v.a = .p bs fr → exec (.popc o) s = .next (completed o.hdr
      (s1.putS o.d (BitVec.ofNat 64 (popcN 256 bs.toNat)))))
    ∧ (∀ x fr po, ready { op := 0x098 } o s = .go s1 v g → v.a = .s x fr po → t.isInt = true → exec (.popc o) s = .next (completed o.hdr
      (s1.putS o.d (BitVec.ofNat 64 (popcN (8 * t.width) x.toNat)))))
    ∧ (ready { op := 0x09D } o s = .go s1 v g → ∃ c : Bool,
      exec (.cmp o) s = .next (completed o.hdr (s1.putP o.d (if c then BitVec.allOnes 256 else 0)))
      ∧ (o.mods.mode = 0 → (c = true ↔ a = b)) ∧ (o.mods.mode = 1 → (c = true ↔ a ≠ b)) ∧ (o.mods.mode = 2 → (c = true ↔ a < b))
      ∧ (o.mods.mode = 3 → (c = true ↔ a ≤ b)) ∧ (o.mods.mode = 4 → (c = true ↔ b < a)) ∧ (o.mods.mode = 5 → (c = true ↔ b ≤ a)))
    ∧ (ready { op := 0x09E, dDst := true } o s = .go s1 v g → exec (.sel o) s = .next (completed o.hdr
      (s1.putS o.d (if v.d.word = 0 then v.b.word else v.a.word))))
    ∧ (ready { op := 0x09F } o s = .go s1 v g → exec (.pand o) s = .next (completed o.hdr (s1.putP o.d (v.a.pbits &&& v.b.pbits))))
    ∧ (ready { op := 0x0A0 } o s = .go s1 v g → exec (.por o) s = .next (completed o.hdr (s1.putP o.d (v.a.pbits ||| v.b.pbits))))
    ∧ (ready { op := 0x0A1 } o s = .go s1 v g → exec (.pxor o) s = .next (completed o.hdr (s1.putP o.d (v.a.pbits ^^^ v.b.pbits))))
    ∧ (ready { op := 0x0A2 } o s = .go s1 v g → exec (.pnot o) s = .next (completed o.hdr (s1.putP o.d (~~~v.a.pbits))))

/-- What an element-guarded vector result leaves (03 R29, R46; 05 R94). -/
def Obligations.ElementWrites : Prop :=
  ∀ (s : State) (n : Fin 64) (lu : Bool) (q : Fin 16) (g : PBits) (t : Tag) (f : Nat → Nat × BitVec 8), t ≠ .freed →
    let u := s.putElems (.v n lu) g t f
    (∀ i, i < 256 / t.width → velem t.width (u.cur.vreg n.val).bits i =
      if active g t.width i then (f i).1 % 2 ^ (8 * t.width) else velem t.width (s.oldV (.v n lu)) i)
    ∧ (u.cur.vreg n.val).tag = t ∧ (u.cur.vreg n.val).pend = none
    ∧ (∀ m, m ≠ n.val → u.cur.vreg m = s.cur.vreg m)
    ∧ (∀ m, u.cur.sreg m = s.cur.sreg m) ∧ (∀ m, u.cur.preg m = s.cur.preg m)
    ∧ (∀ b, (u.cur.fstat.getLsbD b = true ↔ s.cur.fstat.getLsbD b = true
        ∨ ∃ i, i < 256 / t.width ∧ active g t.width i = true ∧ (f i).2.getLsbD b = true))
    ∧ SameOutside s u ∧ SameCores s u ∧ SameStores s u
    ∧ let z := s.putElems (.q q) g t f
      (∃ e, z.curC.vq' q.val = s.curC.vq' q.val ++ [e] ∧ e.tag = t ∧ e.pend = none
        ∧ ∀ i, i < 256 / t.width → velem t.width e.bits i = if active g t.width i then (f i).1 % 2 ^ (8 * t.width) else 0)
      ∧ (∀ m, m ≠ q.val → z.curC.vq' m = s.curC.vq' m) ∧ SameOutside s z ∧ SameCores s z

/-- Results of the vector integer instructions (06 R117 to R119, R122); what a vector result leaves is `ElementWrites`. That the bitwise ones give D the tag raw when A is freed is the model's choice (log 21). -/
def Obligations.VectorArithmetic : Prop :=
  ∀ (o : Ops) (s s1 : State) (v : Vals) (g : PBits) (op : Nat),
    let t := o.mods.ty.getD v.a.tag
    let w := 8 * t.width
    let x := fun i => v.a.el t.width i % 2 ^ w
    let y := fun i => v.b.el t.width i % 2 ^ w
    let a := fun i => iread t (v.a.el t.width i)
    let b := fun i => iread t (v.b.el t.width i)
    let d := fun i => iread t (v.d.el t.width i)
    let gives := fun (i : Instr) (z : Nat → Int) =>
      exec i s = .next (completed o.hdr (s1.putElems o.d g t fun i => narrow t (o.mods.mode == 1) (z i)))
    let whole := fun (i : Instr) (z : VBits) =>
      exec i s = .next (completed o.hdr (s1.putV o.d g v.a.tag.width z (if v.a.tag = .freed then .raw else v.a.tag)))
    (ready { op := op, guard := .elem 1, tags := tagsAre Tag.isInt } o s = .go s1 v g →
      (op = 0x100 → gives (.vadd o) fun i => a i + b i) ∧ (op = 0x101 → gives (.vsub o) fun i => a i - b i)
      ∧ (op = 0x102 → gives (.vmul o) fun i => a i * b i)
      ∧ (op = 0x103 → gives (.vmulh o) fun i => (a i * b i).fdiv (2 ^ w))
      ∧ (op = 0x105 → gives (.vmin o) fun i => min (a i) (b i)) ∧ (op = 0x106 → gives (.vmax o) fun i => max (a i) (b i))
      ∧ (op = 0x107 → gives (.vabs o) fun i => (a i).natAbs) ∧ (op = 0x108 → gives (.vneg o) fun i => -a i)
      ∧ (op = 0x10D → gives (.vshl o) fun i => a i * 2 ^ (y i % w))
      ∧ (op = 0x10E → gives (.vshr o) fun i => (x i / 2 ^ (y i % w) : Nat))
      ∧ (op = 0x10F → gives (.vsar o) fun i => (signed w (x i)).fdiv (2 ^ (y i % w)))
      ∧ (op = 0x115 → gives (.vpopc o) fun i => (popcN w (x i) : Nat))
      ∧ (op = 0x116 → gives (.vclz o) fun i => (clzN w (x i) : Nat)))
    ∧ (ready { op := op, guard := .elem 1 } o s = .go s1 v g →
      let bb := v.b.spread v.a.tag.width
      (op = 0x109 → whole (.vand o) (v.a.vbits &&& bb)) ∧ (op = 0x10A → whole (.vor o) (v.a.vbits ||| bb))
      ∧ (op = 0x10B → whole (.vxor o) (v.a.vbits ^^^ bb)) ∧ (op = 0x10C → whole (.vnot o) (~~~v.a.vbits)))
    ∧ (ready { op := 0x104, guard := .elem 1, dDst := true, tags := tagsAre Tag.isInt } o s = .go s1 v g →
      gives (.vmad o) fun i => d i + a i * b i)
    ∧ (ready
        { op := 0x112, guard := .elem 1, dDst := true
          tags := fun _ o v =>
            (tagFail 0 v.d fun x => x == elemTy o v.a && x != .freed).or ((tagFail 1 v.a fun x => x == elemTy o v.a && x.isInt).or
            (tagFail 2 v.b fun x => x.isInt && x.width == (elemTy o v.a).width)) } o s = .go s1 v g →
      gives (.vaddsub o) fun i =>
        if 0 < iread v.b.tag (v.b.el t.width i) then d i + a i
        else if iread v.b.tag (v.b.el t.width i) < 0 then d i - a i else d i)
    ∧ (ready
        { op := 0x113, guard := .elem 0, dDst := true
          tags := fun _ o v =>
            (tagFail 0 v.d fun x => x == elemTy o v.d && (x == .i32 || x == .n32 || x == .i64 || x == .n64)).or
            ((tagFail 1 v.a (dotSource (elemTy o v.d))).or (tagFail 2 v.b (dotSource (elemTy o v.d)))) } o s = .go s1 v g →
      let t := o.mods.ty.getD v.d.tag
      let p := fun i => iread v.a.tag (velem (t.width / 4) v.a.vbits i) * iread v.b.tag (velem (t.width / 4) v.b.vbits i)
      exec (.vdot4 o) s = .next (completed o.hdr (s1.putElems o.d g t fun i => narrow t (o.mods.mode == 1)
        (iread t (v.d.el t.width i) + (p (4 * i) + p (4 * i + 1) + p (4 * i + 2) + p (4 * i + 3))))))

/-- `vcmp` (06 R120), `vsel` (R121) and `vred` (R123). Without saturation the pairwise tree is the plain fold. That `.sat` with a nonzero op names field 3 is the model's choice (log 22). -/
def Obligations.CompareSelectReduce : Prop :=
  ∀ (o : Ops) (s s1 : State) (v : Vals) (g : PBits),
    let t := o.mods.ty.getD v.a.tag
    let a := fun i => iread t (v.a.el t.width i)
    let b := fun i => iread t (v.b.el t.width i)
    (ready { op := 0x110, tags := tagsAre Tag.isInt } o s = .go s1 v g → t.isInt = true → ∃ p : PBits,
      exec (.vcmp o) s = .next (completed o.hdr (s1.putP o.d p))
      ∧ ∀ k, k < 256 → p.getLsbD k =
        (let i := k / t.width
        match o.mods.mode.val with
        | 0 => decide (a i = b i)
        | 1 => decide (a i ≠ b i)
        | 2 => decide (a i < b i)
        | 3 => decide (a i ≤ b i)
        | 4 => decide (b i < a i)
        | _ => decide (b i ≤ a i)))
    ∧ (ready
        { op := 0x111, guard := .elem 1, dDst := true
          tags := fun _ o v =>
            (tagFail 1 v.a fun x => x == elemTy o v.a && x != .freed).or (tagFail 2 v.b (· == elemTy o v.a)) } o s = .go s1 v g →
      exec (.vsel o) s = .next (completed o.hdr (s1.putElems o.d g t fun i =>
        (if v.d.el t.width i = 0 then v.b.el t.width i else v.a.el t.width i, 0))))
    ∧ (ready { op := 0x114, tags := tagsAre Tag.isInt } o s = .go s1 v g → v.a.isV = true → t.isInt = true →
      let n := 256 / t.width
      let els := (List.range n).map (velem t.width v.a.vbits)
      let w := 8 * t.width
      let k := v.b.word.toNat
      (6 ≤ k → exec (.vred o) s = .next (faulted s (fIllegal 2)))
      ∧ (k < 6 → k ≠ 0 → o.mods.mode = 1 → exec (.vred o) s = .next (faulted s (fIllegal 3)))
      ∧ (k = 0 → o.mods.mode = 1 → ∃ (node : Nat → Nat → Nat) (fl : BitVec 8),
        let sum := fun l i => iread t (node l (2 * i)) + iread t (node l (2 * i + 1))
        exec (.vred o) s = .next (completed o.hdr ((s1.orFlags fl).putS o.d (iwide t (node n.log2 0))))
        ∧ (∀ i, node 0 i = v.a.el t.width i)
        ∧ (∀ l i, node (l + 1) i < 2 ^ w ∧ iread t (node (l + 1) i) = max (imin t) (min (imax t) (sum l i)))
        ∧ ∀ b, fl.getLsbD b = true ↔ b = 5 ∧ ∃ l i, l < n.log2 ∧ i < n / 2 ^ (l + 1) ∧ (sum l i < imin t ∨ imax t < sum l i))
      ∧ (o.mods.mode ≠ 1 →
        let gives := fun (z : Nat) => exec (.vred o) s = .next (completed o.hdr ((s1.orFlags 0).putS o.d (iwide t z)))
        (k = 0 → gives (els.sum % 2 ^ w))
        ∧ (k = 1 → ∃ i, i < n ∧ (∀ j, j < n → a i ≤ a j) ∧ gives (v.a.el t.width i))
        ∧ (k = 2 → ∃ i, i < n ∧ (∀ j, j < n → a j ≤ a i) ∧ gives (v.a.el t.width i))
        ∧ (k = 3 → gives (els.foldl (· &&& ·) (2 ^ w - 1))) ∧ (k = 4 → gives (els.foldl (· ||| ·) 0))
        ∧ (k = 5 → gives (els.foldl (· ^^^ ·) 0))))

/-- The lane instructions (06 R124). That what is kept of a freed register is tagged raw is the model's choice (log 21), as is what `vins` pushes to a queue (log 45). `vtrit` (06 R125; the digits are 05 R89's). -/
def Obligations.LaneInstructions : Prop :=
  (
    ∀ (o : Ops) (s s1 : State) (v : Vals) (g : PBits),
      let t := v.a.tag
      let w := t.width
      let n := 256 / w
      let el := velem w v.a.vbits
      let kept := fun (t : Tag) => if t = .freed then .raw else t
      let one := fun i => v.b.pbits.getLsbD (i * w)
      let before := fun i => ((List.range i).filter one).length
      let gives := fun (i : Instr) (z : Nat → Nat) => ∃ x : VBits, exec i s = .next (completed o.hdr (s1.putV o.d g w x (kept t)))
        ∧ ∀ i, i < n → velem w x i = z i
      (ready { op := 0x120, guard := .fixed (o.mods.ty.getD .raw).width } o s = .go s1 v g →
        exec (.vbcast o) s = .next (completed o.hdr (s1.putElems o.d g (o.mods.ty.getD .raw) fun _ =>
          (v.a.word.toNat % 2 ^ (8 * (o.mods.ty.getD .raw).width), 0))))
      ∧ (ready { op := 0x121, guard := .elem 1, tags := fun _ _ v => tagFail 2 v.b fun x => x.isInt && x.width == v.a.tag.width } o s
          = .go s1 v g → gives (.vperm o) fun i => el (velem w v.b.vbits i % n))
      ∧ (ready { op := 0x122, guard := .elem 1 } o s = .go s1 v g → gives (.vslide o) fun i =>
          if 0 ≤ (i : Int) + v.b.word.toInt ∧ (i : Int) + v.b.word.toInt < n then el ((i : Int) + v.b.word.toInt).toNat else 0)
      ∧ (ready { op := 0x123 } o s = .go s1 v g → exec (.vextr o) s = .next (completed o.hdr (s1.putS o.d
          (let e := el (v.b.word.toNat % n)
          if t.isSigned then BitVec.signExtend 64 (BitVec.ofNat (8 * w) e) else BitVec.ofNat 64 e))))
      ∧ (ready { op := 0x124, guard := .elem 0, dDst := true, tags := fun _ _ v => tagFail 0 v.d (· != .freed) } o s = .go s1 v g →
        ∃ x : VBits, exec (.vins o) s = .next (completed o.hdr
            (s1.putV o.d g v.d.tag.width x v.d.tag))
          ∧ ∀ i, i < 256 / v.d.tag.width → velem v.d.tag.width x i =
            if i = v.b.word.toNat % (256 / v.d.tag.width) then v.a.word.toNat % 2 ^ (8 * v.d.tag.width)
            else velem v.d.tag.width v.d.vbits i)
      ∧ (ready { op := 0x125, guard := .elem 1 } o s = .go s1 v g → ∃ x : VBits,
        exec (.vcompress o) s = .next (completed o.hdr (s1.putV o.d g w x (kept t)))
        ∧ (∀ j, j < n → one j = true → velem w x (before j) = el j) ∧ ∀ i, before n ≤ i → i < n → velem w x i = 0)
      ∧ (ready { op := 0x126, guard := .elem 1 } o s = .go s1 v g → gives (.vexpand o) fun i => if one i then el (before i) else 0))
  ∧ (
    ∀ (o : Ops) (s s1 : State) (v : Vals) (g : PBits),
      ready { op := 0x127, guard := .fixed 1, tags := fun _ _ v => tagFail 1 v.a (· == .t5) } o s = .go s1 v g →
      let p := v.b.word.toNat
      let byte := fun i => v.a.vbits.toNat / 2 ^ (8 * ((256 * p + i) / 5)) % 256
      let hit := fun i => i < 256 ∧ g.getLsbD i = true ∧ 243 ≤ byte i
      let trit := fun i => byte i / 3 ^ ((256 * p + i) % 5) % 3
      let good := fun (x : VBits) => ∀ i, i < 256 → velem 1 x i = if 243 ≤ byte i then 0 else if trit i = 2 then 255 else trit i
      (4 < p → exec (.vtrit o) s = .next (faulted s (fIllegal 2)))
      ∧ (p ≤ 4 → (∀ i, ¬hit i) → ∃ x, good x ∧ exec (.vtrit o) s = .next (completed o.hdr (s1.putV o.d g 1 x .i8)))
      ∧ (p ≤ 4 → (∃ i, hit i) → s1.cur.fctl.getLsbD 4 = false → ∃ x, good x
          ∧ exec (.vtrit o) s = .next (completed o.hdr ((s1.orFlags 0x80).putV o.d g 1 x .i8)))
      ∧ ∀ i, p ≤ 4 → hit i → (∀ j, j < i → ¬hit j) → s1.cur.fctl.getLsbD 4 = true →
          exec (.vtrit o) s = .next (faulted s ⟨0x10, BitVec.ofNat 64 ((256 * p + i) / 5), BitVec.ofNat 64 (byte i)⟩))

/-- "An exact v is delivered unchanged" (05 R90): Round undoes Decode, with no flag. What an inexact value gives (05 R90 Table 5.6, R92), with overflow, underflow and the flush of bf16 (R83, R91). That tininess is judged with an unbounded exponent is the model's choice (DEDUCED, log 11). Sample values of the formats (05 R82 to R84). The rounding modes of Table 5.6 and R92, with the integers as the representable values (05 R90). -/
def Obligations.RoundExact : Prop :=
  (
    (
      (
        ∀ (t : Tag) (x : Nat) (neg : Bool) (m : Nat) (e : Int) (block : Bool) (md : RMode),
          t ∈ [.f16, .bf16, .f32, .f64, .e4m3, .e5m2, .mxf6e2, .mxf6e3, .mxf4] → x < 2 ^ (fmtOf t).width →
          decodeF (fmtOf t) x = .fin neg m e → (t = .bf16 → x / 2 ^ 7 % 2 ^ 8 = 0 → x % 2 ^ 7 = 0) →
          roundFin (fmtOf t) block md neg m e = (x, 0))
      ∧ (
        ∀ (t : Tag) (neg : Bool) (m : Nat) (e : Int) (block : Bool) (md : RMode),
          t ∈ [.f16, .bf16, .f32, .f64, .e4m3, .e5m2, .mxf6e2, .mxf6e3, .mxf4] →
          let f := fmtOf t
          let up := fun (a v b x : Nat) => (match md with
            | .rne => decide (a + b < 2 * v) || (2 * v == a + b && x % 2 == 1)
            | .rna => decide (a + b ≤ 2 * v)
            | .rtz => false
            | .rup => !neg
            | .rdn => neg
            | .sr u => decide (u < (v - a) * 2 ^ 16 / (b - a)) : Bool)
          let near : BitVec 8 := if (roundInt md neg m (e - (f.emin - 1))).1.natAbs = 2 ^ (f.fbits + 1) then flagNx else flagNx ||| flagUf
          (∀ (x ma mb : Nat) (ea eb : Int), x < 2 ^ (f.ebits + f.fbits) → decodeF f x = .fin false ma ea →
            decodeF f (x + 1) = .fin false mb eb → (f.flush = true → 2 ^ f.fbits ≤ x) →
            let lo := min e (min ea eb)
            let a := ma * 2 ^ (ea - lo).toNat
            let v := m * 2 ^ (e - lo).toNat
            let b := mb * 2 ^ (eb - lo).toNat
            a < v → v < b →
            roundFin f block md neg m e = (zeroF f neg + (if up a v b x = true then x + 1 else x),
              if x + 1 < 2 ^ f.fbits then flagNx ||| flagUf else if x + 1 = 2 ^ f.fbits then near else flagNx))
          ∧ (f.flush = true → m ≠ 0 → m * 2 ^ (e - min e f.emin).toNat < 2 ^ f.fbits * 2 ^ (f.emin - min e f.emin).toNat →
            ((roundInt md neg m (e - f.emin)).1.natAbs < 2 ^ f.fbits → roundFin f block md neg m e = (zeroF f neg, flagUf ||| flagNx))
            ∧ ((roundInt md neg m (e - f.emin)).1.natAbs = 2 ^ f.fbits → roundFin f block md neg m e = (zeroF f neg + 2 ^ f.fbits, near)))
          ∧ (∀ (ma : Nat) (ea : Int), decodeF f (maxF f false) = .fin false ma ea →
            let lo := min e ea
            let a := ma * 2 ^ (ea - lo).toNat
            let v := m * 2 ^ (e - lo).toNat
            let b := (ma + 1) * 2 ^ (ea - lo).toNat
            let big := if block = true ∨ f.inf = false ∨ md = .rtz ∨ (md = .rup ∧ neg = true) ∨ (md = .rdn ∧ neg = false)
              then maxF f neg else infF f neg
            (a < v → v < b → roundFin f block md neg m e
              = if up a v b (maxF f false) = true then (big, flagOf ||| flagNx) else (maxF f neg, flagNx))
            ∧ (b ≤ v → roundFin f block md neg m e = (big, flagOf ||| flagNx)))
          ∧ (∀ (k d : Nat), m ≠ 0 → (∀ u, md ≠ .sr u) → 0 < d → d < 2 ^ k → e + 2 ≤ max (e + blen m - 1 - f.fbits) f.emin →
            roundF f block md neg m e true = roundF f block md neg (m * 2 ^ k + d) (e - k) false)))
    ∧ (
      (decodeF fmtF16 0x3C00 = .fin false 0x400 (-10) ∧ decodeF fmtBf16 0x3F80 = .fin false 0x80 (-7)
        ∧ decodeF fmtF32 0x3F800000 = .fin false 0x800000 (-23) ∧ decodeF fmtF64 0x3FF0000000000000 = .fin false 0x10000000000000 (-52)
        ∧ decodeF fmtE4m3 0x38 = .fin false 8 (-3) ∧ decodeF fmtE5m2 0x3C = .fin false 4 (-2))
      ∧ (canonF fmtF16 = 0x7E00 ∧ canonF fmtBf16 = 0x7FC0 ∧ canonF fmtF32 = 0x7FC00000 ∧ canonF fmtF64 = 0x7FF8000000000000
        ∧ canonF fmtE4m3 = 0x7F ∧ canonF fmtE5m2 = 0x7E)
      ∧ (decodeF fmtE4m3 0x7E = .fin false 14 5 ∧ maxF fmtE4m3 false = 0x7E)
      ∧ (decodeF fmtE5m2 0x7B = .fin false 7 13 ∧ maxF fmtE5m2 false = 0x7B)
      ∧ (∀ x n, decodeF fmtE4m3 x ≠ .inf n) ∧ decodeF fmtE4m3 0xFF = .nan false
      ∧ decodeF fmtBf16 0x8001 = .fin true 0 0 ∧ decodeF fmtF16 0x7C01 = .nan true ∧ decodeF fmtF16 0xFC00 = .inf true))
  ∧ (
    ∀ (md : RMode) (neg : Bool) (m : Nat) (e : Int),
      let sgn : Int := if neg then -1 else 1
      let q := m / 2 ^ (-e).toNat
      let r := m % 2 ^ (-e).toNat
      let one := 2 ^ (-e).toNat
      (0 ≤ e → roundInt md neg m e = (sgn * (m * 2 ^ e.toNat : Nat), false))
      ∧ (e < 0 → r = 0 → (∀ u, md ≠ .sr u) → roundInt md neg m e = (sgn * q, false))
      ∧ (e < 0 → r = 0 → ∀ u, roundInt (.sr u) neg m e = (sgn * q, false))
      ∧ (e < 0 → r ≠ 0 →
        (2 * r < one → roundInt .rne neg m e = (sgn * q, true) ∧ roundInt .rna neg m e = (sgn * q, true))
        ∧ (one < 2 * r → roundInt .rne neg m e = (sgn * (q + 1), true) ∧ roundInt .rna neg m e = (sgn * (q + 1), true))
        ∧ (2 * r = one → roundInt .rne neg m e = (sgn * (q + q % 2), true) ∧ roundInt .rna neg m e = (sgn * (q + 1), true))
        ∧ roundInt .rtz neg m e = (sgn * q, true)
        ∧ roundInt .rup neg m e = (sgn * (if neg then q else q + 1), true)
        ∧ roundInt .rdn neg m e = (sgn * (if neg then q + 1 else q), true)
        ∧ ∀ u, roundInt (.sr u) neg m e = (sgn * (if u < r * 2 ^ 16 / one then q + 1 else q), true)))

/-- Conversion of one element (05 R98, Table 5.11). -/
def Obligations.ElementConversion : Prop :=
  ∀ (s t : Tag) (md : RMode) (x : Nat), s.isScalarFormat = true → t.isScalarFormat = true →
    let w := 8 * t.width
    (s.isInt = false → ∀ sg, decodeF (fmtOf s) x = .nan sg →
      convert s t md x = if t.isInt then (0, 0x01) else (canonF (fmtOf t), if sg then 0x01 else 0))
    ∧ (s.isInt = false → ∀ n, decodeF (fmtOf s) x = .inf n →
      convert s t md x = if t.isInt then (((if n then imin t else imax t) % 2 ^ w).toNat, 0x01)
        else if t = .e4m3 then (0x7F, 0x01) else (infF (fmtOf t) n, 0))
    ∧ (s.isInt = false → ∀ n m e, decodeF (fmtOf s) x = .fin n m e →
      (t.isInt = false → convert s t md x = roundFin (fmtOf t) false md n m e)
      ∧ (t.isInt = true →
        let r := roundInt md n m e
        (r.1 < imin t → convert s t md x = ((imin t % 2 ^ w).toNat, 0x01))
        ∧ (imax t < r.1 → convert s t md x = ((imax t % 2 ^ w).toNat, 0x01))
        ∧ (imin t ≤ r.1 → r.1 ≤ imax t → convert s t md x = ((r.1 % 2 ^ w).toNat, if r.2 then 0x10 else 0))))
    ∧ (s.isInt = true → t.isInt = true → convert s t md x = narrow t true (iread s x))
    ∧ (s.isInt = true → t.isInt = false →
      convert s t md x = roundFin (fmtOf t) false md (decide (iread s x < 0)) (iread s x).natAbs 0)

/-- The conversion instructions (05 R99 to R101, R104, R105) over `convert`; draws are R92's. That `vpack` faults on its part before it looks at `fctl.rm` is the model's choice (log 22). -/
def Obligations.ConversionInstructions : Prop :=
  ∀ (o : Ops) (s s1 : State) (v : Vals) (g : PBits),
    let t := o.mods.ty.getD .raw
    let src := v.a.tag
    let p := v.b.word.toNat
    (ready
        { op := 0x140, guard := .elem 1
          tags := fun _ _ v => tagFail 1 v.a fun x => x.isScalarFormat && x != t && x.width == t.width } o s = .go s1 v g →
      (s1.badRm o = false → exec (.vcvt o) s = .next (completed o.hdr (s1.putElems o.d g t fun i =>
        convert src t (s1.rmode o) (v.a.el t.width i))))
      ∧ (o.mods.mode = 0 → 5 ≤ s1.cur.fctl.toNat % 8 → exec (.vcvt o) s = .next (faulted s ⟨0x03, 0xFFFF, 0⟩)))
    ∧ (ready
        { op := 0x142, guard := .elem 1
          tags := fun _ _ v => tagFail 1 v.a fun x => widens x t } o s = .go s1 v g →
      (p < t.width / src.width → exec (.vunpk o) s = .next (completed o.hdr (s1.putElems o.d g t fun i =>
        convert src t .rne (v.a.el src.width (p * (256 / t.width) + i)))))
      ∧ (t.width / src.width ≤ p → exec (.vunpk o) s = .next (faulted s (fIllegal 2))))
    ∧ (ready { op := 0x144, guard := .fixed t.width } o s = .go s1 v g →
      exec (.vtag o) s = .next (completed o.hdr (s1.putV o.d g t.width v.a.vbits t)))
    ∧ (ready
        { op := 0x143, guard := .fixed 4, vwrites := fun _ => [o.d.num + 1, o.d.num + 2, o.d.num + 3]
          tags := fun _ _ v => (tagFail 1 v.a fun x => x.isMx || x.isLb).or (tagFail 2 v.b (· == .raw)) } o s = .go s1 v g →
      ∃ f : Nat → Nat × BitVec 8,
        exec (.vscale o) s = .next (completed o.hdr ([0, 1, 2, 3].foldl
          (fun s r => s.putElems (.v (Fin.ofNat 64 (o.d.num + r)) false) g .f32 fun i => f (64 * r + i)) s1))
        ∧ ∀ k, k < 256 →
          let el := v.a.vbits.toNat / 2 ^ (8 * blockBytes src * (k / 32) + blockBits src * (k % 32)) % 2 ^ blockBits src
          let value := if src.isMx then decodeMx src (velem 1 v.b.vbits (k / 32)) el
            else decodeLb (lbK src) (velem 4 v.b.vbits (k / 32)) el (k % 32)
          (src.isMx = true → velem 1 v.b.vbits (k / 32) = 0xFF → f k = (0x7FC00000, 0))
          ∧ (src.isMx = false → velem 4 v.b.vbits (k / 32) % 256 = 0xFF → f k = (0x7FC00000, 0))
          ∧ (∀ sg, value = .nan sg → f k = (0x7FC00000, 0))
          ∧ (∀ n, value = .inf n → f k = (infF fmtF32 n, 0))
          ∧ ∀ n m e, value = .fin n m e → f k = roundFin fmtF32 false .rne n m e)
    ∧ (t.isMx = false → t.isLb = false → ready
        { op := 0x141, guard := .elem 1
          tags := fun _ _ v => tagFail 1 v.a fun x => x.isScalarFormat &&
            (x.width == 2 * t.width || x.width == 4 * t.width || x.width == 8 * t.width) } o s = .go s1 v g →
      let n := 256 / src.width
      let rank := fun i => ((List.range n).filter fun j => decide (j < i) && active g t.width (p * n + j)).length
      let md := fun i => if o.mods.mode = 6 then .sr (draw (drawN (rank i) s1.cur.srseed).2).1 else s1.rmode o
      (src.width / t.width ≤ p → exec (.vpack o) s = .next (faulted s (fIllegal 2)))
      ∧ (p < src.width / t.width → s1.badRm o = false → ∃ u x,
        exec (.vpack o) s = .next (completed o.hdr (u.putV o.d g t.width x t))
        ∧ (∀ i, i < n → active g t.width (p * n + i) = true →
            velem t.width x (p * n + i) = (convert src t (md i) (v.a.el src.width i)).1 % 2 ^ (8 * t.width))
        ∧ (∀ k, k < 256 / t.width → (k < p * n ∨ p * n + n ≤ k) → velem t.width x k = velem t.width (s1.oldV o.d) k)
        ∧ (∀ b, (u.cur.fstat.getLsbD b = true ↔ s1.cur.fstat.getLsbD b = true ∨ ∃ i, i < n
            ∧ active g t.width (p * n + i) = true ∧ (convert src t (md i) (v.a.el src.width i)).2.getLsbD b = true))
        ∧ u.cur.srseed = (if o.mods.mode = 6 then (drawN (rank n) s1.cur.srseed).2 else s1.cur.srseed)
        ∧ SameOutside s1 u ∧ SameCores s1 u ∧ SameStores s1 u))

/-- Block encoding (05 R102, R103). -/
def Obligations.BlockEncoding : Prop :=
  (∀ (o : Ops) (s s1 : State) (v : Vals) (g : PBits), let t := o.mods.ty.getD .raw
    (t.isMx = true ∨ t.isLb = true) → ready
        { op := 0x141, guard := .fixed 1
          vreads := fun _ => [(1, o.a.num + 1), (1, o.a.num + 2), (1, o.a.num + 3)], vwrites := fun _ => [o.d.num + 1]
          tags := fun s _ _ =>
            ([o.a.num, o.a.num + 1, o.a.num + 2, o.a.num + 3].find? fun n => (s.cur.vreg n).tag != .f32).map
              fun n => (1, (s.cur.vreg n).tag) } o s = .go s1 v g → s1.badRm o = false →
    let value := fun q => decodeF fmtF32 (velem 4 (s1.cur.vreg (o.a.num + q / 64)).bits (q % 64))
    let nb := blockBytes t
    let hit := fun j => ∃ i, i < nb ∧ g.getLsbD (nb * j + i) = true
    let ns := if t.isMx then 1 else 4
    ∃ (code : Nat → BlockCode) (x y : VBits) (fl : BitVec 8) (seed : Word),
      exec (.vpack o) s = .next (completed o.hdr ((s1.orFlags fl).modCur fun z =>
        { ((z.setV o.d.num x t).setV (o.d.num + 1) y .raw) with srseed := seed }))
      ∧ (∀ j b, j < 8 → b < nb → velem 1 x (nb * j + b) =
          if g.getLsbD (nb * j + b) then packBlock (blockBits t) (code j).els / 2 ^ (8 * b) % 256
          else velem 1 (s1.oldV o.d) (nb * j + b))
      ∧ (∀ b, 8 * nb ≤ b → b < 256 → g.getLsbD 0 = true → velem 1 x b = 0)
      ∧ (∀ j, j < 8 → hit j → velem ns y j = (code j).scale % 2 ^ (8 * ns))
      ∧ (∀ j, j < 8 → ¬hit j → velem ns y j = velem ns (s1.oldV (.v (Fin.ofNat 64 (o.d.num + 1)) false)) j)
      ∧ (∀ b, 8 * ns ≤ b → b < 256 → g.getLsbD 0 = true → velem 1 y b = 0)
      ∧ (o.mods.mode ≠ 6 → seed = s1.cur.srseed
        ∧ ∀ j, j < 8 → hit j → code j =
            let vals := (List.range 32).map fun q => (value (32 * j + q), s1.rmode o)
            if t.isMx then encodeMx t vals else encodeLb t vals)
      ∧ (o.mods.mode = 6 →
        let finite := fun j => ∀ q, q < 32 → ∃ n m e, value (32 * j + q) = .fin n m e
        ∃ rank : Nat → Nat, rank 0 = 0
          ∧ (∀ j, j < 8 → (hit j ∧ finite j → rank (j + 1) = rank j + 1) ∧ (¬(hit j ∧ finite j) → rank (j + 1) = rank j))
          ∧ seed = (drawN (32 * rank 8) s1.cur.srseed).2
          ∧ ∀ j, j < 8 → hit j → code j =
            let vals := (List.range 32).map fun q =>
              (value (32 * j + q), RMode.sr (draw (drawN (32 * rank j + q) s1.cur.srseed).2).1)
            if t.isMx then encodeMx t vals else encodeLb t vals)
      ∧ ∀ b, (fl.getLsbD b = true ↔ ∃ j, j < 8 ∧ hit j ∧ (code j).flags.getLsbD b = true))
  ∧ (∀ (t : Tag) (vals : List (FV × RMode)), (∃ p ∈ vals, ∀ n m e, p.1 ≠ .fin n m e) →
      encodeMx t vals = ⟨List.replicate 32 0, 0xFF, 0x01⟩ ∧ encodeLb t vals = ⟨List.replicate 32 0, 0xFF, 0x01⟩)
  ∧ (∀ (t : Tag) (vals : List (FV × RMode)), (∀ p ∈ vals, ∃ n e, p.1 = .fin n 0 e) →
      (encodeMx t vals).scale = 0 ∧ encodeLb t vals = ⟨List.replicate 32 0, 0, 0⟩)
  ∧ ∀ (t : Tag) (vals : List (FV × RMode)) (l : Int), (∀ p ∈ vals, ∃ n m e, p.1 = .fin n m e) →
      (∃ p ∈ vals, ∃ n m e, p.1 = .fin n m e ∧ 2 ^ m.log2 ≤ m ∧ e + m.log2 = l) →
      (∀ p ∈ vals, ∀ n m e, p.1 = .fin n m e → m ≠ 0 → e + m.log2 ≤ l) →
      let X := max (-127) (min 127 (l - mxEmax t))
      ((encodeMx t vals).scale : Int) = X + 127
      ∧ (t ≠ .mxi8 → ∀ (q : Nat) (p : FV × RMode) n m e, vals[q]? = some p → p.1 = .fin n m e →
          (encodeMx t vals).els[q]? = some (roundFin (fmtOf t) true p.2 n m (e - X)).1)
      ∧ (∀ (q : Nat) (p : FV × RMode) n m e, vals[q]? = some p → p.1 = .fin n m e →
          (encodeMx .mxi8 vals).els[q]? = some
            ((max (-128) (min 127 (roundInt p.2 n m (e + 6 - max (-127) (min 127 l))).1)) % 2 ^ 8).toNat)
      ∧ (t ≠ .mxi8 → ∀ b, (encodeMx t vals).flags.getLsbD b = true ↔ b ≠ 3 ∧ ∃ p ∈ vals, ∃ n m e, p.1 = .fin n m e
          ∧ (roundFin (fmtOf t) true p.2 n m (e - X)).2.getLsbD b = true)
      ∧ (let whole := fun (p : FV × RMode) (n : Bool) (m : Nat) (e : Int) =>
            roundInt p.2 n m (e + 6 - max (-127) (min 127 l))
          ∀ b, (encodeMx .mxi8 vals).flags.getLsbD b = true ↔ ∃ p ∈ vals, ∃ n m e, p.1 = .fin n m e
            ∧ (b = 4 ∧ (whole p n m e).2 = true ∨ b = 5 ∧ ((whole p n m e).1 < -128 ∨ 127 < (whole p n m e).1)))
      ∧ (vals.length = 32 →
        let k := lbK t
        let top : Int := 2 ^ k - 1
        let E := max 0 (min 254 (l + 128))
        let mag := fun (p : FV × RMode) (mu : Nat) => match p.1 with
          | .fin _ m e => (roundInt p.2 false m (e + 127 + k + mu - E)).1
          | _ => 0
        let z := encodeLb t vals
        ((z.scale % 256 : Nat) : Int) = E ∧ z.scale < 2 ^ 24
        ∧ ∀ (j : Nat) (p q : FV × RMode), vals[2 * j]? = some p → vals[2 * j + 1]? = some q →
          let mu := z.scale / 2 ^ (8 + j) % 2
          let gives := fun (i : Nat) (p : FV × RMode) => ∀ n m e, p.1 = .fin n m e →
            let M := (min top (mag p mu)).toNat
            z.els[i]? = some (M + if M = 0 ∨ n = false then 0 else 2 ^ k)
          (mu = 1 ↔ mag p 1 ≤ top ∧ mag q 1 ≤ top) ∧ gives (2 * j) p ∧ gives (2 * j + 1) q)
      ∧ (vals.length = 32 →
        let k := lbK t
        let E := max 0 (min 254 (l + 128))
        let z := encodeLb t vals
        ∀ b, z.flags.getLsbD b = true ↔ ∃ (i : Nat) (p : FV × RMode) (n : Bool) (m : Nat) (e : Int),
          vals[i]? = some p ∧ p.1 = .fin n m e
          ∧ let M := roundInt p.2 false m (e + 127 + k + (z.scale / 2 ^ (8 + i / 2) % 2 : Nat) - E)
            b = 4 ∧ M.2 = true ∨ (b = 2 ∨ b = 4) ∧ 2 ^ k - 1 < M.1)

/-- The vector float instructions over the element functions of Table 6.6 (06 R127 to R130, R132), which `FloatSums`, `FloatCorners` and `FloatClasses` describe (the rounding of 2^x and log2 x only at exact values). -/
def Obligations.VectorFloat : Prop :=
  ∀ (o : Ops) (s s1 : State) (v : Vals) (g : PBits) (op : Nat),
    let t := o.mods.ty.getD v.a.tag
    let m := fmtOf t
    let md := s1.rmode o
    let a := fun i => v.a.el t.width i
    let b := fun i => v.b.el t.width i
    let x := fun i => decodeF m (a i)
    let y := fun i => decodeF m (b i)
    let gives := fun (i : Instr) (t : Tag) (z : Nat → Nat × BitVec 8) =>
      exec i s = .next (completed o.hdr (s1.putElems o.d g t z))
    (ready { op := op, guard := .elem 1, tags := tagsAre Tag.isFloat } o s = .go s1 v g →
      (s1.badRm o = false →
        (op = 0x180 → gives (.vfadd o) t fun i => fAdd m md (x i) (y i))
        ∧ (op = 0x181 → gives (.vfsub o) t fun i => fAdd m md (x i) (y i).negate)
        ∧ (op = 0x182 → gives (.vfmul o) t fun i => fMul m md (x i) (y i))
        ∧ (op = 0x188 → gives (.vfdiv o) t fun i => fDiv m md (x i) (y i))
        ∧ (op = 0x189 → gives (.vfsqrt o) t fun i => fSqrt m md (x i))
        ∧ (op = 0x18A → gives (.vfrcp o) t fun i => fRcp m md (x i))
        ∧ (op = 0x18B → gives (.vfrsq o) t fun i => fRsq m md (x i))
        ∧ (op = 0x18C → gives (.vfexp2 o) t fun i => fExp2 m md (x i))
        ∧ (op = 0x18D → gives (.vflog2 o) t fun i => fLog2 m md (x i)))
      ∧ (s1.badRm o = true →
        let stops := fun i => exec i s = .next (faulted s ⟨0x03, 0xFFFF, 0⟩)
        (op = 0x180 → stops (.vfadd o)) ∧ (op = 0x181 → stops (.vfsub o)) ∧ (op = 0x182 → stops (.vfmul o))
        ∧ (op = 0x188 → stops (.vfdiv o)) ∧ (op = 0x189 → stops (.vfsqrt o)) ∧ (op = 0x18A → stops (.vfrcp o))
        ∧ (op = 0x18B → stops (.vfrsq o)) ∧ (op = 0x18C → stops (.vfexp2 o)) ∧ (op = 0x18D → stops (.vflog2 o)))
      ∧ (op = 0x184 → gives (.vfmin o) t fun i => fMinMax m false (a i) (b i))
      ∧ (op = 0x185 → gives (.vfmax o) t fun i => fMinMax m true (a i) (b i))
      ∧ (op = 0x186 → gives (.vfabs o) t fun i => (a i % 2 ^ (m.width - 1), 0))
      ∧ (op = 0x187 → gives (.vfneg o) t fun i =>
          (a i % 2 ^ (m.width - 1) + (1 - a i / 2 ^ (m.width - 1) % 2) * 2 ^ (m.width - 1), 0))
      ∧ (op = 0x190 → gives (.vfclass o) (if t = .f64 then .n64 else if t = .f32 then .n32 else .n16) fun i =>
          (fClass m (a i), 0)))
    ∧ (ready { op := 0x183, guard := .elem 1, dDst := true, tags := tagsAre Tag.isFloat } o s = .go s1 v g →
      (s1.badRm o = false → gives (.vffma o) t fun i => fFma m md (x i) (y i) (decodeF m (v.d.el t.width i)))
      ∧ (s1.badRm o = true → exec (.vffma o) s = .next (faulted s ⟨0x03, 0xFFFF, 0⟩)))

/-- "The exact mathematical result is rounded once" (06 R127); values are compared as integers over a common exponent. Rounding in a mode that draws nothing does not depend on where between m and m + 1 units the value lies, once m has two bits more than the format keeps. -/
def Obligations.FloatSums : Prop :=
  ∀ (f : FFmt) (md : RMode) (na nb nd : Bool) (ma mb md' : Nat) (ea eb ed : Int),
    let isSum := fun (na : Bool) (ma : Nat) (ea : Int) (nb : Bool) (mb : Nat) (eb : Int) (n : Bool) (m : Nat) (e : Int) =>
      (min ea eb ≤ e ∨ m = 0)
      ∧ FV.scaled n m e (min ea eb) = FV.scaled na ma ea (min ea eb) + FV.scaled nb mb eb (min ea eb)
      ∧ (m = 0 → n = if ma = 0 ∧ mb = 0 ∧ na = nb then na else decide (md = .rdn))
    (∃ n m e, fAdd f md (.fin na ma ea) (.fin nb mb eb) = roundFin f false md n m e
      ∧ isSum na ma ea nb mb eb n m e)
    ∧ fMul f md (.fin na ma ea) (.fin nb mb eb) = roundFin f false md (na != nb) (ma * mb) (ea + eb)
    ∧ (∃ n m e, fFma f md (.fin na ma ea) (.fin nb mb eb) (.fin nd md' ed) = roundFin f false md n m e
      ∧ isSum (na != nb) (ma * mb) (ea + eb) nd md' ed n m e)
    ∧ let cut := fun (r : Nat × BitVec 8) (n : Bool) (lies : Nat → Int → Prop) (exact : Nat → Int → Prop) =>
        ∃ m e, 2 ^ (f.fbits + 2) ≤ m ∧ lies m e ∧ (exact m e → r = roundFin f false md n m e)
          ∧ (¬exact m e → r = roundF f false md n m e true)
      (ma ≠ 0 → mb ≠ 0 →
        cut (fDiv f md (.fin na ma ea) (.fin nb mb eb)) (na != nb)
          (fun m e => e ≤ ea - eb ∧ m * mb ≤ ma * 2 ^ (ea - eb - e).toNat ∧ ma * 2 ^ (ea - eb - e).toNat < (m + 1) * mb)
          (fun m e => m * mb = ma * 2 ^ (ea - eb - e).toNat))
      ∧ (ma ≠ 0 →
        cut (fRcp f md (.fin na ma ea)) na
          (fun m e => e ≤ -ea ∧ m * ma ≤ 2 ^ (-ea - e).toNat ∧ 2 ^ (-ea - e).toNat < (m + 1) * ma)
          (fun m e => m * ma = 2 ^ (-ea - e).toNat)
        ∧ cut (fSqrt f md (.fin false ma ea)) false
          (fun m e => 2 * e ≤ ea ∧ m ^ 2 ≤ ma * 2 ^ (ea - 2 * e).toNat ∧ ma * 2 ^ (ea - 2 * e).toNat < (m + 1) ^ 2)
          (fun m e => m ^ 2 = ma * 2 ^ (ea - 2 * e).toNat)
        ∧ cut (fRsq f md (.fin false ma ea)) false
          (fun m e => 2 * e ≤ -ea ∧ m ^ 2 * ma ≤ 2 ^ (-ea - 2 * e).toNat ∧ 2 ^ (-ea - 2 * e).toNat < (m + 1) ^ 2 * ma)
          (fun m e => m ^ 2 * ma = 2 ^ (-ea - 2 * e).toNat))
      ∧ (∀ (n : Bool) (m : Nat) (e : Int) (i j : Nat), (∀ u, md ≠ .sr u) → 2 ^ (f.fbits + 2) ≤ m → 0 < i → i < 2 ^ j →
        roundFin f false md n (m * 2 ^ j + i) (e - j) = roundF f false md n m e true)
      ∧ ∀ n : Nat, n ≠ 0 → n < 2 ^ 19 →
        fExp2 f md (.fin false n 0) = roundFin f false md false 1 n ∧ fExp2 f md (.fin true n 0) = roundFin f false md false 1 (-n)

/-- The special cases of Table 6.6 (06 R128) and the NaN rule (05 R84). -/
def Obligations.FloatCorners : Prop :=
  ∀ (f : FFmt) (md : RMode) (a b d : FV) (p q : Bool) (m : Nat) (e e1 : Int), m ≠ 0 →
    let nan := fun (xs : List FV) => (canonF f, if FV.nan true ∈ xs then (0x01 : BitVec 8) else 0)
    let bad : Nat × BitVec 8 := (canonF f, 0x01)
    (a.isNan = true ∨ b.isNan = true →
      fAdd f md a b = nan [a, b] ∧ fMul f md a b = nan [a, b] ∧ fDiv f md a b = nan [a, b] ∧ fFma f md a b d = nan [a, b, d])
    ∧ (a.isNan = true →
      fSqrt f md a = nan [a] ∧ fRcp f md a = nan [a] ∧ fRsq f md a = nan [a] ∧ fExp2 f md a = nan [a] ∧ fLog2 f md a = nan [a])
    ∧ fAdd f md (.inf p) (.inf (!p)) = bad ∧ fAdd f md (.inf p) (.inf p) = (infF f p, 0)
    ∧ fAdd f md (.inf p) (.fin q m e) = (infF f p, 0)
    ∧ fMul f md (.fin p 0 e) (.inf q) = bad ∧ fMul f md (.inf q) (.fin p 0 e) = bad
    ∧ fMul f md (.fin p m e) (.inf q) = (infF f (p != q), 0)
    ∧ fFma f md (.fin p 0 e) (.inf q) d = bad ∧ fFma f md (.inf q) (.fin p 0 e) d = bad
    ∧ fFma f md (.fin p m e) (.inf q) (.inf (p == q)) = bad ∧ fFma f md (.inf q) (.fin p m e) (.inf (p == q)) = bad
    ∧ fFma f md (.inf p) (.inf q) (.inf (p == q)) = bad
    ∧ (∀ (r k : Bool) (n : Nat) (e2 : Int), let z : FV := .fin k n e2
      fFma f md (.fin p m e) (.inf q) z = (infF f (p != q), 0) ∧ fFma f md (.inf q) (.fin p m e) z = (infF f (q != p), 0)
      ∧ fFma f md (.inf p) (.inf q) z = (infF f (p != q), 0)
      ∧ fFma f md (.fin p m e) (.inf q) (.inf (p != q)) = (infF f (p != q), 0)
      ∧ fFma f md (.inf q) (.fin p m e) (.inf (q != p)) = (infF f (q != p), 0)
      ∧ fFma f md (.inf p) (.inf q) (.inf (p != q)) = (infF f (p != q), 0)
      ∧ fFma f md (.fin p m e) z (.inf r) = (infF f r, 0) ∧ fFma f md z (.fin p m e) (.inf r) = (infF f r, 0))
    ∧ (d.isNan = true → a.isNan = false → b.isNan = false →
      (∀ (n k : Bool) (e2 : Int), ¬(a = .inf n ∧ b = .fin k 0 e2) ∧ ¬(a = .fin k 0 e2 ∧ b = .inf n)) → fFma f md a b d = nan [d])
    ∧ fDiv f md (.fin p m e) (.fin q 0 e1) = (infF f (p != q), 0x02)
    ∧ fDiv f md (.fin p 0 e) (.fin q 0 e1) = bad ∧ fDiv f md (.inf p) (.inf q) = bad
    ∧ fDiv f md (.fin p m e) (.inf q) = (zeroF f (p != q), 0) ∧ fDiv f md (.inf p) (.fin q m e) = (infF f (p != q), 0)
    ∧ fSqrt f md (.fin p 0 e) = (zeroF f p, 0) ∧ fSqrt f md (.fin true m e) = bad ∧ fSqrt f md (.inf true) = bad
    ∧ fRcp f md (.fin p 0 e) = (infF f p, 0x02) ∧ fRcp f md (.inf p) = (zeroF f p, 0)
    ∧ fRsq f md (.fin p 0 e) = (infF f p, 0x02) ∧ fRsq f md (.inf false) = (zeroF f false, 0)
    ∧ fRsq f md (.fin true m e) = bad ∧ fRsq f md (.inf true) = bad
    ∧ fExp2 f md (.inf true) = (zeroF f false, 0) ∧ fExp2 f md (.inf false) = (infF f false, 0)
    ∧ fExp2 f md (.fin p 0 e) = roundFin f false md false 1 0
    ∧ fLog2 f md (.fin p 0 e) = (infF f true, 0x02) ∧ fLog2 f md (.inf false) = (infF f false, 0)
    ∧ fLog2 f md (.fin true m e) = bad ∧ fLog2 f md (.inf true) = bad ∧ fLog2 f md (.fin false 1 0) = (zeroF f false, 0)
    ∧ (∀ k : Nat, fLog2 f md (.fin false (2 ^ k) e) =
        roundFin f false md (decide (e + k < 0)) (e + k).natAbs 0)

/-- Minimum and maximum (06 R129), comparison (R131) and class (R132). -/
def Obligations.FloatClasses : Prop :=
  (∀ (f : FFmt) (w : Bool) (x y : Nat),
    let z := fun (x : Nat) =>
      if f.flush = true ∧ x / 2 ^ f.fbits % 2 ^ f.ebits = 0 then x / 2 ^ (f.ebits + f.fbits) % 2 * 2 ^ (f.ebits + f.fbits) else x
    let a := decodeF f x
    let b := decodeF f y
    let nv : BitVec 8 := if a = .nan true ∨ b = .nan true then 0x01 else 0
    (a.isNan = true → b.isNan = true → fMinMax f w x y = (canonF f, nv))
    ∧ (a.isNan = true → b.isNan = false → fMinMax f w x y = (z y, nv))
    ∧ (a.isNan = false → b.isNan = true → fMinMax f w x y = (z x, nv))
    ∧ (a.isNan = false → b.isNan = false →
      (fCompare a b = .lt → fMinMax f w x y = (z (if w then y else x), 0))
      ∧ (fCompare a b = .gt → fMinMax f w x y = (z (if w then x else y), 0))
      ∧ (∀ e e1, a = .fin true 0 e → b = .fin false 0 e1 → fMinMax f w x y = (z (if w then y else x), 0))
      ∧ (∀ e e1, a = .fin false 0 e → b = .fin true 0 e1 → fMinMax f w x y = (z (if w then x else y), 0))
      ∧ (x = y → fMinMax f w x y = (z x, 0))))
  ∧ (∀ (n k : Bool) (m l : Nat) (e d : Int),
    let u := FV.scaled n m e (min e d)
    let v := FV.scaled k l d (min e d)
    (fCompare (.fin n m e) (.fin k l d) = .lt ↔ u < v) ∧ (fCompare (.fin n m e) (.fin k l d) = .eq ↔ u = v)
    ∧ fCompare (.inf true) (.fin k l d) = .lt ∧ fCompare (.inf false) (.fin k l d) = .gt
    ∧ fCompare (.fin k l d) (.inf true) = .gt ∧ fCompare (.fin k l d) (.inf false) = .lt
    ∧ fCompare (.inf n) (.inf n) = .eq ∧ fCompare (.inf true) (.inf false) = .lt ∧ fCompare (.inf false) (.inf true) = .gt)
  ∧ (∀ a b : FV, a.isNan = false → b.isNan = false → ∀ c, c < 8 →
    condF c a b = (match c with
      | 0 => fCompare a b == .eq
      | 1 => fCompare a b != .eq
      | 2 => fCompare a b == .lt
      | 3 => fCompare a b != .gt
      | 4 => fCompare a b == .gt
      | 5 => fCompare a b != .lt
      | 6 => false
      | _ => true, 0))
  ∧ (∀ a b : FV, a.isNan = true ∨ b.isNan = true → ∀ c, c < 8 →
    condF c a b = (c == 1 || c == 6, if (2 ≤ c ∧ c ≤ 5) ∨ a = .nan true ∨ b = .nan true then 0x01 else 0))
  ∧ ∀ (t : Tag) (x : Nat), t.isFloat = true → x < 2 ^ (8 * t.width) →
    let k := fClass (fmtOf t) x
    (∃ i, i < 10 ∧ k = 2 ^ i)
    ∧ (k = 0x100 ↔ decodeF (fmtOf t) x = .nan true) ∧ (k = 0x200 ↔ decodeF (fmtOf t) x = .nan false)
    ∧ (k = 0x80 ↔ decodeF (fmtOf t) x = .inf false) ∧ (k = 1 ↔ decodeF (fmtOf t) x = .inf true)
    ∧ (t ≠ .bf16 → (k = 0x10 ↔ ∃ e, decodeF (fmtOf t) x = .fin false 0 e) ∧ (k = 8 ↔ ∃ e, decodeF (fmtOf t) x = .fin true 0 e))

/-- `vfcmp` (06 R131), `vfred` and `vfred.seq` (R133). That a mode with op 1 or 2 names field 3 is the model's choice (log 22). -/
def Obligations.FloatCompareReduce : Prop :=
  (∀ (o : Ops) (s s1 : State) (v : Vals) (g : PBits),
    let t := o.mods.ty.getD v.a.tag
    let m := fmtOf t
    let k := v.b.word.toNat
    let n := 256 / t.width
    let els := (List.range n).map (velem t.width v.a.vbits)
    let node := fun x y => match k with
      | 0 => fAdd m (s1.rmode o) (decodeF m x) (decodeF m y)
      | 1 => fMinMax m false x y
      | _ => fMinMax m true x y
    let ends := fun (i : Instr) (r : Nat × BitVec 8) =>
      exec i s = .next (completed o.hdr ((s1.orFlags r.2).putS o.d (BitVec.ofNat 64 r.1)))
    let stops := fun (i : Instr) =>
      (3 ≤ k → exec i s = .next (faulted s (fIllegal 2)))
      ∧ (k < 3 → k ≠ 0 → o.mods.mode ≠ 0 → exec i s = .next (faulted s (fIllegal 3)))
      ∧ (k = 0 → s1.badRm o = true → exec i s = .next (faulted s ⟨0x03, 0xFFFF, 0⟩))
    let runs := k < 3 ∧ (k ≠ 0 → o.mods.mode = 0) ∧ (k = 0 → s1.badRm o = false)
    (ready { op := 0x18E, tags := tagsAre Tag.isFloat } o s = .go s1 v g → t.isFloat = true → ∃ (p : PBits) (fl : BitVec 8),
      exec (.vfcmp o) s = .next (completed o.hdr ((s1.orFlags fl).putP o.d p))
      ∧ (∀ j, j < 256 → p.getLsbD j = (condF o.mods.mode.val (decodeF m (v.a.el t.width (j / t.width)))
          (decodeF m (v.b.el t.width (j / t.width)))).1)
      ∧ ∀ b, (fl.getLsbD b = true ↔ ∃ i, i < n ∧
          (condF o.mods.mode.val (decodeF m (v.a.el t.width i)) (decodeF m (v.b.el t.width i))).2.getLsbD b = true))
    ∧ (ready { op := 0x18F, tags := tagsAre Tag.isFloat } o s = .go s1 v g → stops (.vfred o)
      ∧ (runs → ends (.vfred o) (treeReduce node n.log2 els 0)))
    ∧ (ready { op := 0x191, tags := tagsAre Tag.isFloat } o s = .go s1 v g → stops (.vfredSeq o)
      ∧ (runs → ends (.vfredSeq o) (seqReduce node els))))
  ∧ (∀ f x y xs fl, treeReduce f 1 [x, y] fl = ((f x y).1, fl ||| (f x y).2)
    ∧ seqReduce f (x :: y :: xs) = ((seqReduce f ((f x y).1 :: xs)).1, (f x y).2 ||| (seqReduce f ((f x y).1 :: xs)).2))
  ∧ ∀ (f : Nat → Nat → Nat × BitVec 8) (k : Nat) (xs ys : List Nat) (fl : BitVec 8), xs.length = 2 ^ k → ys.length = 2 ^ k →
    (treeReduce f (k + 1) (xs ++ ys) fl).1 = (f (treeReduce f k xs 0).1 (treeReduce f k ys 0).1).1

/-- Issue of the matrix operations (07 R137 to R157): the operation queued, with its tag at issue. That Capability-refused names the slot in its detail, and that a matrix operation waits while an acquire of its firing is outstanding, are the model's choices (log 23). -/
def Obligations.MatrixIssue : Prop :=
  ∀ (o : Ops) (s s1 : State) (v : Vals) (g : PBits),
    let c := s1.curC
    let d := o.d.num
    let a := o.a.num
    let b := o.b.num
    let mine := fun x => x < 16 → (c.bank x).claim = s1.curF.holder
    let runs := fun (i : Instr) (op : MatKind) (code : Nat) (tag : Tag) =>
      if c.mq.length < 16 ∧ c.heldNamed op = false ∧ s1.acqPending = false then
        exec i s = .next (completed o.hdr { s1.modCurC (fun c => c.enqueue
          { id := s1.fresh, fir := s1.curF.id, op := op, opcode := code, wtag := tag, strict := s1.cur.fctl.getLsbD 4 }) with
            fresh := s1.fresh + 1 })
      else exec i s = .next s
    let refuses := fun (i : Instr) (x : Nat) => exec i s = .next (faulted s ⟨0x0E, BitVec.ofNat 64 x, 0⟩)
    let ea := v.a.word.toInt + v.b.word.toInt
    let inL := fun (ea : Int) (n : Nat) => checkL ea n 64 = none
    (ready { op := 0x200 } o s = .go s1 v g → d < 16 →
      ((c.bank d).claim = s1.curF.holder → exec (.tclaim o) s = .next (completed o.hdr s1))
      ∧ ((c.bank d).claim = .free → (c.bank d).claim ≠ s1.curF.holder → exec (.tclaim o) s = .next (completed o.hdr
          (s1.modCurC fun c => c.setBank d { c.bank d with claim := s1.curF.holder })))
      ∧ ((c.bank d).claim ≠ .free → (c.bank d).claim ≠ s1.curF.holder → exec (.tclaim o) s = .next s))
    ∧ (ready { op := 0x201 } o s = .go s1 v g → d < 16 →
      (mine d → exec (.trel o) s = .next (completed o.hdr (s1.modCurC fun c => c.setBank d { c.bank d with claim := .free })))
      ∧ (¬mine d → refuses (.trel o) d))
    ∧ (ready { op := 0x202 } o s = .go s1 v g → d < 16 →
      let t := o.mods.ty.getD .raw
      (mine d → inL ea (if t.isMx then 16896 else 16384) → runs (.tfill o) (.tfill d ea.toNat t) 0x202 t)
      ∧ (¬mine d → refuses (.tfill o) d))
    ∧ (ready { op := 0x203, tiles := fun o => [(2, o.b.num)] } o s = .go s1 v g →
      let ea := v.d.word.toInt + v.a.word.toInt
      (mine b → inL ea (if b < 16 then (if (c.issueTag b).isMx then 16896 else 16384) else 65536) →
        runs (.tdrain o) (.tdrain b ea.toNat) 0x203 (c.issueTag b))
      ∧ (¬mine b → refuses (.tdrain o) b))
    ∧ (ready
        { op := 0x20C, tiles := fun o => [(0, o.d.num)]
          tags := fun s o _ => tileTag s.curC 0 o.d.num Tag.isMx } o s = .go s1 v g → d < 16 →
      (mine d → inL ea 512 → runs (.tscale o) (.tscale d ea.toNat) 0x20C (c.issueTag d)) ∧ (¬mine d → refuses (.tscale o) d))
    ∧ (ready { op := 0x204 } o s = .go s1 v g → 16 ≤ d → d ≤ 23 → runs (.tzero o) (.tzero d) 0x204 .f32)
    ∧ (ready
        { op := 0x209, tiles := fun o => [(1, o.a.num)]
          tags := fun s o _ =>
            if o.mods.ty.isSome ∧ o.d.num < 16 ∧ 16 ≤ o.a.num then tileTag s.curC 1 o.a.num (· == .f32) else none } o s = .go s1 v g →
      (o.mods.ty = none → o.b = .none → ((d < 16) = (a < 16)) → mine d → mine a →
        runs (.tmov o) (.tmov d a) 0x209 (c.issueTag a))
      ∧ (o.mods.ty = none → o.b = .none → ((d < 16) = (a < 16)) →
        (¬mine d → refuses (.tmov o) d) ∧ (mine d → ¬mine a → refuses (.tmov o) a))
      ∧ (∀ t, o.mods.ty = some t → d < 16 → 16 ≤ a → o.b.kind = .imm → v.b.word.toNat < t.width → ¬mine d → refuses (.tmov o) d)
      ∧ (∀ t, o.mods.ty = some t → d < 16 → 16 ≤ a → o.b.kind = .imm → v.b.word.toNat < t.width → mine d → s1.badRm o = false →
        runs (.tmov o) (.tnarrow d a v.b.word.toNat t
          (if o.mods.mode = 0 then s1.cur.fctl.toNat % 8 + 1 else o.mods.mode.val)) 0x209 t))
    ∧ (ready
        { op := 0x20A, tiles := fun o => [(1, o.a.num)]
          tags := fun s o _ => if o.d.num < 16 ∧ o.a.num < 16 then tileTag s.curC 1 o.a.num ttrTag else none } o s = .go s1 v g →
      ((d < 16) = (a < 16)) → (mine d → mine a → runs (.ttr o) (.ttr d a) 0x20A (c.issueTag a))
        ∧ (¬mine d → refuses (.ttr o) d) ∧ (mine d → ¬mine a → refuses (.ttr o) a))
    ∧ (ready { op := 0x20B, tiles := fun o => [(1, o.a.num)] } o s = .go s1 v g → d < 16 → a < 16 → c.issueTag a = .t5 →
      v.b.word.toNat ≤ 4 → (mine d → mine a → runs (.ttrit o) (.ttrit d a v.b.word.toNat) 0x20B .i8)
        ∧ (¬mine d → refuses (.ttrit o) d) ∧ (mine d → ¬mine a → refuses (.ttrit o) a))
    ∧ (ready
        { op := 0x205, tiles := fun o => [(0, o.d.num), (1, o.a.num), (2, o.b.num)]
          tags := fun s o _ => mmaTags s.curC o.d.num o.a.num o.b.num } o s = .go s1 v g →
      16 ≤ d → d ≤ 23 → a ≤ 7 → 8 ≤ b → b ≤ 15 → (mine a → mine b → runs (.mma o) (.mma d a b) 0x205 .f32)
        ∧ (¬mine a → refuses (.mma o) a) ∧ (mine a → ¬mine b → refuses (.mma o) b))
    ∧ (ready
        { op := 0x206
          tiles := fun o => ctiles.map (fun n => (0, n)) ++ [(1, o.a.num), (2, o.b.num), (2, o.b.num + 1)] } o s = .go s1 v g →
      d = 16 → a ≤ 7 → 8 ≤ b → b ≤ 15 → b % 2 = 0 → (∀ e ∈ squareCores s1.curCore, (s1.core e).cap = some s1.curF.cap) →
      (¬mine a → refuses (.mmaj o) a) ∧ (mine a → ¬mine b → refuses (.mmaj o) b)
      ∧ (mine a → mine b → ¬mine (b + 1) → refuses (.mmaj o) (b + 1))
      ∧ (mine a → mine b → mine (b + 1) → (∀ n, 16 ≤ n → n ≤ 23 → c.issueTag n = .f32) →
      (mmaRow (c.issueTag a)).isSome = true → mmaRow (c.issueTag b) = mmaRow (c.issueTag a) → c.issueTag (b + 1) = c.issueTag b →
      let op := MatKind.mmaj a b (c.jointSeq + 1)
      c.mq.length < 16 → c.heldNamed op = false → s1.acqPending = false →
      exec (.mmaj o) s = .next (completed o.hdr (State.formJoint ({ s1.modCurC (fun c => c.enqueue
          { id := s1.fresh, fir := s1.curF.id, op := op, opcode := 0x206, wtag := .f32, strict := s1.cur.fctl.getLsbD 4
            atag := c.issueTag a, btag := c.issueTag b }) with
            fresh := s1.fresh + 1 }.modCurC fun c => { c with jointSeq := c.jointSeq + 1 }) s1.curCore (c.jointSeq + 1)))))
    ∧ (∀ ep k, s.jointParts ep k = none → s.formJoint ep k = s)
    ∧ (∀ ep k ps, s.jointParts ep k = some ps →
      ((∀ p ∈ ps, ∀ q ∈ ps, p.op.atag = q.op.atag ∧ p.op.btag = q.op.btag) → s.formJoint ep k = s)
      ∧ ∀ p ∈ ps, ∀ q ∈ ps, p.op.atag ≠ q.op.atag ∨ p.op.btag ≠ q.op.btag →
        let same := ∀ p ∈ ps, ∀ q ∈ ps, p.op.atag = q.op.atag
        ((s.formJoint ep k).core p.ep).mq = listDel (s.core p.ep).mq p.idx
        ∧ ∃ d : Deferred, ((s.formJoint ep k).core p.ep).deferred = (s.core p.ep).deferred ++ [d] ∧ d.code = 0x05
          ∧ (same → d.info0 = 2 ∧ d.info1 = BitVec.ofNat 64 p.op.btag.code)
          ∧ (¬same → d.info0 = 1 ∧ d.info1 = BitVec.ofNat 64 p.op.atag.code))
    ∧ (∀ (c : Core) (e : MatOp), (c.enqueue e).mq = c.mq ++ [e]
      ∧ ∀ x, ((c.enqueue e).bank x).count = (c.bank x).count + if x ∈ e.op.slotsRead then 1 else 0)

/-- Status, waiting, capabilities and commands (07 R161 to R166), and the event that accepts a command. The slot number as the detail of Capability-refused at mwait is the model's choice (log 23), as is the low byte of a manifest index above 255 in Table 7.5 (log 45). -/
def Obligations.MatrixStatusAndCommands : Prop :=
  ∀ (o : Ops) (s s1 : State) (v : Vals) (g : PBits),
    let c := s1.curC
    (ready { op := 0x20D } o s = .go s1 v g →
      (∀ n, o.a = .tile n → n.val < 24 → ∃ z : Word, exec (.mstat o) s = .next (completed o.hdr (s1.putS o.d z))
        ∧ z.extractLsb' 24 40 = 0 ∧ z.extractLsb' 11 5 = 0
        ∧ z.extractLsb' 0 5 = BitVec.ofNat 5 (c.issueTag n.val).code
        ∧ (16 ≤ n.val → z.extractLsb' 16 8 = 0xFF ∧ z.extractLsb' 5 6 = 0)
        ∧ (n.val < 16 → (c.bank n.val).count ≤ 20 →
          z.extractLsb' 16 8 = (match (c.bank n.val).claim with
            | .free => 0xFF
            | .actor i => BitVec.ofNat 8 i
            | .firing _ => 0xFE)
          ∧ z.extractLsb' 6 5 = BitVec.ofNat 5 (c.bank n.val).count
          ∧ (z.getLsbD 5 = true ↔ ∃ h ∈ c.held, h.slot = n.val)))
      ∧ (∀ x, o.a = .imm x → v.a.word = 0 → exec (.mstat o) s = .next (completed o.hdr (s1.putS o.d c.matrixStatus)))
      ∧ (∀ x, o.a = .imm x → v.a.word = 1 → exec (.mstat o) s = .next (completed o.hdr
          ((s1.putS o.d c.matrixStatus).modCurC fun c => { c with mflags := 0, jd := false })))
      ∧ (∀ x, o.a = .imm x → 2 ≤ v.a.word.toNat → exec (.mstat o) s = .next (faulted s (fIllegal 1))))
    ∧ (ready { op := 0x20E } o s = .go s1 v g →
      let y := match o.d with | .tile n => some n.val | _ => none
      let names := fun (xs : List Nat) => match o.d with | .tile n => xs.contains n.val | _ => true
      let awaited := (c.mq.filter fun m => names m.op.names).map MatOp.id
      let mine := ∀ n, o.d = .tile n → n.val < 16 → (c.bank n.val).claim = s1.curF.holder
      (mine → awaited = [] → (∀ e ∈ c.deferred, names e.names = false) → exec (.mwait o) s = .next (completed o.hdr s1))
      ∧ (mine → awaited ≠ [] →
        exec (.mwait o) s = .next ((s1.modCur fun x => { x with wait := .mwait awaited y }).issued o.hdr))
      ∧ (∀ p e q, mine → awaited = [] → c.deferred = p ++ e :: q → names e.names = true → (∀ z ∈ p, names z.names = false) →
        exec (.mwait o) s = .next (((s1.modCurC fun c => { c with deferred := p ++ q }).trapHere
          ⟨e.code, e.info0, BitVec.ofNat 64 (e.info1.toNat % 2 ^ 48 + e.opcode * 2 ^ 48)⟩ clsDeferred).issued o.hdr))
      ∧ ∀ n, o.d = .tile n → n.val < 16 → (c.bank n.val).claim ≠ s1.curF.holder →
        exec (.mwait o) s = .next (faulted s ⟨0x0E, BitVec.ofNat 64 n.val, 0⟩))
    ∧ (∀ ep k ids y, (s.slot ep k).wait = .mwait ids y →
      let t := { s with curCore := ep, curSlot := k }
      let names := fun (e : Deferred) => match y with | some n => e.names.contains n | none => true
      ((∃ m ∈ (s.core ep).mq, m.id ∈ ids) → s.mwaitTest ep k = s)
      ∧ ((∀ m ∈ (s.core ep).mq, m.id ∉ ids) → (∀ e ∈ (s.core ep).deferred, names e = false) →
        s.mwaitTest ep k = (t.modCur fun x => { x with wait := .none }).advance)
      ∧ ∀ p e q, (∀ m ∈ (s.core ep).mq, m.id ∉ ids) → (s.core ep).deferred = p ++ e :: q → names e = true →
        (∀ z ∈ p, names z = false) →
        s.mwaitTest ep k = (t.modCurC fun c => { c with deferred := p ++ q }).trapHere
          ⟨e.code, e.info0, BitVec.ofNat 64 (e.info1.toNat % 2 ^ 48 + e.opcode * 2 ^ 48)⟩ clsDeferred)
    ∧ (ready { op := 0x208 } o s = .go s1 v g →
      (v.b.word = 0 → (∀ e, e < 16 → ∃ x, c.captab.find e = some x ∧ x.live = true) →
        exec (.mcapMint o) s = .next (completed o.hdr (s1.putS o.d 0)))
      ∧ (∀ e, v.b.word = 0 → e < 16 → (∀ x, c.captab.find e = some x → x.live = false) →
          (∀ n, n < e → ∃ x, c.captab.find n = some x ∧ x.live = true) →
        let mask := v.a.word.toNat % 2 ^ 24
        exec (.mcapMint o) s = .next (completed o.hdr ((s1.modCurC fun c => { c with
            captab := c.captab.put e { gen := c.capGen, mask := mask, cap := s1.curF.cap, live := true }
            capGen := if c.capGen = 0xFFFFF then 1 else c.capGen + 1 }).putS o.d
          (BitVec.ofNat 64 (s1.curCore % 2 ^ 16 * 2 ^ 48 + mask * 2 ^ 24 + e * 2 ^ 20 + c.capGen)))))
      ∧ (c.liveCap s1.curCore v.a.word = none → exec (.mcapRevoke o) s = .next (completed o.hdr (s1.putS o.d 0)))
      ∧ (∀ e x, c.liveCap s1.curCore v.a.word = some (e, x) → exec (.mcapRevoke o) s = .next (completed o.hdr
          ((s1.modCurC fun c => { c with captab := c.captab.put e { x with live := false } }).putS o.d 1))))
    ∧ (ready { op := 0x207 } o s = .go s1 v g →
      (s1.commandsOut s1.curF.id < 8 → s1.acqPending = false →
        exec (.mcmd o) s = .next (completed o.hdr (s1.bump.modCore (v.d.word.toNat / 2 ^ 48) fun c => { c with
          cmdIn := c.cmdIn ++ [{ seq := s1.fresh, cap := s1.curF.cap, fir := s1.curF.id, handle := v.d.word, word := v.a.word,
                                 stamp := s1.cur.dline.toNat }] })))
      ∧ (8 ≤ s1.commandsOut s1.curF.id → exec (.mcmd o) s = .next s))
    ∧ (∀ ep m, s.nextCommand ep = some m →
      m ∈ (s.core ep).cmdIn ∧ ∀ e ∈ s.cores, ∀ n ∈ e.2.cmdIn, n.fir = m.fir → m.seq ≤ n.seq)
    ∧ (c.mq.length ≤ 16 → (∀ e ∈ c.deferred, e.code < 256) → let z := c.matrixStatus
      z.extractLsb' 48 16 = 0 ∧ z.extractLsb' 32 6 = 0 ∧ z.extractLsb' 21 3 = 0 ∧ z.extractLsb' 8 8 = 0
      ∧ z.extractLsb' 0 8 = c.mflags ∧ z.extractLsb' 16 5 = BitVec.ofNat 5 c.mq.length
      ∧ z.extractLsb' 24 8 = BitVec.ofNat 8 c.jointSeq ∧ z.getLsbD 38 = c.jd
      ∧ (z.getLsbD 39 = true ↔ c.deferred ≠ [])
      ∧ z.extractLsb' 40 8 = (match c.deferred with | e :: _ => BitVec.ofNat 8 e.code | [] => 0))
    ∧ ∀ ep m, s.nextCommand ep = some m → (s.core ep).mq.length < 16 →
      (s.held.filter fun h => h.src == .matrix ep).length < 8 →
      let ms := (s.core ep).cmdIn.filter fun n => n.seq != m.seq
      (∀ e, (s.core ep).command ep m = .error e →
        exec (.matrixCommandAccept ep) s = .next ((s.modCore ep fun c => { c with cmdIn := ms }).commandStatus ep m e))
      ∧ (∀ op code tag, (s.core ep).command ep m = .ok (op, code, tag) → (s.core ep).heldNamed op = false →
        exec (.matrixCommandAccept ep) s = .next { s.modCore ep (fun c => { c with cmdIn := ms }.enqueue
          { id := s.fresh, fir := m.fir, op := op, opcode := code, wtag := tag, strict := (s.cap m.cap).tritstrict, cmd := some m }) with
          fresh := s.fresh + 1 })
      ∧ ((s.core ep).liveCap ep m.handle = none → (s.core ep).command ep m = .error 0x0E)

/-- Starting and finishing of the matrix operations of one core (07 R138 to R142, R146 to R156, R167). A product of zero takes the sign of its factors (log 45), and mma's deferred Trit-code fault names the first illegal byte by address, A before W (log 23), and a tfill or tscale that reads poisoned bytes of the L store poisons its slot (log 48): the model's choices. -/
def Obligations.MatrixResults : Prop :=
  ∀ (s : State) (ep idx : Nat) (o : MatOp), (s.core ep).mq[idx]? = some o →
    let c := s.core ep
    let bytes := fun (b : Bank) => toBytes 16384 b.data.toNat
    let sideBytes := fun (b : Bank) => toBytes 512 b.side.toNat
    ((∀ a w k, o.op ≠ .mmaj a w k) → o.started = false →
      (∀ i p, i < idx → c.mq[i]? = some p → p.op.isArray ≠ o.op.isArray ∧ conflicts p.op o.op = false) →
      exec (.matrixOpStart ep idx) s = .next (s.modCore ep fun c => { c with mq := listSet c.mq idx { o with started := true } }))
    ∧ (o.started = true → o.cmd = none → (∀ a w k, o.op ≠ .mmaj a w k) →
      (∃ x ∈ o.op.srcs, c.doneTag x = .poison) → (∀ y off, o.op ≠ .tdrain y off) →
        exec (.matrixOpFinish ep idx) s
          = .next (((s.setCore ep ((c.poisonDest o.op.dest).retire idx o)).opPulses ep o).ras ep))
    ∧ (o.started = true → o.cmd = none →
      let ends := fun (c' : Core) (fl : BitVec 8) (spoiled : Bool) =>
        let t := (s.setCore ep ({ c' with mflags := c'.mflags ||| fl }.retire idx o)).opPulses ep o
        exec (.matrixOpFinish ep idx) s = .next (if spoiled then t.ras ep else t)
      let defers := fun (i byte : Nat) =>
        exec (.matrixOpFinish ep idx) s = .next (((s.setCore ep (c.retire idx o)).opPulses ep o).modCore ep fun c =>
          { c with deferred := c.deferred ++ [{ code := 0x10, info0 := BitVec.ofNat 64 i, info1 := BitVec.ofNat 64 byte
                                                names := o.op.names.eraseDups, opcode := o.opcode }] })
      let kept := fun (b : Bank) (x : Nat) => b.claim = (c.bank x).claim ∧ b.count = (c.bank x).count
      (∀ y off, o.op = .tdrain y off → y < 16 →
        ends (c.lwrite off (bytes (c.bank y) ++ if o.wtag.isMx then sideBytes (c.bank y) else []) (c.doneTag y == .poison)) 0
          (c.doneTag y == .poison))
      ∧ (∀ y off, o.op = .tdrain y off → 16 ≤ y →
        ends (c.lwrite off (toBytes 65536 (c.tile (y - 16)).data.toNat) (c.doneTag y == .poison)) 0 (c.doneTag y == .poison))
      ∧ ((∀ x ∈ o.op.srcs, c.doneTag x ≠ .poison) →
        (∀ x off ty, o.op = .tfill x off ty → x < 16 → ty ≠ .poison →
          let n := if ty.isMx then 16896 else 16384
          ∃ b : Bank, ends (c.setBank x b) 0 (c.lread off n).2 ∧ kept b x ∧ bytes b = (c.lread off n).1.take 16384
            ∧ (ty.isMx = true → sideBytes b = (c.lread off n).1.drop 16384) ∧ (ty.isMx = false → b.side = 0)
            ∧ b.tag = (if (c.lread off n).2 then .poison else ty))
        ∧ (∀ x off, o.op = .tscale x off → x < 16 →
          ∃ b : Bank, ends (c.setBank x b) 0 ((c.lread off 512).2 || (c.bank x).tag == .poison) ∧ kept b x
            ∧ b.data = (c.bank x).data ∧ sideBytes b = (c.lread off 512).1
            ∧ b.tag = (if (c.lread off 512).2 then .poison else (c.bank x).tag))
        ∧ (∀ d, o.op = .tzero d → 16 ≤ d → ends (c.setTile (d - 16) { data := 0, tag := .f32 }) 0 false)
        ∧ (∀ d a, o.op = .tmov d a → 16 ≤ d → 16 ≤ a → ends (c.setTile (d - 16) (c.tile (a - 16))) 0 false)
        ∧ (∀ d a, o.op = .tmov d a → d < 16 → a < 16 → ∃ b : Bank, ends (c.setBank d b) 0 false ∧ kept b d
          ∧ b.data = (c.bank a).data ∧ b.side = (c.bank a).side ∧ b.tag = (c.bank a).tag)
        ∧ (∀ d a p ty mode, o.op = .tnarrow d a p ty mode → d < 16 → 16 ≤ a → ty ≠ .poison →
          let n := 128 / ty.width
          let z := fun i j => convert .f32 ty (rmodeOf mode 0) ((c.tile (a - 16)).elem (128 * i + p * n + j))
          ∃ (b : Bank) (fl : BitVec 8), ends (c.setBank d b) fl false ∧ kept b d ∧ b.tag = ty ∧ b.side = 0
          ∧ (∀ i j, i < 128 → j < n → bits b.data.toNat (8 * (128 * i + ty.width * j)) (8 * ty.width)
              = (z i j).1 % 2 ^ (8 * ty.width))
          ∧ ∀ k, (fl.getLsbD k = true ↔ ∃ i j, i < 128 ∧ j < n ∧ (z i j).2.getLsbD k = true))
        ∧ (∀ d a, o.op = .ttr d a → 16 ≤ d → 16 ≤ a → ∃ t : Tile, ends (c.setTile (d - 16) t) 0 false
          ∧ t.tag = (c.tile (a - 16)).tag
          ∧ ∀ i j, i < 128 → j < 128 → t.elem (128 * i + j) = (c.tile (a - 16)).elem (128 * j + i))
        ∧ (∀ d a, o.op = .ttr d a → d < 16 → a < 16 → ∃ b : Bank, ends (c.setBank d b) 0 false ∧ kept b d
          ∧ b.tag = (c.bank a).tag ∧ b.side = 0
          ∧ ∀ i j, i < 128 → j < 128 → b.byte (128 * i + j) = (c.bank a).byte (128 * j + i))
        ∧ (∀ d a p, o.op = .ttrit d a p → d < 16 → a < 16 →
          let at_ := fun i => 128 * (i / 128) + (128 * p + i % 128) / 5
          let byte := fun i => (c.bank a).byte (at_ i)
          let bad := fun i => i < 16384 ∧ 243 ≤ byte i
          let trit := fun i => byte i / 3 ^ ((128 * p + i % 128) % 5) % 3
          (o.strict = false ∨ (∀ i, ¬bad i) → ∃ (b : Bank) (fl : BitVec 8), ends (c.setBank d b) fl false ∧ kept b d
            ∧ b.tag = .i8 ∧ b.side = 0 ∧ ((∀ i, ¬bad i) → fl = 0) ∧ ((∃ i, bad i) → fl = 0x80)
            ∧ ∀ i, i < 16384 → b.byte i = if 243 ≤ byte i then 0 else if trit i = 2 then 255 else trit i)
          ∧ ∀ i, o.strict = true → bad i → (∀ j, j < i → ¬bad j) → defers (at_ i) (byte i))
        ∧ ∀ d a w, o.op = .mma d a w → 16 ≤ d → a < 16 → w < 16 →
          let bad := fun x i => (c.bank a).tag = .t5 ∧ i < 16384 ∧ 243 ≤ (c.bank x).byte i
          (o.strict = false ∨ (∀ i, ¬bad a i ∧ ¬bad w i) → ∃ (t : Tile) (fl : BitVec 8), ends (c.setTile (d - 16) t) fl false
            ∧ t.tag = .f32 ∧ ((∃ i, bad a i ∨ bad w i) → fl.getLsbD 7 = true)
            ∧ ∀ i j, i < 128 → j < 128 → t.elem (128 * i + j) =
              (mmaElem (matK (c.bank a).tag) (matRow (c.bank a).tag (c.bank a) i) (matRow (c.bank w).tag (c.bank w) j)
                ((c.tile (d - 16)).elem (128 * i + j))).1 % 2 ^ 32)
          ∧ (∀ i, o.strict = true → bad a i → (∀ j, j < i → ¬bad a j) → defers i ((c.bank a).byte i))
          ∧ ∀ i, o.strict = true → (∀ j, ¬bad a j) → bad w i → (∀ j, j < i → ¬bad w j) → defers i ((c.bank w).byte i)))
    ∧ (∀ h i, c.held[i]? = some h → (c.bank h.slot).count = 0 →
      exec (.heldSlotWrite ep i) s = .next (s.modCore ep fun c =>
        { c.writeSlot h.slot h.data.toNat h.side.toNat h.tag with held := listDel c.held i }))
    ∧ (∀ (k : Nat) (a w : List FV) (acc : Nat), mmaElem k a w acc = accumulate (k / 32) (a.zip w) acc 0)
    ∧ (∀ (ps : List (FV × FV)) (acc : Nat) (fl : BitVec 8) (n : Nat),
      accumulate 0 ps acc fl = (acc, fl)
      ∧ (accumulate (n + 1) ps acc fl).1 = (accumulate n (ps.drop 32)
          (fAdd fmtF32 .rne (decodeF fmtF32 acc)
            (decodeF fmtF32 (blockSum ((ps.take 32).map fun p => (mulExact p.1 p.2).1)).1)).1 0).1)
    ∧ (∀ na nb ma mb ea eb, mulExact (.fin na ma ea) (.fin nb mb eb) = (.fin (na != nb) (ma * mb) (ea + eb), 0))
    ∧ ∀ ps : List FV,
      (ps ≠ [] → (∀ p ∈ ps, ∃ n m e, p = .fin n m e) → ∃ n m e lo, blockSum ps = roundFin fmtF32 false .rne n m e
        ∧ (∀ p ∈ ps, lo ≤ p.parts.2.2) ∧ (lo ≤ e ∨ m = 0)
        ∧ FV.scaled n m e lo = (ps.map fun p => FV.scaled p.parts.1 p.parts.2.1 p.parts.2.2 lo).sum
        ∧ (m = 0 → (n = true ↔ ∀ p ∈ ps, ∃ e, p = .fin true 0 e)))
      ∧ ((∃ p ∈ ps, p.isNan = true) → blockSum ps = (canonF fmtF32, 0))
      ∧ ((∀ p ∈ ps, p.isNan = false) → .inf false ∈ ps → .inf true ∈ ps → blockSum ps = (canonF fmtF32, 0x01))
      ∧ ∀ n, (∀ p ∈ ps, p.isNan = false) → .inf n ∈ ps → .inf (!n) ∉ ps → blockSum ps = (infF fmtF32 n, 0)

/-- The laws of byte memory (09 R175, R176; log 6: what an unlisted address reads as). -/
def Obligations.MemoryLaws : Prop :=
  ∀ (m : Mem) (a n : Nat) (bs : List Byte), m.wf = true →
    (m.write a bs).wf = true
    ∧ (∀ i, i < bs.length → (m.write a bs).get (a + i) = bs.getD i 0)
    ∧ (∀ x, x < a ∨ a + bs.length ≤ x → (m.write a bs).get x = m.get x)
    ∧ m.read a n = (List.range n).map (fun i => m.get (a + i))
    ∧ (∀ p : Host.Cell → Bool, Mem.wf (m.filter p) = true)
    ∧ (∀ p : Nat → Bool, ∀ x, Mem.get (m.filter fun e => p e.1) x = if p x then m.get x else 0)
    ∧ ∀ m' : Mem, m'.wf = true → (∀ x, m.get x = m'.get x) → m = m'

/-- Table 4.4 in order (04 R67, R71), and the checks on L-store offsets (R75). That a negative effective address raises Extent-bound, with the pointer it is reported by, is the model's choice (log 10). -/
def Obligations.AccessChecks : Prop :=
  ∀ (c : Capsule) (k x : Nat) (ea : Int) (n a need : Nat), 0 < a →
    let r := checkAccess c k x ea n a need
    (∀ key e, r = .ok key e → c.extents.find x = some e ∧ e.has need = true ∧ ea % a = 0 ∧ 0 ≤ ea ∧ ea + n ≤ e.viewLen x
      ∧ (e.homeKey ≠ 64 → e.homeKey ≠ c.chip → e.has (need ||| permE) = true)
      ∧ (x ≠ 1 → ea + n ≤ e.comm) ∧ key = keyOf e.homeKey (e.viewBase x k + ea.toNat))
    ∧ (c.extents.find x = none → ∃ p, r = .fail ⟨0x08, p, 0⟩)
    ∧ ∀ e, c.extents.find x = some e →
      let need' := if e.homeKey = 64 ∨ e.homeKey = c.chip then need else need ||| permE
      (e.has need' = false → ∃ p, r = .fail ⟨0x07, p, BitVec.ofNat 64 need'⟩)
      ∧ (e.has need' = true → ea % a ≠ 0 → ∃ p, r = .fail ⟨0x0D, p, BitVec.ofNat 64 a⟩)
      ∧ (e.has need' = true → ea % a = 0 → (ea < 0 ∨ (e.viewLen x : Int) < ea + n) → ∃ p, r = .fail ⟨0x06, p, BitVec.ofNat 64 n⟩)
      ∧ (e.has need' = true → ea % a = 0 → 0 ≤ ea → ea + n ≤ e.viewLen x → x ≠ 1 → (e.comm : Int) < ea + n →
          (e.has permG = true → r = .grow x (ea + n)) ∧ (e.has permG = false → ∃ p, r = .fail ⟨0x06, p, BitVec.ofNat 64 n⟩))
      ∧ (e.has need' = true → ea % a = 0 → 0 ≤ ea → ea + n ≤ e.viewLen x → x ≠ 1 → ea + n ≤ e.comm →
          r = .ok (keyOf e.homeKey (e.base + ea.toNat)) e)
      ∧ (checkL ea n a = none ↔ ea % a = 0 ∧ 0 ≤ ea ∧ ea + n ≤ Config.lBytes)
      ∧ (ea % a ≠ 0 → ∃ p, checkL ea n a = some ⟨0x0D, p, BitVec.ofNat 64 a⟩)
      ∧ (ea % a = 0 → (ea < 0 ∨ (Config.lBytes : Int) < ea + n) → ∃ p, checkL ea n a = some ⟨0x06, p, BitVec.ofNat 64 n⟩)

/-- Issue of loads and stores through an extent (04 R67 to R70), and the event that serves growth. That steps of growth backed before one that is not stay is the model's choice (log 47). -/
def Obligations.LoadsAndStoresIssue : Prop :=
  ∀ (o : Ops) (s s1 : State) (v : Vals) (g : PBits),
    let run := fun (i : Instr) (x : Nat) (ea : Int) (n w need : Nat) (d : Operand) (t : Tag) (acts : Nat → Act → Prop) =>
      let r := checkAccess s1.curCap s1.curSlot x ea n w need
      (∀ key e, r = .ok key e → (remoteHome s1.curCore e.homeKey = true → s1.remoteFull = false) → ∃ it : Item,
        exec i s = .next (completed o.hdr (s1.addItem it d t)) ∧ (s1.addItem it d t).mem = s.mem ∧ acts key it.act
        ∧ it.id = s1.fresh ∧ it.fir = s1.curF.id ∧ it.ep = s1.curCore ∧ it.slot = s1.curSlot ∧ it.cap = s1.curF.cap
        ∧ it.kind = e.kind ∧ it.home = e.homeKey ∧ it.x = x ∧ it.dst = dstOf d
        ∧ it.acq = (o.mods.order == .acq || o.mods.order == .ar)
        ∧ it.rel = (if o.mods.order = .rel ∨ o.mods.order = .ar then some o.mods.scope else none))
      ∧ (∀ f, r = .fail f → exec i s = .next (faulted s f))
      ∧ (∀ y upto, r = .grow y upto → ∃ p,
        exec i s = .next ((s.modCur fun k => { k with wait := .growth y upto ⟨0x06, p, BitVec.ofNat 64 n⟩ }).issued plainHdr))
    let t := o.mods.ty.getD .i64
    let ld := (ptrOff v.a.word : Int) + v.b.word.toInt
    let st := (ptrOff v.d.word : Int) + v.a.word.toInt
    (ready { op := 0x240 } o s = .go s1 v g → run (.ld o) (ptrSlot v.a.word) ld t.width t.width permR o.d .raw fun key a =>
      a = .load [{ key := key, w := t.width, idx := 0 }] t false false)
    ∧ (ready { op := 0x241 } o s = .go s1 v g → run (.st o) (ptrSlot v.d.word) st t.width t.width permW .none .raw fun key a =>
      a = .store [{ key := key, w := t.width, idx := 0 }] (v.b.word.setWidth 2048))
    ∧ (let t := o.mods.ty.getD .raw
      let w := t.width
      ready { op := 0x244, guard := .fixed w } o s = .go s1 v g →
      ∀ lo hi, active g w lo = true → active g w hi = true → lo < 256 / w → hi < 256 / w →
        (∀ i, i < 256 / w → active g w i = true → lo ≤ i ∧ i ≤ hi) →
        run (.ldv o) (ptrSlot v.a.word) (ld + w * lo) (w * (hi + 1) - w * lo) w permR o.d t fun key a =>
          a = .load ((actives g w).map fun i => { key := key + w * i - w * lo, w := w, idx := i }) t true false)
    ∧ (ready
        { op := 0x245, guard := .elem 2
          tags := fun _ o v => stvTag o v } o s = .go s1 v g →
      let w := (o.mods.ty.getD v.b.tag).width
      ∀ lo hi, active g w lo = true → active g w hi = true → lo < 256 / w → hi < 256 / w →
        (∀ i, i < 256 / w → active g w i = true → lo ≤ i ∧ i ≤ hi) →
        run (.stv o) (ptrSlot v.d.word) (st + w * lo) (w * (hi + 1) - w * lo) w permW .none .raw fun key a =>
          a = .store ((actives g w).map fun i => { key := key + w * i - w * lo, w := w, idx := i }) v.b.vbits)
    ∧ ∀ ep k f x upto i, (s.slot ep k).firing = some f → (s.slot ep k).wait = .growth x upto i →
      (s.chip (chipOf ep)).frozen = false → f.unknown = [] →
      let u := (s.growExtent f.cap x upto).1.modSlot ep k fun y => { y with wait := .none }
      ((s.growExtent f.cap x upto).2 = true → exec (.stackGrowth ep k) s = .next u)
      ∧ ((s.growExtent f.cap x upto).2 = false → f.trap = none →
        exec (.stackGrowth ep k) s = .next (u.takeFault ep k i clsPrecise f.pc f.pc))

/-- The L-store forms (04 R75), with the interlocks of 07 R149. -/
def Obligations.LocalStoreAccess : Prop :=
  ∀ (o : Ops) (s s1 : State) (v : Vals) (g : PBits),
    let c := s1.curC
    let free := fun (ea : Int) (n : Nat) (store : Bool) =>
      c.matWritesL ea.toNat n = false ∧ (store = true → c.matReadsL ea.toNat n = false)
    let t := o.mods.ty.getD .i64
    let w := t.width
    (ready { op := 0x242 } o s = .go s1 v g →
      let ea := v.a.word.toInt + v.b.word.toInt
      (∀ f, checkL ea w w = some f → exec (.ldl o) s = .next (faulted s f))
      ∧ (checkL ea w w = none → ¬free ea w false → exec (.ldl o) s = .next s)
      ∧ (checkL ea w w = none → free ea w false →
        let x := ofBytes ((List.range w).map fun i => c.lstore.get (ea.toNat + i))
        (lpoisonHit c.lpoison ea.toNat w = false → exec (.ldl o) s = .next (completed o.hdr (s1.putS o.d (iwide t x))))
        ∧ (lpoisonHit c.lpoison ea.toNat w = true →
          exec (.ldl o) s = .next (completed o.hdr ((s1.ras s1.curCore).putSP o.d (iwide t x) true)))))
    ∧ (ready { op := 0x243 } o s = .go s1 v g →
      let ea := v.d.word.toInt + v.a.word.toInt
      (∀ f, checkL ea w w = some f → exec (.stl o) s = .next (faulted s f))
      ∧ (checkL ea w w = none → ¬free ea w true → exec (.stl o) s = .next s)
      ∧ (checkL ea w w = none → free ea w true → ∃ u,
        exec (.stl o) s = .next (completed o.hdr u) ∧ SameOutside s1 u ∧ SameCores s1 u ∧ u.cur = s1.cur
        ∧ (c.lstore.wf = true → ∀ i, i < w → u.curC.lstore.get (ea.toNat + i) = BitVec.ofNat 8 (v.b.word.toNat / 2 ^ (8 * i)))
        ∧ (c.lstore.wf = true → ∀ a, a < ea.toNat ∨ ea.toNat + w ≤ a → u.curC.lstore.get a = c.lstore.get a)))
    ∧ (let t := o.mods.ty.getD .raw
      let w := t.width
      ready { op := 0x246, guard := .fixed w } o s = .go s1 v g →
      let ea := v.a.word.toInt + v.b.word.toInt
      ∀ lo hi, active g w lo = true → active g w hi = true → lo < 256 / w → hi < 256 / w →
        (∀ i, i < 256 / w → active g w i = true → lo ≤ i ∧ i ≤ hi) →
        let n := w * (hi + 1) - w * lo
        let check := checkL (ea + w * lo) n w
        let poisoned := ∃ i, i < 256 / w ∧ active g w i = true ∧ lpoisonHit c.lpoison (ea + w * i).toNat w = true
        (∀ f, check = some f → exec (.ldlv o) s = .next (faulted s f))
        ∧ (check = none → ¬free (ea + w * lo) n false → exec (.ldlv o) s = .next s)
        ∧ (check = none → free (ea + w * lo) n false → ∃ x : VBits,
          (¬poisoned → exec (.ldlv o) s = .next (completed o.hdr (s1.putV o.d g w x t)))
          ∧ (poisoned → exec (.ldlv o) s = .next (completed o.hdr ((s1.ras s1.curCore).putV o.d g w x .poison)))
          ∧ ∀ i, i < 256 / w → active g w i = true → velem w x i = ofBytes (c.lstore.read (ea + w * i).toNat w)))
    ∧ (ready
        { op := 0x247, guard := .elem 2
          tags := fun _ o v => stvTag o v } o s = .go s1 v g →
      let w := (o.mods.ty.getD v.b.tag).width
      let ea := v.d.word.toInt + v.a.word.toInt
      ∀ lo hi, active g w lo = true → active g w hi = true → lo < 256 / w → hi < 256 / w →
        (∀ i, i < 256 / w → active g w i = true → lo ≤ i ∧ i ≤ hi) →
        let n := w * (hi + 1) - w * lo
        let check := checkL (ea + w * lo) n w
        (∀ f, check = some f → exec (.stlv o) s = .next (faulted s f))
        ∧ (check = none → ¬free (ea + w * lo) n true → exec (.stlv o) s = .next s)
        ∧ (check = none → free (ea + w * lo) n true → ∃ u,
        exec (.stlv o) s = .next (completed o.hdr u) ∧ SameOutside s1 u ∧ SameCores s1 u ∧ u.cur = s1.cur
        ∧ (c.lstore.wf = true → ∀ i j, i < 256 / w → active g w i = true → j < w →
          u.curC.lstore.get ((ea + w * i).toNat + j) = BitVec.ofNat 8 (velem w v.b.vbits i / 2 ^ (8 * j)))
        ∧ (c.lstore.wf = true → ∀ a : Nat, (∀ i, i < 256 / w → active g w i = true → (a : Int) < ea + w * i ∨ ea + w * i + w ≤ a) →
          u.curC.lstore.get a = c.lstore.get a)))

/-- Issue of atomics and fences (10 R204 to R209). -/
def Obligations.AtomicIssue : Prop :=
  ∀ (o : Ops) (s s1 : State) (v : Vals) (g : PBits),
    let t := o.mods.ty.getD .i64
    let p := v.a.word
    let u := useOf o.mods.mode
    let silent := u = .com ∨ u = .qnt
    let r := checkAccess s1.curCap s1.curSlot (ptrSlot p) (ptrOff p) t.width t.width 0xB
    let run := fun (i : Instr) (op : AmoOp) =>
      (∀ key e, r = .ok key e → (remoteHome s1.curCore e.homeKey = true → s1.remoteFull = false) →
        (e.homeKey = 64 → (op = .add ∨ op = .swap ∨ op = .cas) ∧ ¬silent) → ∃ it kept,
        exec i s = .next (completed o.hdr (s1.addItem it (if silent then .none else o.d) .raw))
        ∧ it.act = .amo op t key v.b.word v.d.word u (quantumOf v.d.word) kept ∧ it.id = s1.fresh ∧ it.fir = s1.curF.id
        ∧ it.kind = e.kind ∧ it.home = e.homeKey ∧ (kept.isSome = true → u = .spc ∧ e.kind ≠ .strong)
        ∧ it.acq = (o.mods.order == .acq || o.mods.order == .ar)
        ∧ it.rel = (if o.mods.order = .rel ∨ o.mods.order = .ar then some o.mods.scope else none))
      ∧ (∀ f, r = .fail f → exec i s = .next (faulted s f))
      ∧ (∀ key e, r = .ok key e → (remoteHome s1.curCore e.homeKey = true → s1.remoteFull = false) → e.homeKey = 64 →
        (silent ∨ (op ≠ .add ∧ op ≠ .swap ∧ op ≠ .cas)) → exec i s = .next (faulted s ⟨0x07, p, 0xB⟩))
    (ready { op := 0x280 } o s = .go s1 v g → run (.amoAdd o) .add)
    ∧ (ready { op := 0x281 } o s = .go s1 v g → run (.amoAnd o) .and)
    ∧ (ready { op := 0x282 } o s = .go s1 v g → run (.amoOr o) .or)
    ∧ (ready { op := 0x283 } o s = .go s1 v g → run (.amoXor o) .xor)
    ∧ (ready { op := 0x284 } o s = .go s1 v g → run (.amoMin o) .min)
    ∧ (ready { op := 0x285 } o s = .go s1 v g → run (.amoMax o) .max)
    ∧ (ready { op := 0x286 } o s = .go s1 v g → run (.amoSwap o) .swap)
    ∧ (ready { op := 0x287, dDst := true } o s = .go s1 v g → run (.amoCas o) .cas)
    ∧ (ready { op := 0x288 } o s = .go s1 v g → run (.amoFadd o) .fadd)
    ∧ (ready { op := 0x289 } o s = .go s1 v g → run (.amoInc o) .inc)
    ∧ (let held := fun (i : Instr) (act : Act) (sc : Scope) => ∃ it : Item, it.act = act ∧ it.rel = some sc ∧ it.id = s1.fresh
        ∧ it.fir = s1.curF.id
        ∧ exec i s = .next (((((s1.addItem it .none .raw).modCur fun x => { x with wait := .item it.id }).advance).issued o.hdr))
      (ready { op := 0x290 } o s = .go s1 v g → held (.fence o) .fence o.mods.scope)
      ∧ (ready { op := 0x291 } o s = .go s1 v g →
        (∀ m : Nat, v.a.word = BitVec.ofNat 64 m → m ≤ 15 →
          held (.fenceEng o) (.fenceEng (if m = 0 then 15 else m)) (if o.mods.scope = .none then .core else o.mods.scope))
        ∧ (v.a.word.toInt < 0 ∨ 15 < v.a.word.toInt → exec (.fenceEng o) s = .next (faulted s (fIllegal 1)))))

/-- Performing an atomic at M (09 R186; 10 R204, Table 10.2). -/
def Obligations.AtomicResults : Prop :=
  (∀ (s : State) (idx : Nat) (it : Item) (op : AmoOp) (t : Tag) (key q : Nat) (b cmp : Word) (u : Use) (kept : Option Early),
    s.iq[idx]? = some it → it.act = .amo op t key b cmp u q kept → u ≠ .qnt → remoteHome it.ep it.home = false →
    it.home ≠ 64 → it.held = false → s.amoReady it = true → (∀ i ∈ s.earlier it, i.held = false) →
    let old := ofBytes (s.mem.read key t.width)
    (poisonHit s.poison key t.width = false → ∃ m : State,
      exec (.atomicPerform idx false) s = .next (m.finishAmo it t old false)
      ∧ m = s.writeM key (toBytes t.width (amoNew op t old (b.toNat % 2 ^ (8 * t.width)) (cmp.toNat % 2 ^ (8 * t.width))))
      ∧ (s.mem.wf = true → m.mem.wf = true ∧ ∀ a, a < key ∨ key + t.width ≤ a → m.mem.get a = s.mem.get a)
      ∧ (m.finishAmo it t old false).mem = m.mem ∧ (∀ i ∈ (m.finishAmo it t old false).iq, i.id ≠ it.id))
    ∧ (poisonHit s.poison key t.width = true →
      exec (.atomicPerform idx false) s = .next (s.finishAmo it t old true) ∧ (s.finishAmo it t old true).mem = s.mem))
  ∧ ∀ (t : Tag) (old b cmp : Nat), let w := 8 * t.width
    amoNew .add t old b cmp = (old + b) % 2 ^ w ∧ amoNew .and t old b cmp = old &&& b ∧ amoNew .or t old b cmp = old ||| b
    ∧ amoNew .xor t old b cmp = old ^^^ b ∧ amoNew .swap t old b cmp = b
    ∧ amoNew .cas t old b cmp = (if old = cmp then b else old)
    ∧ iread t (amoNew .min t old b cmp) = min (iread t old) (iread t b)
    ∧ iread t (amoNew .max t old b cmp) = max (iread t old) (iread t b)
    ∧ amoNew .inc t old b cmp = (if iread t b ≤ iread t old then 0 else (old + 1) % 2 ^ w)
    ∧ amoNew .fadd t old b cmp = (fAdd (fmtOf t) .rne (decodeF (fmtOf t) old) (decodeF (fmtOf t) b)).1

/-- Movement of entries (09 R174, R176), merging (R189, 19 R369, R372) and the commit of early atomics (R187). -/
def Obligations.EntryMovement : Prop :=
  ∀ (s : State) (idx : Nat) (e : Entry),
    (s.entries[idx]? = some e → s.mayMove idx e = true →
      (∀ o, e.place = .pod → e.op = some o →
        let w := o.ty.width
        let rest := { s with entries := listDel s.entries idx }
        let old := ofBytes (s.mem.read e.key w)
        let ends := fun (m : State) => exec (.entryMove idx) s = .next { m with
          remote := s.remote.map fun q => if (o.nums.contains q.id || (o.reqs.contains q.id && q.seqNo != 0)) = true then q.replied else q }
        (poisonHit s.poison e.key w = false →
          ends (rest.writeM e.key (toBytes w (amoNew o.op o.ty old (o.operand.toNat % 2 ^ (8 * w)) 0))))
        ∧ (poisonHit s.poison e.key w = true → ends (rest.ras e.core))) ∧
      (e.place = .pod → e.op = none → ∃ u, exec (.entryMove idx) s = .next u ∧ u.entries = listDel s.entries idx
        ∧ u.mem = s.mem.write e.key e.bytes ∧ u.cores = s.cores
        ∧ (s.mem.wf = true → (∀ a, a < e.key ∨ e.key + e.bytes.length ≤ a → u.mem.get a = s.mem.get a)
          ∧ ∀ i, i < e.bytes.length → u.mem.get (e.key + i) = e.bytes.getD i 0))
      ∧ (∀ c, e.place = .core c → e.remote = false → e.req = none → exec (.entryMove idx) s =
          .next { s with entries := listDel s.entries idx ++ [{ e with place := .sq (squareOf c) }] })
      ∧ (∀ q, e.place = .sq q → e.req = none → e.remote = false → exec (.entryMove idx) s =
          .next { s with entries := listDel s.entries idx ++ [{ e with place := .die (dieOf e.core) }] })
      ∧ (∀ q, e.place = .die q → e.req = none → e.remote = false → exec (.entryMove idx) s =
          .next { s with entries := listDel s.entries idx ++ [{ e with place := .dev (chipOf e.core) }] })
      ∧ (∀ q, e.place = .dev q → e.req = none → e.remote = false → exec (.entryMove idx) s =
          .next { s with entries := listDel s.entries idx ++ [{ e with place := .pod }] })
      ∧ (∀ f, e.place = .sb f → e.remote = false → e.req = none → exec (.entryMove idx) s =
          .next { s with entries := listDel s.entries idx ++ [{ e with place := .core e.core }] }))
    ∧ (s.entries[idx]? = some e → s.mayMove idx e = false → exec (.entryMove idx) s = .next s)
    ∧ (s.entries[idx]? = some e → ∀ o, e.op = some o → e.place = reductionGate e.key → s.leads idx e = true →
      (s.reductionFirst idx e = true →
        exec (.reductionWaitExpiry idx) s = .next ({ s with entries := listDel s.entries idx }.entryToM e))
      ∧ (s.reductionFirst idx e = false → exec (.reductionWaitExpiry idx) s = .next s ∧ s.mayMove idx e = false))
    ∧ (s.entries[idx]? = some e → ∀ o ch gw, e.op = some o → o.quantum = 0 → e.place = .gw ch gw →
      (s.reductionFirst idx e = false ↔ ∃ d p, d ∈ s.entries.take idx ∧ d.op = some p ∧ p.quantum = 0 ∧ d.place = e.place
        ∧ reductionGate d.key = reductionGate e.key ∧ ∃ r ∈ s.remote, ∃ q ∈ s.remote, r.id ∈ p.reqs ∧ q.id ∈ o.reqs
          ∧ r.ep = q.ep ∧ r.id ≠ q.id))
    ∧ (∀ i j a b p q ch gw, s.entries[i]? = some a → s.entries[j]? = some b → a.place = .gw ch gw → b.place = .gw ch gw →
      a.key = b.key → a.op = some p → b.op = some q → p.op = q.op → p.ty = q.ty → p.quantum = 0 → q.quantum = 0 → i ≠ j →
      s.sendersMeet ((s.entries.take (max i j)).drop (min i j + 1)) b = false →
      ∃ o, exec (.gatewayMerge i j) s = .next { s with entries := listDel (listSet s.entries i { a with op := some o }) j }
        ∧ o.op = p.op ∧ o.ty = p.ty ∧ o.count = p.count + q.count ∧ o.reqs = p.reqs ++ q.reqs
        ∧ (p.op = .add → p.ty = .i64 → o.operand = p.operand + q.operand))
    ∧ ∀ it op t key b cmp u qn x old, s.iq[idx]? = some it → it.act = .amo op t key b cmp u qn (some x) → x.old = some old →
      s.amoReady it = true → (∀ i ∈ s.earlier it, i.held = false) →
      let now := iwide t (ofBytes (s.mem.read key t.width))
      (poisonHit s.poison key t.width = false → now = old → ∃ m, exec (.spcCommit idx) s = .next (State.done m it)
        ∧ m = s.writeM key (toBytes t.width (amoNew op t (ofBytes (s.mem.read key t.width)) (b.toNat % 2 ^ (8 * t.width))
          (cmp.toNat % 2 ^ (8 * t.width)))))
      ∧ (now ≠ old → exec (.spcCommit idx) s = .next (s.replay it x) ∧ (s.replay it x).mem = s.mem)

/-- Performing loads, stores and fences (09 R175, R179 to R181, R185). -/
def Obligations.RequestsPerformed : Prop :=
  ∀ (s : State) (idx pick : Nat) (it : Item), s.iq[idx]? = some it →
    (∀ key w t poison, it.act = .load [{ key := key, w := w, idx := 0 }] t false poison →
      remoteHome it.ep it.home = false → s.plainReady it = true →
      let r := s.readPath (readPlaces it.fir it.ep it.home it.kind) key pick w
      (poison = false → r.2 = false → w ≤ 8 → ∃ it', it'.id = it.id ∧ it'.dst = it.dst ∧ it'.ep = it.ep ∧ it'.slot = it.slot ∧
        exec (.issueQueuePerform idx pick) s = .next (s.doneS it' (iwide t (ofBytes r.1)) false))
      ∧ (it.kind = .strong → (∀ e ∈ s.entries, e.op = none → (e.place = .pod ∨ e.place = .sb it.fir) →
          overlap (e.key, e.bytes.length) (key, w) = false) → r.1 = (List.range w).map fun i => s.mem.get (key + i)))
    ∧ (∀ es t vec p, it.act = .load es t vec p → s.plainReady it = false → exec (.issueQueuePerform idx pick) s = .next s)
    ∧ (∀ e v, it.act = .store [e] v → it.rel = none → remoteHome it.ep it.home = false → s.plainReady it = true → ∃ n : Entry,
      exec (.issueQueuePerform idx pick) s = .next ({ s with entries := s.entries ++ [n] }.done it)
      ∧ n.place = (if it.kind = .strong then .pod else .sb it.fir) ∧ n.key = e.key
      ∧ n.bytes = toBytes e.w (velem e.w v e.idx) ∧ n.party = it.fir ∧ n.op = none ∧ n.id = it.id)
    ∧ (it.act = .fence → ∀ sc, it.rel = some sc → s.barred it = false → s.relReady it sc = true →
      exec (.issueQueuePerform idx pick) s = .next (((s.markFenced it.fir it.id).released it.ep sc).done it))
    ∧ (it.act = .fence → s.barred it = true → exec (.issueQueuePerform idx pick) s = .next s)

/-- Porter channels and the dealer (10 R210 to R217), and their two events. That a failed read at step 1 drops the request and that `pseq` reads a halted channel with requests as busy are the model's choices (log 32); the status of a wrong block or deal length is too (log 46), and so is that an entry is read in one step (log 32). -/
def Obligations.PorterAndDealer : Prop :=
  (∀ (o : Ops) (s s1 : State) (v : Vals) (g : PBits),
    let ch := (Operand.val o.d).word.toNat
    let good := ∃ n : Nat, n ≤ 3 ∧ (Operand.val o.d).word = BitVec.ofNat 64 n
    let stops := fun (i : Instr) => (Operand.val o.d).word.toInt < 0 ∨ 3 < (Operand.val o.d).word.toInt →
      exec i s = .next (faulted s (fIllegal 0))
    let c := s1.curC.chan ch
    let r : Releaser := { stamp := s1.cur.dline.toNat, fir := s1.curF.id, cap := s1.curF.cap, view := s1.curSlot }
    (ready { op := 0x298 } o s = .go s1 v g → stops (.pappend o)
      ∧ (good → ptrOff v.a.word % 64 ≠ 0 → ∃ p, exec (.pappend o) s = .next (faulted s ⟨0x0D, p, 64⟩))
      ∧ (∀ key e, good → ptrOff v.a.word % 64 = 0 →
        checkAccess s1.curCap s1.curSlot (ptrSlot v.a.word) (ptrOff v.a.word) 64 64 3 = .ok key e →
        let link := fun (u : State) => u.modChan s1.curCore ch fun x =>
          { x with first := some (x.first.getD v.a.word), last := some v.a.word, count := x.count + 1 }
        let clears := fun (it : Item) =>
          it.act = .store [{ key := key + 0x28, w := 8, idx := 0 }] 0 ∧ it.fir = s1.curF.id ∧ it.kind = e.kind
        (c.last = none → (remoteHome s1.curCore e.homeKey = true → s1.remoteFull = false) → ∃ it : Item, clears it ∧
          exec (.pappend o) s = .next (completed o.hdr (link (s1.addItem it .none .raw))))
        ∧ ∀ l key' e', c.last = some l →
          checkAccess s1.curCap s1.curSlot (ptrSlot l) ((ptrOff l : Int) + 0x28) 8 8 2 = .ok key' e' →
          (remoteHome s1.curCore e.homeKey = true ∨ remoteHome s1.curCore e'.homeKey = true →
            s1.outstanding s1.curF.id s1.curCore s1.curSlot + 2 ≤ 16 ∧ s1.outstandingAt s1.curCore + 2 ≤ 64) → ∃ it it' : Item, clears it
          ∧ it'.act = .store [{ key := key', w := 8, idx := 0 }] (v.a.word.setWidth 2048) ∧ it'.fir = s1.curF.id ∧ it'.kind = e'.kind
          ∧ exec (.pappend o) s = .next (completed o.hdr (link ((s1.addItem it .none .raw).addItem it' .none .raw)))))
    ∧ (ready { op := 0x299 } o s = .go s1 v g → stops (.pgo o) ∧ (good → ∃ it : Item,
        exec (.pgo o) s = .next (completed o.hdr ((s1.modChan s1.curCore ch fun _ => (c.take r).1).addItem it .none .raw))
        ∧ it.act = .pgo ch (c.take r).2))
    ∧ (ready { op := 0x29A } o s = .go s1 v g → stops (.pseq o) ∧ (good →
        exec (.pseq o) s = .next (completed o.hdr (s1.putS o.a (BitVec.ofNat 64
          ((if c.reqs = [] then 0 else 2 ^ 63) + (if c.halted then 2 ^ 62 else 0) + c.status % 256 * 2 ^ 40 + c.doneSeq % 2 ^ 32))))))
    ∧ (ready { op := 0x29B } o s = .go s1 v g → stops (.pdeal o) ∧ (good →
        exec (.pdeal o) s = .next (completed o.hdr (s1.modChan s1.curCore ch fun x => { x with deal := v.a.word })))))
  ∧ (∀ (c : Chan) (r : Releaser) (p : Word), c.first = some p → c.count ≠ 0 →
      (c.take r).1 = { c with first := none, last := none, count := 0 }
      ∧ ∃ q, (c.take r).2 = some q ∧ q.left = c.count ∧ q.next = p ∧ q.deal = c.deal ∧ q.begun = false)
  ∧ ∀ (s : State) (ep ch : Nat) (r : PReq) (rs : List PReq), ((s.core ep).chan ch).reqs = r :: rs →
    (∀ key e, ((s.core ep).chan ch).work = none → ((s.core ep).chan ch).halted = false → r.begun = false →
      (∀ h ∈ s.held, h.src ≠ .porter ep ch) →
      checkAccess (s.cap r.cap) r.view (ptrSlot r.next) (ptrOff r.next) 64 64 3 = .ok key e →
      let bs := s.engineRead ep key e.kind 64
      bs.2 = false →
      let fld := fun o n => ofBytes ((bs.1.drop o).take n)
      let src := fld 0 8
      let dst := fld 8 8
      let len := fld 16 8
      let ctl := fld 24 8
      let bit := fun i => ctl / 2 ^ i % 2 = 1
      let n := (((s.core ep).chan ch).seqNo + 1) % 2 ^ 32
      let w : PWork := { ptr := r.next, key := key, kind := e.kind.code, seqNo := n, dest := BitVec.ofNat 64 dst, length := len, control := ctl }
      let begins := fun (w : PWork) =>
        exec (.porterEntry ep ch) s = .next (s.modChan ep ch fun c => { c with seqNo := n, work := some w })
      let fails := fun (st : Nat) => begins { w with status := st, done := len }
      let spare := ctl / 2 ^ 29 ≠ 0 ∨ ctl / 2 ^ 20 % 16 ≠ 0 ∨ fld 0x30 16 ≠ 0
      (spare → fails 0x03)
      ∧ (¬spare → bit 16 → bit 18 → dst < 16 → fails 0x02) ∧ (¬spare → bit 16 → bit 19 → ¬bit 18 → fails 0x02)
      ∧ (¬spare → bit 16 → ¬bit 18 → ¬bit 19 → ctl / 2 ^ 24 % 32 = 0 →
        let long := fun a => Config.lBytes < a + len
        let odd := len = 0 ∨ len % 8 ≠ 0 ∨ src % 8 ≠ 0 ∨ dst % 8 ≠ 0
        (odd → fails 0x0D)
        ∧ (¬odd → bit 17 → long src ∨ long dst → fails 0x06)
        ∧ (¬odd → bit 17 → ¬long src → ¬long dst → begins { w with src := .l src, dst := .l dst })
        ∧ ∀ skey se, ¬odd → ¬bit 17 →
          checkAccess (s.cap r.cap) r.view (ptrSlot (BitVec.ofNat 64 src)) (ptrOff (BitVec.ofNat 64 src)) len 8 permR = .ok skey se →
          (long dst → fails 0x06) ∧ (¬long dst → begins { w with src := .ext skey se.kind.code, dst := .l dst })))
    ∧ (∀ f, ((s.core ep).chan ch).work = none → ((s.core ep).chan ch).halted = false → r.begun = false →
      (∀ h ∈ s.held, h.src ≠ .porter ep ch) →
      checkAccess (s.cap r.cap) r.view (ptrSlot r.next) (ptrOff r.next) 64 64 3 = .fail f →
      let n := (((s.core ep).chan ch).seqNo + 1) % 2 ^ 32
      exec (.porterEntry ep ch) s = .next ((s.modChan ep ch fun c => { c with seqNo := n, halted := true, reqs := rs }).faultOutside
        r.cap ep f.code r.next (BitVec.ofNat 64 n) 1))
    ∧ (((s.core ep).chan ch).work = none → ((s.core ep).chan ch).halted = true → exec (.porterEntry ep ch) s = .next s)
    ∧ (∀ (w : PWork) (a q x : Nat) (deal : Bool) (t : Tag), ((s.core ep).chan ch).work = some w → w.done < w.length →
      w.control / 2 ^ 19 % 2 = deal.toNat → w.src = .l a → ((s.core ep).lread (a + w.done) 8).2 = false → w.bad = false →
      fillTag (w.control / 2 ^ 24 % 32) = some t →
      (w.dst = .slot x ∧ q = ep) ∨ (∃ eps b, w.dst = .dealSlot x eps b ∧ eps[w.done / b]? = some q) →
      let evt := if deal then Instr.dealEntry ep ch else .porterEntry ep ch
      let w' := { w with done := w.done + 8, buf := w.buf ++ (s.core ep).lstore.read (a + w.done) 8 }
      let full := match w.dst with
        | .dealSlot _ _ b => (w.done + 8) % b = 0
        | _ => w.done + 8 = w.length
      let data := ofBytes (w'.buf.take 16384)
      let side := ofBytes (w'.buf.drop 16384)
      let free := ((s.core q).bank x).count = 0 ∧ ∀ h ∈ (s.core q).held, h.slot ≠ x
      (¬full → exec evt s = .next (s.modChan ep ch fun c => { c with work := some w' }))
      ∧ (full → free → exec evt s = .next ((s.setCore q ((s.core q).setBank x { (s.core q).bank x with
          data := BitVec.ofNat _ data, side := BitVec.ofNat _ side, tag := t })).modChan ep ch fun c =>
            { c with work := some { w' with buf := [] } }))
      ∧ (full → ¬free → ∃ h : HeldWrite, h.id = s.fresh ∧ h.slot = x ∧ h.data = BitVec.ofNat _ data ∧ h.side = BitVec.ofNat _ side ∧ h.tag = t
        ∧ exec evt s = .next ({ s.setCore q { s.core q with held := (s.core q).held ++ [h] } with fresh := s.fresh + 1 }.modChan ep ch
          fun c => { c with work := some { w' with buf := [], held := w.held ++ [(q, s.fresh)] } })))
    ∧ (∀ w, ((s.core ep).chan ch).work = some w → w.done < w.length → w.control / 2 ^ 19 % 2 = 0 →
      (∀ a b, w.src = .l a → w.dst = .l b → ((s.core ep).lread (a + w.done) 8).2 = false →
        exec (.porterEntry ep ch) s = .next ((s.modCore ep fun c =>
          c.lwrite (b + w.done) ((s.core ep).lstore.read (a + w.done) 8) false).modChan ep ch fun c =>
            { c with work := some { w with done := w.done + 8 } }))
      ∧ (∀ key k b, w.src = .ext key k → w.dst = .l b → (s.engineRead ep (key + w.done) (kindOf k) 8).2 = false →
        exec (.porterEntry ep ch) s = .next ((s.modCore ep fun c =>
          c.lwrite (b + w.done) (s.engineRead ep (key + w.done) (kindOf k) 8).1 false).modChan ep ch fun c =>
            { c with work := some { w with done := w.done + 8 } }))
      ∧ (∀ a key k, w.src = .l a → w.dst = .ext key k → ((s.core ep).lread (a + w.done) 8).2 = false → ∃ t n,
        s.engineWrite ep r.cap r.fir 0 (key + w.done) (kindOf k) ((s.core ep).lstore.read (a + w.done) 8) false = (t, n)
        ∧ exec (.porterEntry ep ch) s = .next (t.modChan ep ch fun c =>
            { c with work := some { w with done := w.done + 8, writes := w.writes ++ [n] } })))
    ∧ (∀ w a off eps b q, ((s.core ep).chan ch).work = some w → w.done < w.length → w.control / 2 ^ 19 % 2 = 1 →
      w.src = .l a → w.dst = .dealL off eps b → eps[w.done / b % eps.length]? = some q →
      ((s.core ep).lread (a + w.done) 8).2 = false →
      exec (.dealEntry ep ch) s = .next ((s.modCore q fun c => c.lwrite (off + w.done / b / eps.length * b + w.done % b)
        ((s.core ep).lstore.read (a + w.done) 8) false).modChan ep ch fun c => { c with work := some { w with done := w.done + 8 } }))
    ∧ (∀ w, ((s.core ep).chan ch).work = some w → w.length ≤ w.done → s.porterSettled w = true →
      (w.control / 2 ^ 19 % 2 = 0 → exec (.porterEntry ep ch) s = .next (s.porterFinish ep ch r w))
      ∧ (w.control / 2 ^ 19 % 2 = 1 → exec (.dealEntry ep ch) s = .next (s.porterFinish ep ch r w))
      ∧ let c := ((s.porterFinish ep ch r w).core ep).chan ch
        c.work = none ∧ c.doneSeq = w.seqNo ∧ c.status = w.status ∧ (w.status ≠ 0 → w.status ≠ 0x0C → c.halted = true)
        ∧ (w.control % 2 ^ 16 = 0xFFFF → w.status = 0 → (
(∀ j, ((s.core ep).term j).armed = 0) →
            c.reqs = if r.left ≤ 1 then rs else { r with left := r.left - 1, next := w.ptr, begun := true } :: rs)))

/-- Issue of the publication and remote instructions (10 R218 to R225). That the faults of rld's, rst's and ramo's operand values come before their access checks, and rcopy's alignment before its access checks, is the model's choice (log 29); where a second register of ramo's cas and the reserved bits of amsg and amsgc are checked is too (log 49), and so is that amsgc takes its code words from the image the firing runs (log 47). -/
def Obligations.RemoteInstructions : Prop :=
  ∀ (o : Ops) (s s1 : State) (v : Vals) (g : PBits),
    let t := o.mods.ty.getD .i64
    let p := v.a.word
    let chk := fun (p : Word) (n a need : Nat) => checkAccess s1.curCap s1.curSlot (ptrSlot p) (ptrOff p) n a need
    let joins := fun (i : Instr) (act : Act) (kind : OKind) (home : Nat) => ∃ it : Item,
      exec i s = .next (completed o.hdr (s1.addItem it .none .raw)) ∧ it.act = act ∧ it.kind = kind ∧ it.home = home
      ∧ it.id = s1.fresh ∧ it.fir = s1.curF.id ∧ it.cap = s1.curF.cap
    (ready { op := 0x2A0 } o s = .go s1 v g → ∀ key e,
      checkAccess s1.curCap s1.curSlot (ptrSlot v.d.word) ((ptrOff v.d.word : Int) + v.a.word.toInt) 256 256 permW = .ok key e →
      (remoteHome s1.curCore e.homeKey = true → s1.remoteFull = false) →
      joins (.qpub o) (.qpub key v.b.word { key := key + 252, w := 4, idx := 0 }) e.kind e.homeKey)
    ∧ (ready { op := 0x2C0 } o s = .go s1 v g →
      (v.d.word.toNat % 2 ^ 16 = 0xFFFF → exec (.rld o) s = .next (faulted s (fIllegal 0)))
      ∧ (v.d.word.toNat % 2 ^ 16 ≠ 0xFFFF → ∀ key e, chk p t.width t.width permR = .ok key e → s1.remoteFull = false →
        (remoteHome s1.curCore e.homeKey = true → joins (.rld o) (.rld v.d.word p t key) e.kind e.homeKey)
        ∧ (remoteHome s1.curCore e.homeKey = false → ∃ n, exec (.rld o) s = .next (faulted s ⟨0x07, p, n⟩))))
    ∧ (ready { op := 0x2C1 } o s = .go s1 v g → ∀ key e, chk p t.width t.width permW = .ok key e → s1.remoteFull = false →
      (remoteHome s1.curCore e.homeKey = true → joins (.rst o) (.rst v.d.word p key t.width v.b.word) e.kind e.homeKey)
      ∧ (remoteHome s1.curCore e.homeKey = false → ∃ n, exec (.rst o) s = .next (faulted s ⟨0x07, p, n⟩)))
    ∧ (ready { op := 0x2C2 } o s = .go s1 v g →
      (ramoOp (v.d.word.toNat / 2 ^ 16 % 16) t = none → exec (.ramo o) s = .next (faulted s (fIllegal 0)))
      ∧ (∀ op key e, ramoOp (v.d.word.toNat / 2 ^ 16 % 16) t = some op → chk p t.width t.width 0xB = .ok key e →
        remoteHome s1.curCore e.homeKey = true → s1.remoteFull = false →
        (op ≠ .cas → joins (.ramo o) (.ramo v.d.word p op t key v.b.word 0) e.kind e.homeKey)
        ∧ (∀ n lu, op = .cas → o.b = .s n lu → n.val % 2 = 0 → (v.old.sreg (n.val + 1)).pend = none →
          ((v.old.sreg (n.val + 1)).freed = true → s1.curCap.strict = false) → (v.old.sreg (n.val + 1)).poison = false →
          joins (.ramo o) (.ramo v.d.word p op t key (v.reg (n.val + 1)) v.b.word) e.kind e.homeKey)))
    ∧ (let sends := fun (i : Instr) (opcode ep handler : Nat) (code : List (BitVec 96)) (n : Nat) =>
        s1.overProduced = none → s1.cur.stream.length < 8 → s1.remoteFull = false → ∃ e : SendEnt,
        exec i s = .next (completed o.hdr
          ({ s1.modCur fun x => { x with stream := x.stream ++ [e] } with fresh := s1.fresh + 1 }.produce))
        ∧ e.addr = none ∧ e.endpoint = ep ∧ e.handler = handler ∧ e.code = code ∧ e.opcode = opcode
        ∧ e.fir = s1.curF.id ∧ e.cap = s1.curF.cap ∧ e.stamp = s1.cur.dline.toNat
        ∧ (e.w0, e.w1, e.w2, e.w3) = v.four n
      let d := v.d.word.toNat
      (∀ n lu, o.b = .s n lu → n.val ≤ 60 →
        (ready { op := 0x2C3, reads := fun o => blockReads 2 o.b } o s = .go s1 v g →
          let h := p.toNat
          (d < 2 ^ 16 → h < 2 ^ 48 → 0x100 ≤ h → h % 12 = 0 → sends (.amsg o) 0x2C3 d h [] n.val)
          ∧ (d < 2 ^ 16 → h = 6 → d % 1024 = 0 → sends (.amsg o) 0x2C3 d 6 [] n.val)
          ∧ (d < 2 ^ 16 → h < 0x100 → h ≠ 6 → exec (.amsg o) s = .next (faulted s (fIllegal 1))))
        ∧ (ready { op := 0x2C4, reads := fun o => blockReads 2 o.b } o s = .go s1 v g →
          ∀ code, d < 2 ^ 20 → ptrSlot p = 0 → ptrOff p % 12 = 0 →
          inlineWords s1 (ptrOff p / 12 : Nat) (d / 2 ^ 16 + 1) = .ok code →
          sends (.amsgc o) 0x2C4 (d % 65536) 0 code n.val)))
    ∧ (Operand.isVec o.a = false → ready
        { op := 0x2C5
          tags := fun _ _ v => if Operand.isVec o.a && v.a.tag != t then some (1, v.a.tag) else none } o s = .go s1 v g →
      (redOp v.b.word.toInt t.isFloat = none → exec (.red o) s = .next (faulted s (fIllegal 2)))
      ∧ (∀ op key e, redOp v.b.word.toInt t.isFloat = some op →
        checkAccess s1.curCap s1.curSlot (ptrSlot v.d.word) (ptrOff v.d.word) t.width t.width 0xA = .ok key e →
        (remoteHome s1.curCore e.homeKey = true → s1.remoteFull = false) →
        (e.window = true → joins (.red o) (.red v.d.word op t [(key, v.a.word)]) e.kind e.homeKey)
        ∧ (e.window = false → exec (.red o) s = .next (faulted s ⟨0x07, v.d.word, 0xA⟩))))
    ∧ (Operand.isVec o.a = true → ready
        { op := 0x2C5, guard := .fixed t.width
          tags := fun _ _ v => if Operand.isVec o.a && v.a.tag != t then some (1, v.a.tag) else none } o s = .go s1 v g →
      let w := t.width
      ∀ op key e lo hi, active g w lo = true → active g w hi = true → lo < 256 / w → hi < 256 / w →
        (∀ i, i < 256 / w → active g w i = true → lo ≤ i ∧ i ≤ hi) → redOp v.b.word.toInt t.isFloat = some op →
        checkAccess s1.curCap s1.curSlot (ptrSlot v.d.word) ((ptrOff v.d.word : Int) + w * lo) (w * (hi + 1) - w * lo) w 0xA
          = .ok key e → (remoteHome s1.curCore e.homeKey = true → s1.remoteFull = false) → e.window = true →
        joins (.red o) (.red v.d.word op t ((actives g w).map fun i =>
          (key + w * i - w * lo, BitVec.ofNat 64 (velem w v.a.vbits i)))) e.kind e.homeKey)
    ∧ (ready { op := 0x2C6 } o s = .go s1 v g →
      let n := v.b.word.toNat / 2 ^ 16 % 2 ^ 32
      (v.b.word.toNat < 2 ^ 48 → (n = 0 ∨ n % 8 ≠ 0) → exec (.rcopy o) s = .next (faulted s (fIllegal 2)))
      ∧ (v.b.word.toNat < 2 ^ 48 → n ≠ 0 → n % 8 = 0 → ptrOff v.d.word % 8 = 0 → ptrOff p % 8 = 0 → s1.remoteFull = false →
        ∀ skey a dkey b, chk p n 8 permR = .ok skey a → chk v.d.word n 8 permW = .ok dkey b → ∃ it : Item,
        exec (.rcopy o) s = .next (completed o.hdr (s1.addItem it .none .raw)) ∧ it.act = .rcopy v.d.word v.b.word skey dkey n a.kind))

/-- The events of remote requests (19 R368 to R371), active messages (10 R224) and fabric barriers (19 R376). -/
def Obligations.RemoteEvents : Prop :=
  ∀ (s : State) (idx : Nat) (r : Remote), s.remote[idx]? = some r →
    (r.performed = true → exec (.amsgAccept idx) s = .next s ∧ exec (.fabricBarrierArrival idx) s = .next s
      ∧ (s.outdated r = false → r.copies = 0 → exec (.remoteRequestPerform idx) s = .next s)
      ∧ (s.outdated r = false → r.copies ≠ 0 → exec (.remoteRequestPerform idx) s =
        .next (s.setRemote { r with copies := r.copies - 1, replies := r.replies + 1 })))
    ∧ (r.epoch < (s.chip r.chip).fabric.epochs.get 0 r.home →
      exec (.remoteRequestPerform idx) s = .next { s with remote := s.remote.filter fun q => q.id != r.id })
    ∧ (r.performed = false → s.outdated r = false → r.seqNo ≠ 0 → (r.kind = .store → s.remoteDone r = false) →
      (∃ q ∈ s.remote, q.ep = r.ep ∧ q.home = r.home ∧ q.gw = r.gw ∧ q.seqNo ≠ 0 ∧ (∀ a b c d e, q.kind ≠ .copy a b c d e)
        ∧ q.seqNo + 64 ≤ r.seqNo) →
      exec (.remoteRequestPerform idx) s = .next s ∧ exec (.amsgAccept idx) s = .next s
        ∧ exec (.fabricBarrierArrival idx) s = .next s)
    ∧ (r.performed = false → s.outdated r = false → r.seqNo ≠ 0 → s.inSequence r = true → s.inWindow r = true →
      s.reachable r.chip r.home = true →
      (∀ key w v, r.kind = .put key w v → ∃ e : Entry, exec (.remoteRequestPerform idx) s =
          .next ({ s with entries := s.entries ++ [e], fresh := s.fresh + 1 }.setRemote r.replied)
        ∧ e.place = .pod ∧ e.key = key ∧ e.bytes = toBytes w v.toNat ∧ e.op = none)
      ∧ (∀ op t key b cmp, r.kind = .amo op t key b cmp → s.atHome r.fir r.id [(key, t.width)] = false →
          exec (.remoteRequestPerform idx) s = .next s)
      ∧ (∀ op t key b cmp, r.kind = .amo op t key b cmp → s.atHome r.fir r.id [(key, t.width)] = true →
          poisonHit s.poison key t.width = false → exec (.remoteRequestPerform idx) s =
          .next ((s.writeM key (toBytes t.width (amoNew op t (ofBytes (s.mem.read key t.width))
            (b.toNat % 2 ^ (8 * t.width)) (cmp.toNat % 2 ^ (8 * t.width))))).setRemote
              { r.replied with status := 0, value := iwide t (ofBytes (s.mem.read key t.width)) }))
      ∧ (∀ key t, r.kind = .load key t → r.item = none → ∃ n, exec (.remoteRequestPerform idx) s =
          .next (s.setRemote { r.replied with
                                      status := if (s.readPath [.pod] key n t.width).2 then 0x0C else 0
                                      value := iwide t (ofBytes (s.readPath [.pod] key n t.width).1) })))
    ∧ (r.seqNo ≠ 0 → exec (.remoteResend idx) s = .next (s.setRemote { r with copies := r.copies + 1 }))
    ∧ (r.replied.performed = true ∧ r.replied.copies = r.copies - 1 ∧ r.replied.replies = r.replies + 1)
    ∧ (s.remoteDone r = false → exec (.remoteReplyReceive idx) s = .next s)
    ∧ (∀ w, s.remoteDone r = true → r.reply = some w → exec (.remoteReplyReceive idx) s =
        .next ({ s with remote := listDel s.remote idx }.postReply r w r.status r.value))
    ∧ (∀ chip peer, s.isMember chip peer = true → chip ≠ peer → (s.chip chip).fabric.unreachable.contains peer = false →
      let marked := s.modChip chip fun h => { h with fabric := { h.fabric with unreachable := h.fabric.unreachable ++ [peer] } }
      let settled := State.settleReductions peer s.entries.length marked
      ∃ u, exec (.peerUnreachable chip peer) s = .next u ∧ ((s.chips.find chip).isSome = true → u.reachable chip peer = false)
        ∧ (∀ q ∈ u.remote, q ∈ settled.remote ∧ (q.chip ≠ chip ∨ q.home ≠ peer)) ∧ u.mem = settled.mem)
    ∧ (∀ (t : State) peer n,
      ((∀ e ∈ t.entries, e.op.isSome = true → e.place = reductionGate e.key → homeOf e.key ≠ peer) →
        State.settleReductions peer n t = t)
      ∧ ∀ i e, t.entries[i]? = some e → e.op.isSome = true → e.place = reductionGate e.key → homeOf e.key = peer →
        (∀ j d, j < i → t.entries[j]? = some d → d.op.isSome = true → d.place = reductionGate d.key → homeOf d.key ≠ peer) →
        State.settleReductions peer (n + 1) t
          = State.settleReductions peer n ({ t with entries := listDel t.entries i }.entryToM e))
    ∧ (∀ chip peer, (s.chip chip).fabric.unreachable.contains peer = true → s.isMember chip peer = true → chip ≠ peer →
      (s.chips.find peer).isSome = true →
      ∃ u, exec (.epochOpen chip peer) s = .next u ∧ u.reachable chip peer = true
        ∧ (∀ q ∈ u.remote, (q.chip ≠ chip ∨ q.home ≠ peer) ∧ (q.chip ≠ peer ∨ q.home ≠ chip))
        ∧ ((∀ e ∈ s.entries, e.op.isSome = true → e.place = reductionGate e.key → homeOf e.key ≠ peer ∧ homeOf e.key ≠ chip) →
          u.mem = s.mem ∧ ∀ q ∈ u.remote, q ∈ s.remote)
        ∧ (u.chip chip).fabric.epochs.get 0 peer = (u.chip peer).fabric.epochs.get 0 chip
        ∧ (s.chip chip).fabric.epochs.get 0 peer < (u.chip chip).fabric.epochs.get 0 peer
        ∧ (s.chip peer).fabric.epochs.get 0 chip < (u.chip peer).fabric.epochs.get 0 chip)
    ∧ (∀ target handler w0 w1 w2 w3 stamp cap addr, r.kind = .amsg target handler [] w0 w1 w2 w3 stamp → r.performed = false →
      s.inSequence r = true → s.inWindow r = true → (∀ q ∈ s.remote.take idx, q.ep ≠ r.ep ∨ q.performed = true) →
      s.acceptActive r.cap target handler [] = .take cap addr none →
      exec (.amsgAccept idx) s = .next ((s.setRemote r.replied).place cap addr
        { w0 := w0, w1 := w1, w2 := w2, w3 := w3, stamp := stamp, handler := handler, inline := none }))
    ∧ (∀ w0 w1 w2 w3 stamp, r.kind = .barrier w0 w1 w2 w3 stamp → r.performed = false →
      s.inSequence r = true → s.inWindow r = true → exec (.fabricBarrierArrival idx) s = .next ((s.setRemote r.replied).arrive r w0 w1 w2 w3 stamp))

/-- Messages and work queues (14 R275 to R282), and the two events that deliver messages. A message that goes into the mailbox of an actor being moved (`emptiesInto`) and what `ranOut` keeps from its clause are the model's choices (logs 38, 39); the entries a queue of a continuation holds past 256 (`late`) are too (log 50). -/
def Obligations.MessagesAndQueues : Prop :=
  (∀ (o : Ops) (s s1 : State) (v : Vals) (g : PBits),
    let f := s1.curF
    (∀ n lu, o.a = .s n lu → n.val ≤ 60 → ready { op := 0x300, reads := fun o => blockReads 1 o.a } o s = .go s1 v g →
      s1.cur.stream.length < 8 →
      let a := v.d.word.toNat
      (a < 2 ^ 16 → s1.curCap.boxTy a ≠ some 0 → exec (.send o) s = .next (faulted s ⟨0x0E, v.d.word, 0⟩))
      ∧ (∀ p, a < 2 ^ 16 → s1.curCap.boxTy a = some 0 → s1.overProduced = some p →
          exec (.send o) s = .next (faulted s ⟨0x0F, v.d.word, BitVec.ofNat 64 p⟩))
      ∧ (a < 2 ^ 16 → s1.curCap.boxTy a = some 0 → s1.overProduced = none → ∃ e : SendEnt,
        exec (.send o) s = .next (completed o.hdr
          ({ s1.modCur fun x => { x with stream := x.stream ++ [e] } with fresh := s1.fresh + 1 }.produce))
        ∧ e.addr = some a ∧ e.fir = f.id ∧ e.cap = f.cap ∧ e.stamp = s1.cur.dline.toNat ∧ e.after = s1.fresh
        ∧ (e.w0, e.w1, e.w2, e.w3) = v.four n.val))
    ∧ (∀ n lu b, o.d = .s n lu → n.val ≤ 60 → s1.ownBox v.a.word.toInt = some b → b.ty ≠ 2 →
      (ready { op := 0x301, writes := fun o => blockWrites 3 o.d } o s = .go s1 v g →
        (∀ i m, b.nextMsg = some (i, m) →
          exec (.recv o) s = .next (completed o.hdr (s1.takeMsg v.a.word.toInt.toNat b i m n.val)))
        ∧ (b.msgs = [] → exec (.recv o) s = .next s))
      ∧ (ready { op := 0x302, writes := fun o => blockWrites 3 o.d } o s = .go s1 v g →
        (∀ i m, b.nextMsg = some (i, m) →
          exec (.recvW o) s = .next (completed o.hdr (s1.takeMsg v.a.word.toInt.toNat b i m n.val)))
        ∧ (b.msgs = [] → f.shadow = none → s1.settled f = true →
          exec (.recvW o) s = .next ((s1.endFiring s1.curCore s1.curSlot f none).issued o.hdr))))
    ∧ (∀ n lu (q : Nat) h key, o.d = .s n lu → n.val ≤ 59 → v.a.word = BitVec.ofNat 64 q → q ≤ 15 →
      (s1.chip (chipOf s1.curCore)).bind f.cap (dieOf s1.curCore % 4) q = some (h, key) →
      let t := { s1 with chips := s1.chips.put (chipOf s1.curCore) h }
      let w := h.wq key
      let waits := t.modChip (chipOf s1.curCore) fun x => x.setWq key { w with waiters := w.waiters ++ [f.actor] }
      let runs := fun (i : Instr) =>
        (∀ e, t.heldEntry q = some e → exec i s = .next (completed o.hdr
          ((t.modActor f.cap f.actor fun a => a.dropHeld e).setBlock n.val [0, e.w0, e.w1, e.w2, e.w3])))
        ∧ (∀ e es, t.heldEntry q = none → w.entries = e :: es → exec i s = .next (completed o.hdr
          ((t.modChip (chipOf s1.curCore) fun x => x.setWq key { w with
            entries := es ++ w.late.take 1, late := w.late.drop 1 }).setBlock n.val
            [0, e.w0, e.w1, e.w2, e.w3])))
        ∧ (t.heldEntry q = none → w.entries = [] → w.closed = true → exec i s = .next (completed o.hdr (t.setS n.val 2)))
      (ready { op := 0x303, writes := fun o => blockWrites 4 o.d } o s = .go s1 v g → runs (.pop o)
        ∧ (t.heldEntry q = none → w.entries = [] → w.closed = false → exec (.pop o) s = .next (completed o.hdr (t.setS n.val 1))))
      ∧ (ready { op := 0x304, writes := fun o => blockWrites 4 o.d } o s = .go s1 v g → runs (.popW o)
        ∧ (t.heldEntry q = none → w.entries = [] → w.closed = false → f.kind ≠ .actor →
          exec (.popW o) s = .next (completed o.hdr (t.setS n.val 1)))
        ∧ (t.heldEntry q = none → w.entries = [] → w.closed = false → f.kind = .actor → f.shadow = none →
          (waits.settled f = true → exec (.popW o) s
            = .next ((waits.endFiring s1.curCore s1.curSlot f (some (dieOf s1.curCore % 4, q))).issued o.hdr))
          ∧ (waits.settled f = false → exec (.popW o) s
            = .next ((waits.modCur fun x => { x with wait := .ending (some (dieOf s1.curCore % 4, q)) }).issued o.hdr)))))
    ∧ (∀ n lu (q : Nat) h key, o.a = .s n lu → n.val ≤ 60 → v.b.word = BitVec.ofNat 64 q → q ≤ 15 →
      (s1.chip (chipOf s1.curCore)).bind f.cap (dieOf s1.curCore % 4) q = some (h, key) →
      ready { op := 0x305, reads := fun o => blockReads 1 o.a } o s = .go s1 v g →
      let t := { s1 with chips := s1.chips.put (chipOf s1.curCore) h }
      ((h.wq key).closed = true → exec (.push o) s = .next (completed o.hdr (t.putS o.d 2)))
      ∧ ((h.wq key).closed = false → (h.wq key).entries.length < Config.workQueueDepth → ∃ it : Item,
        exec (.push o) s = .next (completed o.hdr (t.addItem it o.d .raw)) ∧ it.dst = dstOf o.d ∧ it.rel = some .die
        ∧ it.act = .push key (v.reg n.val) (v.reg (n.val + 1)) (v.reg (n.val + 2)) (v.reg (n.val + 3))))
    ∧ (∀ (q : Nat) h key, v.d.word = BitVec.ofNat 64 q → q ≤ 15 →
      (s1.chip (chipOf s1.curCore)).bind f.cap (dieOf s1.curCore % 4) q = some (h, key) →
      ready { op := 0x306 } o s = .go s1 v g → ∃ it : Item, exec (.qclose o) s = .next (completed o.hdr
        ({ s1 with chips := s1.chips.put (chipOf s1.curCore) h }.addItem it .none .raw)) ∧ it.act = .qclose key))
  ∧ (∀ (s : State) (ep k idx a : Nat) (e : SendEnt) (t : Actor), (s.slot ep k).stream[idx]? = some e → e.addr = some a →
      (s.cap e.cap).actors[a / 16]? = some t →
      let gone := s.modSlot ep k fun x => { x with stream := listDel x.stream idx }
      ((∀ p ∈ (s.slot ep k).stream.take idx, p.target ≠ e.target) → s.sendReady e.fir e.after (sharedScope ep t.ep) = true →
        (s.boxRoom e.cap a || s.emptiesInto ep e.cap a) = true → exec (.sendStreamDeliver ep k idx) s =
          .next (gone.place e.cap a { w0 := e.w0, w1 := e.w1, w2 := e.w2, w3 := e.w3, stamp := e.stamp }))
      ∧ ((∃ p ∈ (s.slot ep k).stream.take idx, p.target = e.target) → exec (.sendStreamDeliver ep k idx) s = .next s)
      ∧ (s.boxRoom e.cap a = false → (s.core ep).vacating = false → s.ranOut e.cap = false → exec (.sendStreamDeliver ep k idx) s = .next s))
  ∧ (∀ (s : State) (idx : Nat) (h : HeldMsg), s.held[idx]? = some h → (s.caps.find h.cap).isSome = true →
      s.boxRoom h.cap h.addr = true →
      (∀ m ∈ s.held.take idx, m.src ≠ h.src ∨ m.cap ≠ h.cap ∨ m.addr ≠ h.addr) →
      exec (.heldMessagePlace idx) s = .next ({ s with held := listDel s.held idx }.place h.cap h.addr h.msg))
  ∧ ∀ (s : State) (cap addr : Nat) (m : Msg) (c : Capsule) (a : Actor) (b : Mailbox), s.caps.find cap = some c →
      c.actors[addr / 16]? = some a → a.boxes.find (addr % 16) = some b →
      ∃ b' : Mailbox, ((s.place cap addr m).cap cap).box addr = some b' ∧ b'.msgs = b.msgs ++ [m] ∧ b'.ty = b.ty

/-- Tasks (14 R283 to R285) and the engines of the execution model (13). That a stolen record and the hawker's transfer take effect at once is the model's choice (log 8); the step at which spawn reads its card is too (log 46). -/
def Obligations.TasksAndDispatch : Prop :=
  (∀ (o : Ops) (s s1 : State) (v : Vals) (g : PBits),
    let chk := fun (p : Word) (n a need : Nat) => checkAccess s1.curCap s1.curSlot (ptrSlot p) (ptrOff p) n a need
    let joins := fun (i : Instr) (act : Act) => ∃ it : Item,
      exec i s = .next (completed o.hdr (s1.addItem it o.d .raw)) ∧ it.act = act ∧ it.dst = dstOf o.d ∧ it.rel = some .die
      ∧ it.id = s1.fresh ∧ it.fir = s1.curF.id
    (ready { op := 0x307 } o s = .go s1 v g → ∀ key e, chk v.a.word 64 64 permR = .ok key e →
      (remoteHome s1.curCore e.homeKey = true → s1.remoteFull = false) → joins (.fork o) (.fork key s1.cur.dline.toNat))
    ∧ (ready { op := 0x308 } o s = .go s1 v g → ∀ key e ckey c, chk v.a.word 8 8 0xB = .ok key e →
      chk v.b.word 64 64 permR = .ok ckey c → s1.remoteFull = false →
      joins (.join o) (.join key ckey c.kind v.b.word s1.cur.dline.toNat))
    ∧ (ready { op := 0x309 } o s = .go s1 v g → ∀ key e, chk v.a.word 128 64 permR = .ok key e →
      (remoteHome s1.curCore e.homeKey = true → s1.remoteFull = false) →
      let load := (s1.newItem 0x309 (.load [{ key := key, w := 128, idx := 0 }] .raw false false)).through (ptrSlot v.a.word) e v.a.word
      let r := s1.readPath (readPlaces s1.curF.id s1.curCore e.homeKey e.kind) key s1.tick 128
      let card := r.1.take 4 ++ toBytes 4 s1.cur.dline.toNat ++ r.1.drop 8
      (s1.plainReady load = false → exec (.spawn o) s = .next s)
      ∧ (s1.plainReady load = true → (remoteHome s1.curCore e.homeKey = true → s1.reachable (chipOf s1.curCore) e.homeKey = true) →
        (s1.behindOwn load = false → exec (.spawn o) s = .next s) ∧ (s1.behindOwn load = true →
        (r.2 = true → exec (.spawn o) s = .next (completed o.hdr ((s1.ras s1.curCore).putSP o.d 0 true)))
        ∧ (r.2 = false → (cardChip card ≠ chipOf s1.curCore → s1.remoteFull = false) →
          joins (.spawn o) (.spawn card s1.cur.dline.toNat))))))
  ∧ ∀ (s : State) (ep k : Nat),
    (∀ i r c rs, s.dispatching ep = true → State.refill 2 s ep = c → (c.core ep).freeSlot = some k → (c.core ep).ready = rs →
      chooseReady rs = some i → rs[i]? = some r →
      exec (.dispatch ep) s = .next ((c.setCore ep { c.core ep with ready := takeReady i rs }).startJob ep k r))
    ∧ (∀ (c : State) (r : Ready) (t : Task), r.job = .task t → (c.cap r.cap).farCode ep = none →
      let x := (c.startJob ep k r).slot ep k
      let b := if t.budget = 0 then 2 ^ 32 else t.budget
      (∃ f, x.firing = some f ∧ f.kind = .task ∧ f.budget = b ∧ f.budget0 = b ∧ f.cap = r.cap ∧ f.stamp = r.stamp
        ∧ f.pc = codeEntry (c.codeImage r.cap (chipOf ep)) t.entry)
      ∧ x.sreg 4 = { val := t.a0 } ∧ x.sreg 5 = { val := t.a1 } ∧ x.sreg 6 = { val := t.a2 } ∧ x.sreg 7 = { val := t.a3 }
      ∧ x.sreg 8 = { val := t.join } ∧ (x.sreg 9).freed = true ∧ (x.sreg 30).freed = false ∧ (x.vreg 0).tag = .freed
      ∧ x.dline = BitVec.ofNat 32 r.stamp ∧ x.fstat = 0 ∧ x.srseed = 0)
    ∧ (s.dispatching ep = false → exec (.dispatch ep) s = .next s)
    ∧ (∀ cap v t c', (s.core ep).cap = some cap → s.dispatching ep = true → (s.core ep).ready = [] → (s.core ep).deque = [] →
      (s.core ep).freeSlot.isSome = true → s.taskRoom ep = true →
      s.fullest ((s.squareCores (squareOf ep) cap).filter (· != ep)) = some v → (s.core v).topTask = some (t, c') → v ≠ ep →
      exec (.steal ep) s = .next ((s.setCore v c').modCore ep fun x => { x with ready := x.ready ++ [{ job := .task t, cap := cap, stamp := t.stamp }] }))
    ∧ (∀ f, (s.slot ep k).firing = some f → f.budget = 0 → s.spcHeld f.id = false → (∀ ids y, (s.slot ep k).wait ≠ .mwait ids y) →
      exec (.budgetExhausted ep k) s = .next (s.takeFault ep k ⟨0x0B, BitVec.ofNat 64 f.budget0, 0⟩ clsImprecise f.pc f.pc))
    ∧ (∀ f, (s.slot ep k).firing = some f → f.budget ≠ 0 → exec (.budgetExhausted ep k) s = .next s)
    ∧ (∀ chip die sq, (∀ e ∈ s.caps, e.2.late = []) → (∀ e ∈ s.caps, s.squareCores (chip * 256 + die * 64 + sq) e.1 = []) →
      exec (.hawkerBalance chip die sq) s = .next s)
    ∧ (∀ chip die, (∀ e ∈ s.caps, (s.cap e.1).rings = []) → exec (.governorMove chip die) s = .next s)
    ∧ (∀ chip die, (∀ e ∈ s.caps, e.2.lateNodes = []) → (s.chip chip).pools.get [] die = [] → exec (.readyPoolNode chip die) s = .next s)
    ∧ (∀ chip die sq cap q, (∀ e ∈ s.caps, e.2.late = []) → s.caps.map Prod.fst = [cap] → let a := chip * 256 + die * 64 + sq
      s.leastSquare cap ((neighbours a).filter fun x => !(s.squareCores x cap).isEmpty) = some q →
      s.squareLoad q cap + 8 < s.squareLoad a cap → exec (.hawkerBalance chip die sq) s =
        .next (State.ship (min 32 ((s.squareLoad a cap - s.squareLoad q cap) / 2)) s (s.squareCores a cap) (s.squareCores q cap)))
    ∧ (∀ n src dst a b t c', s.fullest src = some a → s.emptiest dst = some b → (s.core a).topTask = some (t, c') →
      (s.core b).deque.length < Config.dequeDepth → State.ship (n + 1) s src dst =
        State.ship n ((s.setCore a c').modCore b fun x => { x with deque := t :: x.deque }) src dst)
    ∧ (∀ chip die n q, (∀ e ∈ s.caps, e.2.lateNodes = []) → (s.chip chip).pools.get [] die = [n] → n.target = some q → cardTiles n.card ≤ n.tile →
      (∀ h ∈ (s.core q).held, n.waiting.contains h.id = false) → s.taskRoom q = true → ∃ t : Task,
      t.entry = lget n.card 0 4 ∧ t.stamp = lget n.card 4 4 ∧ t.budget = lget n.card 8 4
      ∧ exec (.readyPoolNode chip die) s = .next ((s.modCore q fun c =>
          { c with ready := c.ready ++ [{ job := .node t, cap := n.cap, stamp := t.stamp, card := n.card, ptr := n.ptr
                                          src := n.src, view := n.slot }] }).modChip chip fun h =>
            { h with pools := h.pools.put die (listDel (h.pools.get [] die) 0) }))
    ∧ ∀ chip die cap q u e, s.caps.map Prod.fst = [cap] → (s.cap cap).chip = chip → 15 ≤ (s.cap cap).rings.length →
      let ring := fun i => (s.cap cap).rings.get { queue := 0, low := 0, high := 0 } i
      let load := fun i => (s.chip chip).occupancy cap die (ring i).queue
      bestOf load true ((List.range 15).filter fun i => decide ((ring i).high ≤ load i)) = some q →
      bestOf (fun i => load (i - 1)) false (((List.range 16).drop 1).filter fun i => i != q + 1 &&
        decide (2 ≤ ((s.cap cap).stageCores chip die i).length) && decide (load (i - 1) ≤ (ring (i - 1)).low)) = some u →
      ((s.cap cap).stageCores chip die u).getLast? = some e →
      exec (.governorMove chip die) s = .next (s.modCap cap fun c =>
        { c with actors := c.actors.map fun a => if a.ep = e then { a with stage := q + 1 } else a })

/-- Phasers (14 R286 to R293). That a signal for a phase which is not P is not counted, and that a change of mode keeps sp and wp, are the model's choices (log 31). -/
def Obligations.Phasers : Prop :=
  (∀ (o : Ops) (s s1 : State) (v : Vals) (g : PBits) (h : Word) (key gen : Nat) (p : Phaser) (m : Member),
    phKey h = some (key, gen) → s1.livePhaser key gen = some p → s1.curF.isActor = true →
    p.member s1.curF.cap s1.curF.actor = some m →
    let at_ := s1.phAt key gen
    let waited := s1.setPhaser at_ (p.setMember { m with wp := m.wp + 1 })
    let signalled := fun (t : State) => t.setPhaser at_ (p.setMember { m with sp := m.sp + 1 })
    let holds := fun (t : State) (limit : Option Nat) (d : Operand) =>
      let w : PhWait := { id := t.fresh, fir := t.curF.id, cap := t.curF.cap, actor := t.curF.actor, slot := t.curSlot, key := at_
                          gen := p.gen, limit := limit, dst := dstOf d }
      (({ t.pendD d t.fresh .raw with fresh := t.fresh + 1 }.modCurC fun c => { c with phWaits := c.phWaits ++ [w] }).modCur
        fun x => { x with wait := .item w.id }).advance
    let joins := fun (i : Instr) (act : Act) (fin : State → State) => ∃ it : Item,
      exec i s = .next (completed o.hdr (fin (s1.addItem it .none .raw))) ∧ it.act = act ∧ it.id = s1.fresh ∧ it.fir = s1.curF.id
    (v.d.word = h → ready { op := 0x312 } o s = .go s1 v g →
      (m.mode ≠ 2 → m.sp ≤ m.known → joins (.phSig o) (.phSig at_ p.gen m.actor m.sp) signalled)
      ∧ (m.mode ≠ 2 → m.known < m.sp → exec (.phSig o) s = .next s)
      ∧ (m.mode = 2 → exec (.phSig o) s = .next (faulted s (fIllegal 0))))
    ∧ (v.d.word = h → ready { op := 0x313 } o s = .go s1 v g →
      (m.mode ≠ 1 → m.wp < m.known → exec (.phWait o) s = .next (completed o.hdr waited))
      ∧ (m.mode ≠ 1 → m.known ≤ m.wp → exec (.phWait o) s = .next s)
      ∧ (m.mode = 1 → exec (.phWait o) s = .next (faulted s (fIllegal 0))))
    ∧ (v.d.word = h → ready { op := 0x314 } o s = .go s1 v g →
      (m.mode = 3 → m.sp ≤ m.known → ∃ it : Item, it.act = .phSig at_ p.gen m.actor m.sp ∧ it.id = s1.fresh ∧
        exec (.phSw o) s = .next ((holds (signalled (s1.addItem it .none .raw)) none .none).issued o.hdr))
      ∧ (m.mode = 3 → m.known < m.sp → exec (.phSw o) s = .next s)
      ∧ (m.mode ≠ 3 → exec (.phSw o) s = .next (faulted s (fIllegal 0))))
    ∧ (v.a.word = h → ready { op := 0x315 } o s = .go s1 v g →
      (m.mode ≠ 1 → exec (.phTwait o) s
        = .next ((holds s1 (some (s1.curC.cycles.toNat + v.b.word.toNat % 2 ^ 32)) o.d).issued o.hdr))
      ∧ (m.mode = 1 → exec (.phTwait o) s = .next (faulted s (fIllegal 1))))
    ∧ (v.d.word = h → ready { op := 0x311 } o s = .go s1 v g → joins (.phDrop o) (.phDrop at_ p.gen m.actor) id)
    ∧ (v.a.word = h → ready { op := 0x316 } o s = .go s1 v g → exec (.phStat o) s =
        .next (completed o.hdr (s1.phRequest key gen .stat o.d)))
    ∧ (v.a.word = h → v.a.isImm = false → ready { op := 0x310 } o s = .go s1 v g → ∀ n : Nat, 1 ≤ n → n ≤ 3 → v.b.word = BitVec.ofNat 64 n →
        exec (.phReg o) s = .next (completed o.hdr (s1.phRequest key gen (.register n) o.d))))
  ∧ (∀ (o : Ops) (s s1 : State) (v : Vals) (g : PBits) (n : Nat), ready { op := 0x310 } o s = .go s1 v g →
    s1.curF.isActor = true → 1 ≤ n → n ≤ 3 → v.b.word = BitVec.ofNat 64 n → v.a.isImm = true → v.a.word = 0 →
    exec (.phReg o) s = .next (completed o.hdr ((s1.createPhaser n).1.putS o.d (s1.createPhaser n).2))
    ∧ ∀ i, i < Config.phaserCount → (s1.phaser (s1.curCore * 128 + i)).live = false →
        (∀ j, j < i → (s1.phaser (s1.curCore * 128 + j)).live = true) → s1.memberRecords s1.curCore < Config.memberCount →
        let gen := (s1.phaser (s1.curCore * 128 + i)).gen
        s1.createPhaser n = (s1.setPhaser (s1.curCore * 128 + i)
            { gen := gen, live := true, cap := s1.curF.cap,
              members := [{ cap := s1.curF.cap, actor := s1.curF.actor, ep := s1.curCore, mode := n, sp := 0, wp := 0 }] },
          phHandle (s1.curCore * 128 + i) gen))
  ∧ (∀ (o : Ops) (s s1 : State) (v : Vals) (g : PBits) (h : Word), (phKey h = none
      ∨ ∃ key gen, phKey h = some (key, gen) ∧ (s1.livePhaser key gen = none ∨ s1.curF.isActor = false
        ∨ ∃ p, s1.livePhaser key gen = some p ∧ p.member s1.curF.cap s1.curF.actor = none)) →
    (v.a.word = h → ready { op := 0x315 } o s = .go s1 v g → exec (.phTwait o) s = .next (faulted s ⟨0x0E, h, 0⟩))
    ∧ (v.d.word = h →
    (ready { op := 0x312 } o s = .go s1 v g → exec (.phSig o) s = .next (faulted s ⟨0x0E, h, 0⟩))
    ∧ (ready { op := 0x313 } o s = .go s1 v g → exec (.phWait o) s = .next (faulted s ⟨0x0E, h, 0⟩))
    ∧ (ready { op := 0x314 } o s = .go s1 v g → exec (.phSw o) s = .next (faulted s ⟨0x0E, h, 0⟩))
    ∧ (ready { op := 0x311 } o s = .go s1 v g → exec (.phDrop o) s = .next (faulted s ⟨0x0E, h, 0⟩))))
  ∧ (∀ (p : Phaser) (sp : Nat),
      (sp ≠ p.phase → p.arrive sp = p)
      ∧ (sp = p.phase → p.arrivals + 1 < p.signallers → p.arrive sp = { p with arrivals := p.arrivals + 1 })
      ∧ (sp = p.phase → 1 ≤ p.signallers → p.signallers ≤ p.arrivals + 1 →
          (p.arrive sp).phase = p.phase + 1 ∧ (p.arrive sp).arrivals = 0 ∧ (p.arrive sp).left = 0
          ∧ (p.arrive sp).gen = p.gen ∧ (p.arrive sp).live = p.live ∧ (p.arrive sp).members.length = p.members.length))
  ∧ (∀ (s : State) (idx pick key gen actor : Nat) (it : Item) (p : Phaser), s.iq[idx]? = some it → s.livePhaser key gen = some p →
      s.barred it = false → s.relReady it p.scope = true → s.phq = [] →
      (∀ sp, it.act = .phSig key gen actor sp → exec (.issueQueuePerform idx pick) s
        = .next (((s.setPhaser (s.phAt key gen) (p.arrive sp)).released it.ep p.scope).done it))
      ∧ (it.act = .phDrop key gen actor → exec (.issueQueuePerform idx pick) s
        = .next (((s.setPhaser (s.phAt key gen) (p.drop it.cap actor)).released it.ep p.scope).done it)))
  ∧ (∀ (s : State) (idx : Nat) (r : PhReq) (p : Phaser), s.phq[idx]? = some r →
      (∀ q ∈ s.phq.take idx, q.key ≠ r.key ∨ q.cap ≠ r.cap ∨ q.actor ≠ r.actor) → s.livePhaser r.key r.gen = some p →
      let t := { s with phq := listDel s.phq idx }
      (r.act = .stat → exec (.phaserArbiterStep (r.key / 128) idx) s = .next (t.arriveS r.ep r.slot r.dst r.id
          (BitVec.ofNat 64 (2 ^ 63 + p.phase % 65536 * 2 ^ 32 + p.signallers % 65536 * 2 ^ 16 + p.arrivals % 65536)) false))
      ∧ ∀ mode, r.act = .register mode → exec (.phaserArbiterStep (r.key / 128) idx) s
        = .next ((t.setPhaser (s.phAt r.key r.gen) (t.registerMember r p mode).1).arriveS r.ep r.slot r.dst r.id
          (t.registerMember r p mode).2 false))
  ∧ (∀ (s : State) (r : PhReq) (p : Phaser) (mode : Nat),
      (∀ m, p.member r.cap r.actor = some m → p.arrivals = 0 →
        s.registerMember r p mode = (p.setMember { m with mode := mode, pending := none }, phHandle r.key r.gen))
      ∧ (∀ m, p.member r.cap r.actor = some m → p.arrivals ≠ 0 →
        s.registerMember r p mode = (p.setMember { m with pending := some mode }, phHandle r.key r.gen))
      ∧ (p.member r.cap r.actor = none → s.accepts r.cap p.cap = false → s.registerMember r p mode = (p, 0))
      ∧ (p.member r.cap r.actor = none → s.accepts r.cap p.cap = true → s.memberRecords r.ep < Config.memberCount →
        p.members.length < 65535 →
        let late := decide (p.arrivals ≠ 0)
        let n := if late then p.phase + 1 else p.phase
        let m : Member :=
          { cap := r.cap, actor := r.actor, ep := r.ep, mode := mode, sp := n, wp := n, joining := late, known := p.phase }
        s.registerMember r p mode = ({ p with members := p.members ++ [m] }, phHandle r.key r.gen)))
  ∧ (∀ (s : State) (ep home i : Nat), ∃ u, exec (.phaserCompletionNotice ep home i) s = .next u ∧ ∀ key,
      (key % 2 ^ 24 = home * 128 + i → (s.phaser key).live = true → u.phaser key = { s.phaser key with
        members := (s.phaser key).members.map fun m => if m.ep = ep then { m with known := (s.phaser key).phase } else m })
      ∧ (key % 2 ^ 24 ≠ home * 128 + i ∨ (s.phaser key).live = false → u.phaser key = s.phaser key))
  ∧ (∀ (s : State) (ep now : Nat) (w : PhWait) (p : Phaser) (m : Member), s.livePhaser w.key w.gen = some p →
      p.member w.cap w.actor = some m →
      let waited := s.setPhaser (s.phAt w.key w.gen) (p.setMember { m with wp := m.wp + 1 })
      (w.limit = none → m.wp < m.known → s.phWaitTest ep now w = waited.phReturn ep w 0)
      ∧ (w.limit = none → m.known ≤ m.wp → s.phWaitTest ep now w = s)
      ∧ ∀ l, w.limit = some l →
        (m.wp < m.known → now ≤ l → s.phWaitTest ep now w = waited.phReturn ep w 0)
        ∧ (m.wp < m.known → l < now → s.phWaitTest ep now w = s.phReturn ep w 1)
        ∧ (m.known ≤ m.wp → l ≤ now → s.phWaitTest ep now w = s.phReturn ep w 1)
        ∧ (m.known ≤ m.wp → now < l → s.phWaitTest ep now w = s))
  ∧ ∀ (s : State) (ep : Nat) (w : PhWait) (x : Word),
      ((s.slot ep w.slot).wait = .item w.id → ((s.phReturn ep w x).slot ep w.slot).wait = .none)
      ∧ (∀ l, (s.core ep).phWaits = [w] → w.limit = some l → l < (s.core ep).cycles.toNat →
          exec (.phTwaitExpiry ep w.slot) s = .next (s.phReturn ep w 1))

/-- The event crossbar (14 R294 to R298), stages (R299) and the budget (R300). -/
def Obligations.CrossbarAndControl : Prop :=
  (∀ (o : Ops) (s s1 : State) (v : Vals) (g : PBits),
    let d := (Operand.val o.d).word.toInt
    let n := d.toNat
    (ready { op := 0x320 } o s = .go s1 v g →
      (∀ k, 0 ≤ d → d < 16 → counterOf v.a.word.toNat = some k → exec (.evcfg o) s = .next (completed o.hdr
        (s1.modCurC fun c => { c with counters := c.counters.put n k })))
      ∧ (∀ t, 16 ≤ d → d ≤ 23 → termOf v.a.word.toNat = some t → exec (.evcfg o) s = .next (completed o.hdr
        (s1.modCurC fun c => { c with terms := c.terms.put (n - 16) t })))
      ∧ (0 ≤ d → d < 16 → counterOf v.a.word.toNat = none → exec (.evcfg o) s = .next (faulted s ⟨0x03, 0xFFFF, 0⟩))
      ∧ (16 ≤ d → d ≤ 23 → termOf v.a.word.toNat = none → exec (.evcfg o) s = .next (faulted s ⟨0x03, 0xFFFF, 0⟩))
      ∧ (d < 0 ∨ 23 < d → exec (.evcfg o) s = .next (faulted s (fIllegal 0))))
    ∧ (ready { op := 0x321 } o s = .go s1 v g →
      (0 ≤ d → d ≤ 7 → v.a.word.toNat ≤ 0xFFFF → exec (.evarm o) s = .next (completed o.hdr ((s1.modCurC fun c =>
        { c with terms := c.terms.put n { c.term n with
            armed := v.a.word.toNat, stamp := s1.cur.dline.toNat, fir := s1.curF.id, view := s1.curSlot } }).testTerms s1.curCore)))
      ∧ (0 ≤ d → d ≤ 7 → 0xFFFF < v.a.word.toNat → exec (.evarm o) s = .next (faulted s (fIllegal 1)))
      ∧ (d < 0 ∨ 7 < d → exec (.evarm o) s = .next (faulted s (fIllegal 0))))
    ∧ (ready { op := 0x322 } o s = .go s1 v g →
      (0 ≤ d → d ≤ 15 → ∃ it : Item, exec (.evpulse o) s = .next (completed o.hdr (s1.addItem it .none .raw))
        ∧ it.act = .evpulse n ∧ it.id = s1.fresh ∧ it.fir = s1.curF.id ∧ it.ep = s1.curCore)
      ∧ (d < 0 ∨ 15 < d → exec (.evpulse o) s = .next (faulted s (fIllegal 0)))))
  ∧ (∀ (o : Ops) (s s1 : State) (v : Vals) (g : PBits),
    (ready { op := 0x318 } o s = .go s1 v g →
      let n := v.a.word.toNat
      let i := n % 32
      let gives := fun (x : Nat) => exec (.qstat o) s = .next (completed o.hdr (s1.putS o.d (BitVec.ofNat 64 x)))
      let stops := exec (.qstat o) s = .next (faulted s (fIllegal 1))
      let bound := (s1.chip (chipOf s1.curCore)).boundQueue (dieOf s1.curCore % 4) i s1.curF.cap
      (n < 16 → bound = none → gives 0)
      ∧ (∀ k, n < 16 → bound = some k →
        let w := (s1.chip (chipOf s1.curCore)).wq k
        gives (w.waiters.length * 2 ^ 16 + w.closed.toNat * 2 ^ 9 + w.entries.length))
      ∧ (∀ b, 64 ≤ n → n < 80 → s1.ownBox i = some b →
        gives (b.ty * 2 ^ 12 + (b.msgs.filter Msg.reserved).length * 2 ^ 8 + b.msgs.length))
      ∧ (64 ≤ n → n < 80 → s1.ownBox i = none → stops)
      ∧ (128 ≤ n → n < 140 → gives (s1.curC.sq' i).length)
      ∧ (140 ≤ n → n < 144 → gives (s1.curC.vq' i).length)
      ∧ (192 ≤ n → n < 208 →
        let k := s1.curC.counter i
        gives (k.ovf.toNat * 2 ^ 24 + k.t * 2 ^ 16 + k.c % 2 ^ 16))
      ∧ (208 ≤ n → n < 216 →
        let t := s1.curC.term (i - 16)
        gives (t.actions * 2 ^ 16 + t.armed))
      ∧ (256 ≤ n ∨ 32 ≤ n % 64 ∨ (16 ≤ i ∧ n < 192) ∨ (24 ≤ i ∧ 192 ≤ n) → stops))
    ∧ (ready { op := 0x328 } o s = .go s1 v g →
      let i := v.a.word.toInt
      let w := v.b.word.toNat
      let r : Ring := { queue := w % 16, low := w / 2 ^ 20 % 512, high := w / 2 ^ 8 % 512 }
      let spare := 2 ^ 29 ≤ w ∨ w / 2 ^ 17 % 8 ≠ 0 ∨ w / 16 % 16 ≠ 0
      (i = 15 → w = 0 → exec (.stage o) s = .next (completed o.hdr
        ((s1.modCap s1.curF.cap fun c => { c with rings := [] }).putS o.d 0)))
      ∧ (i = 15 → w ≠ 0 → exec (.stage o) s = .next (faulted s ⟨0x03, 0xFFFF, 0⟩))
      ∧ (i < 0 ∨ 15 < i → exec (.stage o) s = .next (faulted s (fIllegal 1)))
      ∧ (0 ≤ i → i < 15 → spare → exec (.stage o) s = .next (faulted s ⟨0x03, 0xFFFF, 0⟩))
      ∧ (0 ≤ i → i < 15 → ¬spare → r.high < r.low ∨ s1.curCap.stagesUniform = false →
        exec (.stage o) s = .next (completed o.hdr (s1.putS o.d 1)))
      ∧ (∀ h, 0 ≤ i → i < 15 → ¬spare → r.low ≤ r.high → s1.curCap.stagesUniform = true →
        (s1.chip (chipOf s1.curCore)).bindAll s1.curF.cap r.queue s1.curCap.dies = some h →
        exec (.stage o) s = .next (completed o.hdr
          (({ s1 with chips := s1.chips.put (chipOf s1.curCore) h }.modCap s1.curF.cap fun c =>
            { c with rings := c.rings.put i.toNat r }).putS o.d 0)))
      ∧ (0 ≤ i → i < 15 → ¬spare → r.low ≤ r.high → s1.curCap.stagesUniform = true →
        (s1.chip (chipOf s1.curCore)).bindAll s1.curF.cap r.queue s1.curCap.dies = none → exec (.stage o) s = .next s))
    ∧ (ready { op := 0x329 } o s = .go s1 v g →
      let b := s1.curF.budget
      let a := v.a.word.toNat
      (1 ≤ a → a < b → exec (.budget o) s = .next (completed o.hdr
        ((s1.modF fun f => { f with budget := a }).putS o.d (BitVec.ofNat 64 b))))
      ∧ (a = 0 ∨ b ≤ a → exec (.budget o) s = .next (completed o.hdr (s1.putS o.d (BitVec.ofNat 64 b))))))
  ∧ (∀ w : Nat, w < 2 ^ 64 →
      let src := w % 32
      let arg := w / 2 ^ 24 % 2 ^ 16
      let act := w / 2 ^ 20 % 4
      (2 ^ 24 ≤ w ∨ w / 32 % 8 ≠ 0 ∨ w / 256 % 2 ^ 16 = 0 ∨ (8 ≤ src ∧ src ≤ 30) → counterOf w = none)
      ∧ (w < 2 ^ 24 → w / 32 % 8 = 0 → w / 256 ≠ 0 → src < 8 ∨ src = 31 →
        counterOf w = some { threshold := w / 256, source := src })
      ∧ (2 ^ 40 ≤ w ∨ w / 2 ^ 22 % 4 ≠ 0 ∨ w / 2 ^ 17 % 8 ≠ 0 ∨ (act = 0 ∧ arg ≠ 0) ∨ (act = 1 ∧ 4 ≤ arg) ∨ (act = 3 ∧ 16 ≤ arg) →
        termOf w = none)
      ∧ (w < 2 ^ 40 → w / 2 ^ 22 % 4 = 0 → w / 2 ^ 17 % 8 = 0 → (act = 0 → arg = 0) → (act = 1 → arg < 4) → (act = 3 → arg < 16) →
        termOf w = some { mask := w % 2 ^ 16, isOr := w.testBit 16, action := act, arg := arg }))
  ∧ (∀ k : Counter, (k.c + 1 ≠ k.threshold → k.pulse = { k with c := (k.c + 1) % 2 ^ 16 })
      ∧ (k.c + 1 = k.threshold → k.t ≠ 255 → k.pulse = { k with c := 0, t := k.t + 1 })
      ∧ (k.c + 1 = k.threshold → k.t = 255 → k.pulse = { k with c := 0, ovf := true }))
  ∧ (∀ (c : Core) (t : Term),
      (t.armed = 0 ∨ t.mask = 0 → c.termReady t = none)
      ∧ (t.armed ≠ 0 → t.mask ≠ 0 →
        (t.isOr = false → (∀ i, i < 16 → bit t.mask i = true → 0 < (c.counter i).t) →
          c.termReady t = some ((List.range 16).filter fun i => bit t.mask i))
        ∧ (t.isOr = false → (∃ i, i < 16 ∧ bit t.mask i = true ∧ (c.counter i).t = 0) → c.termReady t = none)
        ∧ (∀ i, t.isOr = true → i < 16 → bit t.mask i = true → 0 < (c.counter i).t →
          (∀ j, j < i → bit t.mask j = true → (c.counter j).t = 0) → c.termReady t = some [i])
        ∧ (t.isOr = true → (∀ i, i < 16 → bit t.mask i = true → (c.counter i).t = 0) → c.termReady t = none)))
  ∧ ∀ (s : State) (ep j : Nat),
      let c := s.core ep
      let t := c.term j
      (∀ i, let u := s.modCore ep fun c => c.pulse i
        (((u.core ep).counter i).t ≤ (c.counter i).t → s.pulse ep i = u)
        ∧ ((c.counter i).t < ((u.core ep).counter i).t → s.pulse ep i = u.testTerms ep))
      ∧ (∀ (idx pick i : Nat) (it : Item), s.iq[idx]? = some it → it.act = .evpulse i → s.barred it = false →
        (s.bufferEmpty it = true → exec (.issueQueuePerform idx pick) s = .next ((s.pulse it.ep i).done it))
        ∧ (s.bufferEmpty it = false → exec (.issueQueuePerform idx pick) s = .next s))
      ∧ s.testTerms ep = State.testTermsFrom ep 8 s
      ∧ (∀ n, (∀ i, i < 8 → s.termActs ep i = false) → State.testTermsFrom ep n s = s)
      ∧ (∀ n, j < 8 → s.termActs ep j = true → (∀ i, i < j → s.termActs ep i = false) →
        State.testTermsFrom ep (n + 1) s = State.testTermsFrom ep n (s.testTerm ep j))
      ∧ ∀ cap taken, c.cap = some cap → c.termReady t = some taken → (∀ h ∈ s.held, h.src ≠ .term ep j) →
        let t' := { t with armed := if t.armed = 0xFFFF then t.armed else t.armed - 1, actions := (t.actions + 1) % 2 ^ 32 }
        ∃ c' : Core, c' = { c with counters := c'.counters, terms := c'.terms, acted := j :: c.acted }
          ∧ (∀ i, c'.counter i = if i ∈ taken then { c.counter i with t := (c.counter i).t - 1 } else c.counter i)
          ∧ c'.term j = t' ∧ (∀ k, k ≠ j → c'.term k = c.term k)
          ∧ let u := s.setCore ep c'
            (t.action = 0 → s.testTerm ep j = u)
            ∧ (t.action = 1 → s.testTerm ep j
              = u.modChan ep (t.arg % 4) fun x => x.release { stamp := t.stamp, fir := t.fir, cap := cap, view := t.view })
            ∧ (t.action = 3 → s.testTerm ep j = u.modCore ep fun c => c.pulse (t.arg % 16))
            ∧ ∀ a, t.action = 2 → (u.cap cap).actors[t.arg / 16]? = some a → s.testTerm ep j
              = u.postTyped (.term ep j) cap t.arg (if a.ep = ep then [3] else [])
                { w0 := BitVec.ofNat 64 j, w1 := BitVec.ofNat 64 t'.actions, w2 := 0, w3 := 0, stamp := t.stamp } ep 6

/-- Special registers (18 R341 to R345; 05 R93 to R95). -/
def Obligations.SpecialRegisters : Prop :=
  ∀ (o : Ops) (s s1 : State) (v : Vals) (g : PBits),
    (ready { op := 0x350 } o s = .go s1 v g →
      let gives := fun (n : Nat) (w : Word) => v.a = .special n → exec (.sysrd o) s = .next (completed o.hdr (s1.putS o.d w))
      let f := s1.curF
      let x := s1.cur
      gives 0 f.coord ∧ gives 1 (BitVec.ofNat 64 s1.curSlot) ∧ gives 2 (BitVec.ofNat 64 f.stage) ∧ gives 3 (BitVec.ofNat 64 f.cap)
      ∧ gives 4 (BitVec.ofNat 64 f.budget) ∧ gives 5 s1.curC.cycles ∧ gives 6 (x.dline.setWidth 64) ∧ gives 7 (x.fctl.setWidth 64)
      ∧ (s1.allDone = true → gives 8 (x.fstat.setWidth 64)) ∧ gives 9 x.srseed ∧ gives 10 (BitVec.ofNat 64 s1.curC.ipol.toNat)
      ∧ gives 11 x.fltinfo0 ∧ gives 12 x.fltinfo1 ∧ gives 13 x.fltinfo2 ∧ gives 14 x.fltinfo3
      ∧ (v.a = .special 8 → s1.allDone = false → exec (.sysrd o) s = .next s)
      ∧ (v.a = .imm 0 → exec (.sysrd o) s = .next (completed o.hdr (s1.putS o.d (s1.chipInfo (chipOf s1.curCore)))))
      ∧ (v.a = .imm 0x21 → exec (.sysrd o) s = .next (completed o.hdr (s1.putS o.d x.regResult)))
      ∧ (∀ w, v.a = .imm w → w ≠ 0 → w ≠ 0x21 → exec (.sysrd o) s = .next (faulted s (fIllegal 1))))
    ∧ (ready { op := 0x351 } o s = .go s1 v g →
      let w := v.a.word
      let sets := fun (n : Fin 15) (f : Slot → Slot) => o.d = .special n →
        exec (.syswr o) s = .next (completed o.hdr (s1.modCur f))
      (w.toNat < 2 ^ 32 → sets 6 fun x => { x with dline := w.setWidth 32 })
      ∧ (s1.allDone = true → w.toNat < 32 → w.toNat % 8 < 5 → ∃ c : BitVec 5, sets 7 (fun x => { x with fctl := (x.fctl &&& 0x10) ||| c })
          ∧ c.getLsbD 4 = false ∧ ∀ i, i < 4 → c.getLsbD i = w.getLsbD i)
      ∧ (s1.allDone = true → sets 8 fun x => { x with fstat := x.fstat &&& ~~~(w.setWidth 8) })
      ∧ (s1.allDone = true → sets 9 fun x => { x with srseed := w })
      ∧ (w.toNat < 2 → o.d = .special 10 →
        exec (.syswr o) s = .next (completed o.hdr (s1.modCurC fun c => { c with ipol := w.getLsbD 0 })))
      ∧ (∀ n : Fin 15, o.d = .special n → (n.val < 6 ∨ 10 < n.val) → exec (.syswr o) s = .next (faulted s (fIllegal 0)))
      ∧ (o.d = .special 7 → s1.allDone = true → (32 ≤ w.toNat ∨ 5 ≤ w.toNat % 8) →
        exec (.syswr o) s = .next (faulted s ⟨0x03, 0xFFFF, 0⟩))
      ∧ (∀ x, o.d = .imm x → exec (.syswr o) s = .next (faulted s (fIllegal 0)))
      ∧ (s1.allDone = false → ∀ n : Fin 15, 7 ≤ n.val → n.val ≤ 9 → o.d = .special n → exec (.syswr o) s = .next s)
      ∧ (o.d = .special 10 → 2 ≤ w.toNat → exec (.syswr o) s = .next (faulted s ⟨0x03, 0xFFFF, 0⟩))
      ∧ (o.d = .special 6 → 2 ^ 32 ≤ w.toNat → exec (.syswr o) s = .next (faulted s ⟨0x03, 0xFFFF, 0⟩))
      ∧ (∀ key e, checkAccess s1.curCap s1.curSlot (ptrSlot w) (ptrOff w) 64 64 3 = .ok key e →
        (remoteHome s1.curCore e.homeKey = true → s1.remoteFull = false) → ∃ it : Item, it.act = .registerQueue w key ∧
        exec (.syswrRegisterQueue o) s = .next (completed o.hdr ((s1.addItem it .none .raw).modCur fun x => { x with regResult := 0, regLatest := it.id })))
      ∧ (w.toNat < 1024 → exec (.syswrUnregisterQueue o) s = .next (completed o.hdr (s1.modChip (chipOf s1.curCore) fun h =>
          { h with regReqs := h.regReqs ++ [{ cap := s1.curF.cap, ep := s1.curCore, slot := s1.curSlot, fir := s1.curF.id, key := 0,
                                              drop := some w.toNat }] }))))

/-- Extents (18 R346 to R349), child capsules (R350), leases (R352 to R355) and attestation (R356). That the load of such a nonce ends the instruction is the model's choice (log 46). -/
def Obligations.ExtentsAndCapsules : Prop :=
  (∀ (o : Ops) (s s1 : State) (v : Vals) (g : PBits),
    let joins := fun (i : Instr) (d : Operand) (act : Act) => ∃ it : Item,
      exec i s = .next (completed o.hdr (s1.addItem it d .raw)) ∧ it.act = act ∧ it.dst = dstOf d
    (ready { op := 0x342 } o s = .go s1 v g → ∀ f : Nat, v.b.word = BitVec.ofNat 64 f →
      (f ≤ 3 → v.a.word.toNat ≤ 63 → s1.curCap.extents.find v.a.word.toNat = none →
        exec (.xinfo o) s = .next (completed o.hdr (s1.putS o.d 0)))
      ∧ (∀ e, v.a.word.toNat ≤ 63 → s1.curCap.extents.find v.a.word.toNat = some e →
        let gives := fun (n : Nat) => exec (.xinfo o) s = .next (completed o.hdr (s1.putS o.d (BitVec.ofNat 64 n)))
        (f = 0 → gives (e.viewBase v.a.word.toNat s1.curSlot + e.home * 2 ^ 52)) ∧ (f = 1 → gives (e.viewLen v.a.word.toNat))
        ∧ (f = 2 → gives (e.viewComm v.a.word.toNat)) ∧ (f = 3 → gives (e.owner * 2 ^ 32 + e.attr.toNat)))
      ∧ (4 ≤ f → f < 2 ^ 64 → exec (.xinfo o) s = .next (faulted s (fIllegal 2)))
      ∧ (f ≤ 3 → 63 < v.a.word.toNat → exec (.xinfo o) s = .next (faulted s (fIllegal 1))))
    ∧ (ready { op := 0x343 } o s = .go s1 v g → ∀ e, s1.curCap.extents.find (ptrSlot v.a.word) = some e → e.has permG = true →
      ptrOff v.a.word < e.viewLen (ptrSlot v.a.word) →
      (e.short (ptrSlot v.a.word) (ptrOff v.a.word) 1 = false → exec (.xgrow o) s = .next (completed o.hdr
        (s1.putS o.d (BitVec.ofNat 64 (e.viewComm (ptrSlot v.a.word))))))
      ∧ (e.short (ptrSlot v.a.word) (ptrOff v.a.word) 1 = true → exec (.xgrow o) s =
        .next ((s.modCur fun k => { k with
          wait := .growth (ptrSlot v.a.word) (if ptrSlot v.a.word = 1 then (ptrOff v.a.word : Int) else (ptrOff v.a.word + 1 : Int))
            (fBound v.a.word 1) }).issued plainHdr)))
    ∧ (ready { op := 0x343 } o s = .go s1 v g → (s1.curCap.extents.find (ptrSlot v.a.word) = none →
        exec (.xgrow o) s = .next (faulted s (fSlot v.a.word)))
      ∧ ∀ e, s1.curCap.extents.find (ptrSlot v.a.word) = some e →
        (e.has permG = false → exec (.xgrow o) s = .next (faulted s (fPerm v.a.word permG)))
        ∧ (e.has permG = true → e.viewLen (ptrSlot v.a.word) ≤ ptrOff v.a.word →
          exec (.xgrow o) s = .next (faulted s (fBound v.a.word 1))))
    ∧ (∀ n b lu, (Operand.val o.d).word = BitVec.ofNat 64 n → 4 ≤ n → n < 64 → o.b = .s b lu → b.val ≤ 62 →
      ready { op := 0x341, reads := fun o => pairReads 2 o.b } o s = .go s1 v g →
      let attr := (v.reg (b.val + 1)).toNat
      let held := fun (act : Act) => ∃ it : Item, it.act = act ∧ exec (.xderive o) s =
        .next ((((s1.addItem it .none .raw).modCur fun x => { x with wait := .item it.id }).advance).issued o.hdr)
      attr < 4096 → bits attr 6 2 ≠ 3 → s1.curCap.imageSlots ≤ n →
      (v.b.word = 0 → held (.xderive n none))
      ∧ (∀ e, v.b.word ≠ 0 → deriveExtent s1.curCap s1.curSlot v.a.word v.b.word.toNat attr = .ok e → held (.xderive n (some e)))
      ∧ (∀ f, v.b.word ≠ 0 → deriveExtent s1.curCap s1.curSlot v.a.word v.b.word.toNat attr = .error f →
        exec (.xderive o) s = .next (faulted s f)))
    ∧ (∀ (it : Item) (n : Nat) (x : Option Extent), (s.chip (chipOf it.ep)).frozen = false →
      s.performXderive it n x = (s.modCap it.cap fun c => { c with extents :=
        match x with
        | some e => c.extents.put n e
        | none => c.extents.del n }).done it)
    ∧ (ready { op := 0x340 } o s = .go s1 v g →
      let ctl := v.b.word.toNat
      let len := ctl / 2 ^ 20 % 2 ^ 32
      ctl < 2 ^ 52 → ctl / 2 ^ 17 % 8 = 0 → len ≠ 0 → ∀ key e,
      checkAccess s1.curCap s1.curSlot (ptrSlot v.a.word) (ptrOff v.a.word) len 64 permR = .ok key e →
      (remoteHome s1.curCore e.homeKey = true → s1.remoteFull = false) →
      (8 ≤ s1.curCap.emits → exec (.cemit o) s = .next (completed o.hdr (s1.putS o.d 1)))
      ∧ (s1.curCap.emits < 8 → ∃ it : Item, it.rel = some .dev
        ∧ it.act = .cemit v.a.word v.b.word key len s1.curCap.extents s1.cur.dline.toNat
        ∧ exec (.cemit o) s = .next (completed o.hdr ((((s1.modCap s1.curF.cap fun c => { c with emits := c.emits + 1 }).addItem it
          .none .raw)).putS o.d 0))))
    ∧ (ready { op := 0x349 } o s = .go s1 v g → joins (.lrel o) o.d (.lrel v.a.word))
    ∧ (ready { op := 0x34A } o s = .go s1 v g → joins (.lstat o) o.d (.lstat v.a.word))
    ∧ (ready { op := 0x348 } o s = .go s1 v g → ∀ (peer max min box i : Nat), v.a.word = BitVec.ofNat 64 peer → peer ≤ 63 →
      peer ≠ chipOf s1.curCore → 1 ≤ min → min ≤ max → max ≤ 64 → box < 2 ^ 16 →
      v.b.word = BitVec.ofNat 64 (max + min * 2 ^ 8 + box * 2 ^ 16) → i < 8 → (s1.curCap.leases.get {} i).live = false →
      (∀ j, j < i → (s1.curCap.leases.get {} j).live = true) → s1.isMember (chipOf s1.curCore) peer = true →
      (∀ e ∈ s1.curCap.leases, e.2.live = true → e.2.peer ≠ peer) →
      let old := (s1.curCap.leases.get {} i).gen
      let l : LeaseEnt := { gen := if old = 65535 then 1 else old + 1, live := true, peer := peer, state := .pending, max := max
                            min := min, mailbox := box, stamp := s1.cur.dline.toNat }
      let u := s1.modCap s1.curF.cap fun c => { c with leases := c.leases.put i l }
      exec (.lease o) s = .next (completed o.hdr ((u.modChip (chipOf s1.curCore) fun h => { h with fabric := { h.fabric with
        queue := h.fabric.queue ++ [{ cap := s1.curF.cap, ent := i, gen := l.gen, peer := peer }] } }).putS o.d
        (leaseHandle i l)))
        ∧ leaseHandle i l = BitVec.ofNat 64 (peer * 2 ^ 32 + i * 2 ^ 16 + l.gen))
    ∧ (ready { op := 0x348 } o s = .go s1 v g → ∀ (peer max min box : Nat), v.a.word = BitVec.ofNat 64 peer → peer < 2 ^ 64 →
      max < 128 → min < 128 → box < 2 ^ 16 → v.b.word = BitVec.ofNat 64 (max + min * 2 ^ 8 + box * 2 ^ 16) →
      (1 ≤ min → min ≤ max → max ≤ 64 → peer ≤ 63 → peer ≠ chipOf s1.curCore →
        ((∀ j, j < 8 → (s1.curCap.leases.get {} j).live = true) ∨ s1.isMember (chipOf s1.curCore) peer = false
          ∨ (∃ e ∈ s1.curCap.leases, e.2.live = true ∧ e.2.peer = peer)) →
        exec (.lease o) s = .next (completed o.hdr (s1.putS o.d 0)))
      ∧ (min = 0 ∨ max < min ∨ 64 < max → exec (.lease o) s = .next (faulted s ⟨0x03, 0xFFFF, 0⟩))
      ∧ (1 ≤ min → min ≤ max → max ≤ 64 → (63 < peer ∨ peer = chipOf s1.curCore) →
        exec (.lease o) s = .next (faulted s (fIllegal 1))))
    ∧ (ready { op := 0x352 } o s = .go s1 v g → v.d.word.toNat < 0xFFFF → ∀ nkey ne rkey re nonce,
      checkAccess s1.curCap s1.curSlot (ptrSlot v.a.word) (ptrOff v.a.word) 32 8 permR = .ok nkey ne →
      checkAccess s1.curCap s1.curSlot (ptrSlot v.b.word) (ptrOff v.b.word) 640 64 permW = .ok rkey re →
      s1.remoteFull = false → re.homeKey = chipOf s1.curCore → s1.lostLoad (s1.nonceLoad v.a.word nkey ne) = false →
      s1.readNonce v.a.word nkey ne = some (nonce, false) →
      ∃ it : Item, exec (.attest o) s = .next (completed o.hdr (s1.addItem it .none .raw))
        ∧ it.act = .attest v.d.word v.b.word nonce rkey s1.cur.dline.toNat)
    ∧ (ready { op := 0x352 } o s = .go s1 v g → v.d.word.toNat < 0xFFFF → ∀ nkey ne rkey re,
      checkAccess s1.curCap s1.curSlot (ptrSlot v.a.word) (ptrOff v.a.word) 32 8 permR = .ok nkey ne →
      checkAccess s1.curCap s1.curSlot (ptrSlot v.b.word) (ptrOff v.b.word) 640 64 permW = .ok rkey re →
      s1.remoteFull = false → re.homeKey = chipOf s1.curCore →
      let load := s1.nonceLoad v.a.word nkey ne
      s1.plainReady load = true → s1.lostLoad load = true →
      exec (.attest o) s = .next (completed o.hdr ((s1.addItem load .none .raw).failItem load false))))
  ∧ ∀ (c : Capsule) (k : Nat) (p : Word) (len attr : Nat) (e d : Extent), c.extents.find (ptrSlot p) = some e → ptrSlot p ≠ 1 →
      deriveExtent c k p len attr = .ok d →
      d.base = e.base + ptrOff p ∧ d.length = len ∧ d.comm = len ∧ d.home = e.home ∧ d.owner = e.owner
      ∧ ptrOff p + len ≤ e.comm ∧ ptrOff p % 64 = 0 ∧ len % 64 = 0 ∧ d.attr.getLsbD 5 = false
      ∧ ∀ i ∈ [0, 1, 2, 3, 4, 10, 11], d.attr.getLsbD i = true → e.attr.getLsbD i = true

/-- The trap instructions (21 R397 to R403). That tret without trap state names field 3 is the model's choice (log 34). -/
def Obligations.TrapInstructions : Prop :=
  ∀ (o : Ops) (s s1 : State) (v : Vals) (g : PBits) (n : Nat),
    let imm := (Operand.val o.d).word
    (ready { op := 0x360, reads := fun _ => [(3, 4)] } o s = .go s1 v g →
      (imm = BitVec.ofNat 64 n → n ≤ 65535 → exec (.trap o) s =
        .next ((s.trapHere ⟨0x15, BitVec.ofNat 64 n, v.reg 4⟩ clsTrap).issued plainHdr))
      ∧ (imm.toInt < 0 ∨ 65535 < imm.toInt → exec (.trap o) s = .next (faulted s (fIllegal 0))))
    ∧ (ready { op := 0x361 } o s = .go s1 v g →
      (imm.toInt < 0 ∨ 2 < imm.toInt → exec (.tret o) s = .next (faulted s (fIllegal 0)))
      ∧ (n ≤ 2 → imm = BitVec.ofNat 64 n →
        (s1.curF.trap = none → exec (.tret o) s = .next (faulted s (fIllegal 3)))
        ∧ ∀ (t : TrapState) (f : Firing), s1.cur.firing = some f → f.trap = some t →
          let back := fun (next : Int) => s1.modCur fun x => { x with
            firing := some { f with trap := none, pc := next }, fltinfo0 := 0, fltinfo1 := 0, fltinfo2 := 0, fltinfo3 := 0 }
          (n = 0 → t.budget = false → exec (.tret o) s = .next (jumped o.hdr (back t.retWord) t.retWord))
          ∧ (n = 1 → t.budget = false → t.resumeNext = true →
            exec (.tret o) s = .next (jumped o.hdr (back (t.retWord + 1)) (t.retWord + 1)))
          ∧ (n = 1 → t.budget = false → t.resumeNext = false →
            exec (.tret o) s = .next (jumped o.hdr (back t.retWord) t.retWord))
          ∧ (n = 2 ∨ t.budget = true → f.shadow = none → ∃ w,
            let u := back w
            (u.settled u.curF = true → exec (.tret o) s = .next ((u.endFiring u.curCore u.curSlot u.curF none).issued o.hdr))
            ∧ (u.settled u.curF = false → exec (.tret o) s = .next ((u.modCur fun x => { x with wait := .ending none }).issued o.hdr)))))
    ∧ (ready { op := 0x362 } o s = .go s1 v g → n ≤ 7 → v.a.word = BitVec.ofNat 64 n →
      (s1.curF.trap = none → exec (.fltrd o) s = .next (completed o.hdr (s1.putS o.d 0)))
      ∧ ∀ t, s1.curF.trap = some t → exec (.fltrd o) s = .next (completed o.hdr (s1.putS o.d
          (BitVec.ofNat 64 (ofBytes ((t.record.bytes.drop (8 * n)).take 8))))))
    ∧ (ready { op := 0x363 } o s = .go s1 v g → ∃ it : Item, it.act = .fltack v.a.word.toNat ∧ it.dst = dstOf o.d ∧
      exec (.fltack o) s = .next (completed o.hdr (s1.addItem it o.d .raw)))
    ∧ (∀ m lu key e, o.d = .s m lu → m.val ≤ 62 → ready { op := 0x364, reads := fun o => pairReads 0 o.d } o s = .go s1 v g →
      s1.curF.isActor = true → s1.curCap.contSlot ≠ 0xFF →
      checkAccess s1.curCap s1.curSlot s1.curCap.contSlot (16 * s1.curF.actor : Nat) 16 16 permW = .ok key e →
      (remoteHome s1.curCore e.homeKey = true → s1.remoteFull = false) → ∃ (it : Item) (x : VBits),
      exec (.ckpt o) s = .next (completed o.hdr (s1.addItem it .none .raw)) ∧ it.rel = some .dev
      ∧ it.act = .store [{ key := key, w := 16, idx := 0 }] x
      ∧ x.toNat % 2 ^ 128 = v.d.word.toNat + (v.reg (m.val + 1)).toNat * 2 ^ 64)
    ∧ (ready { op := 0x365, unchecked := [1] } o s = .go s1 v g →
      (∀ w fr po, v.a = .s w fr po → exec (.poisck o) s = .next (completed o.hdr (s1.putS o.d
        (BitVec.ofNat 64 (fr.toNat * 2 + po.toNat)))))
      ∧ (∀ b t fr, v.a = .v b t fr → exec (.poisck o) s = .next (completed o.hdr (s1.putS o.d
        (BitVec.ofNat 64 (t.code * 4 + fr.toNat * 2 + (if t = .poison then 1 else 0))))))
      ∧ (∀ n, v.a = .tile n → let t := s1.curC.issueTag n
        exec (.poisck o) s = .next (completed o.hdr (s1.putS o.d (BitVec.ofNat 64
          (t.code * 4 + (if t = .freed then 2 else 0) + (if t = .poison then 1 else 0))))))
      ∧ (∀ b fr, v.a = .p b fr → exec (.poisck o) s = .next (completed o.hdr (s1.putS o.d (BitVec.ofNat 64 (fr.toNat * 2))))))
    ∧ (ready { op := 0x366 } o s = .go s1 v g → ∀ w fr po, v.a = .s w fr po →
      let sig := (toBytes 8 w.toNat).foldl sigStep s1.curF.sig
      exec (.sigacc o) s = .next (completed o.hdr ((s1.modF fun f => { f with sig := sig }).putS o.d sig)))
    ∧ (ready { op := 0x366 } o s = .go s1 v g → ∀ b t fr, v.a = .v b t fr →
      let sig := (BitVec.ofNat 8 t.code :: toBytes 256 b.toNat).foldl sigStep s1.curF.sig
      exec (.sigacc o) s = .next (completed o.hdr ((s1.modF fun f => { f with sig := sig }).putS o.d sig)))

/-- Taking a fault in a firing (21 R388 to R394), the one operation every fault goes through. -/
def Obligations.FaultTaken : Prop :=
  (∀ (s : State) (ep k : Nat) (i : FaultInfo) (cls : Nat) (word ret : Int) (f : Firing) (c : Capsule),
    (s.slot ep k).firing = some f → s.caps.find f.cap = some c → c.state = .running → (s.chip c.chip).frozen = false →
    let u := s.takeFault ep k i cls word ret
    let raw := rawWord s ep f word
    let w := codeEntry f.code (bits c.policy 8 8)
    let p := if f.trap.isSome then (if bit c.policy 4 then 1 else 0) else bits c.policy 0 2
    let record : Nat → FaultRec := fun (act : Nat) =>
      { code := i.code, cls := cls, action := act, nested := f.trap.isSome, word := (word % 2 ^ 32).toNat, cap := f.cap, ep := ep
        actor := f.actor, slot := k, fkind := f.kind.code, seq := c.seqNo + 1, stamp := (s.slot ep k).dline.toNat
        info0 := i.i0, info1 := i.i1, info2 := BitVec.ofNat 64 raw, info3 := BitVec.ofNat 64 (raw / 2 ^ 64) }
    let queued := fun (act : Nat) => (u.cap f.cap).records = c.records ++ [record act] ∧ (u.cap f.cap).seqNo = c.seqNo + 1
    u.mem = s.mem ∧ u.poison = s.poison
    ∧ ((p = 0 ∨ (p = 1 ∧ c.contSlot = 0xFF)) → (u.cap f.cap).state = .terminating ∧ (u.slot ep k).firing = none
      ∧ ∃ more, (u.cap f.cap).records = c.records ++ record 0 :: more ∧ ∀ r ∈ more, r.code = 0x12 ∧ r.cls = 3)
    ∧ (p = 1 → c.contSlot ≠ 0xFF → f.unknown = [] → queued 1 ∧ (u.cap f.cap).state = .parking (if f.trap.isSome then 3 else 2)
        ∧ (u.slot ep k).firing = none)
    ∧ (p = 2 → cls ≠ clsMismatch → handlerFetch s f w = .ok () → queued 2 ∧ (u.cap f.cap).state = .running
      ∧ ∃ g t, (u.slot ep k).firing = some g ∧ g.trap = some t ∧ g.pc = w ∧ t.retWord = ret ∧ t.budget = (i.code == 0x0B)
        ∧ (t.resumeNext = true ↔ cls = clsPrecise ∨ cls = clsDeferred ∨ cls = clsTrap)
        ∧ g.budget = (if i.code = 0x0B then 4096 else f.budget) ∧ g.loops = f.loops ∧ g.id = f.id ∧ g.stamp = f.stamp
        ∧ (u.slot ep k).fltinfo0 = i.i0 ∧ (u.slot ep k).fltinfo1 = i.i1 ∧ (u.slot ep k).sregs = (s.slot ep k).sregs
        ∧ (u.slot ep k).vregs = (s.slot ep k).vregs ∧ (u.slot ep k).pregs = (s.slot ep k).pregs
        ∧ (u.slot ep k).fctl = (s.slot ep k).fctl ∧ (u.slot ep k).fstat = (s.slot ep k).fstat)
    ∧ (p = 2 → cls ≠ clsMismatch → ∀ code, handlerFetch s f w = .error code →
        (u.cap f.cap).state = .terminating ∧ (u.slot ep k).firing = none
        ∧ ∃ h more, (u.cap f.cap).records = c.records ++ record 2 :: h :: more ∧ h.code = 0x11 ∧ h.nested = true ∧ h.action = 0
          ∧ (∀ r ∈ more, r.code = 0x12 ∧ r.cls = 3) ∧ h.info0 = BitVec.ofNat 64 (bits c.policy 8 8) ∧ h.info1 = BitVec.ofNat 64 code))
  ∧ ∀ (s : State) (ep k x : Nat) (upto : Int) (i : FaultInfo) (f : Firing) (t : TrapState), (s.slot ep k).firing = some f →
    f.trap = some t → f.unknown = [] → (s.slot ep k).wait = .growth x upto i → (s.chip (chipOf ep)).frozen = false →
    let u := (s.growExtent f.cap x upto).1.modSlot ep k fun y => { y with wait := .none }
    let e := bits (u.cap f.cap).policy 8 8
    (s.growExtent f.cap x upto).2 = false → f.pc = codeEntry f.code e → (fetchGrowth (u.cap f.cap) f.pc).isSome = true →
    exec (.stackGrowth ep k) s = .next (u.handlerFails ep k f t.record e (codeEntry f.code e) i.code)

/-- Command queues, packets and barriers (11 R228 to R238), registrations (18 R345) and the doorbell registers (22 Table 22.6). That the abort check comes before the check for status 0x03, and that a barrier reads all its signals in one step, is the model's choice (DEDUCED, log 36); so are the place of doorbells (log 20), and that an uncorrectable error comes before a negative signal in a check, that a poisoned ring slot is taken as its bytes read, and that no packet starts while one waits to complete (log 51). -/
def Obligations.QueuesAndPackets : Prop :=
  (∀ (s : State) (chip q : Nat), (s.seeDoorbells chip q).mem = s.mem ∧ ∀ b ∈ (s.chip chip).doorbells,
      (b ∉ ((s.seeDoorbells chip q).chip chip).doorbells ↔
        s.rings b = true ∧ ((s.chip chip).bellQueue b = some q ∨ (s.chip chip).bellQueue b = none))
      ∧ (s.rings b = true → (s.chip chip).bellQueue b = some q → q ∈ ((s.seeDoorbells chip q).chip chip).looks))
  ∧ (∀ (s : State) (chip q : Nat) (c : CQueue), let s0 := s.seeDoorbells chip q
    (s0.chip chip).frozen = false → q ∈ (s0.chip chip).looks → s0.queue chip q = some c → s0.takable chip c = true →
    turn (s0.chip chip) ((s0.chip chip).queues.filter fun e => (s0.chip chip).looks.contains e.1 && s0.takable chip e.2) = some q →
    (s0.parserReached chip .sys = false → exec (.queueDoorbell chip q) s = .next s0)
    ∧ (s0.parserReached chip .sys = true → ∃ t, exec (.queueDoorbell chip q) s = .next t
      ∧ t.queue chip q = some { c with head := c.head + 1, packets := c.packets ++
          [{ k := c.head, bytes := s0.ringRead chip (c.ring + 256 * (c.head % c.slots)) 256 }] }
      ∧ t.entries = (s0.parserWrite chip c.desc 0x28 (toBytes 4 (c.head + 1))).entries ∧ t.mem = s.mem))
  ∧ (∀ (s : State) (chip key n off : Nat) (sc : Scope) (bs : List Byte),
    (homeOf key = 64 → s.ringRead chip key n = (List.range n).map fun i => s.mem.get (key + i))
    ∧ (homeOf key ≠ 64 → s.ringRead chip key n = (s.fwRead chip key n).1)
    ∧ (s.parserReached chip sc = true ↔ ∀ e ∈ s.entries, e.parser = true → chipOf e.core = chip → e.reached sc = true)
    ∧ ∃ es, (s.parserWrite chip key off bs).entries = s.entries ++ es ∧ ∀ e ∈ es, e.parser = true ∧ chipOf e.core = chip ∧ e.op = none)
  ∧ (∀ (s : State) (chip q idx : Nat) (c : CQueue) (p : Packet),
    (s.chip chip).frozen = false → s.queue chip q = some c → c.packets[idx]? = some p →
    let s1 := s.modQueue chip q fun c => { c with aborting := false }
    let starts := fun (t : State) => exec (.packetStart chip q idx) s = .next t
    ((s.chip chip).completing = true → starts s)
    ∧ (p.started = false → (s.chip chip).completing = false → (p.serial = true → idx = 0) → (p.serial = false → ∀ x ∈ c.packets.take idx, x.started = true) →
      (c.aborting = true → p.resume = false → starts (s.conclude chip q p.k 0x01))
      ∧ (¬(c.aborting = true ∧ p.resume = false) →
        (p.malformed c.slots = true → starts (s1.conclude chip q p.k 0x03))
        ∧ (p.malformed c.slots = false → p.strayed c.nsignals = true → starts (s1.conclude chip q p.k 0x06))
        ∧ (p.malformed c.slots = false → p.strayed c.nsignals = false →
          (p.ty = 0 → starts (s1.conclude chip q p.k 0))
          ∧ (p.ty = 1 → ∃ t a, starts t ∧ (t.chip chip).admissions = (s.chip chip).admissions ++ [a]
            ∧ a.origin = .packet chip q p.k ∧ a.priority = c.priority ∧ a.length = lget p.bytes 0x10 4
            ∧ a.ownerKey = some c.ownerKey ∧ a.image = [] ∧ rawKey chip (lget p.bytes 8 8) = some a.addr)
          ∧ (p.ty = 2 → (∀ st, s1.checkBarrier chip c p = some st → starts (s1.conclude chip q p.k st))
            ∧ (s1.checkBarrier chip c p = none → p.status = none → ∃ t c', starts t ∧ t.queue chip q = some c'
              ∧ c'.packets[idx]? = some { p with started := true, status := none }))
          ∧ (p.ty = 3 →
            let r := s1.atM (if lget p.bytes 0x0A 2 = 0 then .add else .swap) .i64 (c.signals + 8 * lget p.bytes 8 2)
              (BitVec.ofNat 64 (lget p.bytes 0x10 8)) 0
            (r.2.2 = false → starts (r.1.conclude chip q p.k 0))
            ∧ (r.2.2 = true → starts ((r.1.ras (chip * 1024)).conclude chip q p.k 0x0C))))))
    ∧ (∀ st, ∃ c', (s.finishPacket chip q p.k st).queue chip q = some c'
        ∧ c'.packets[idx]? = some { p with started := true, status := some st }
        ∧ s.conclude chip q p.k st = (s.finishPacket chip q p.k st).settle chip
        ∧ ((∀ x ∈ c.packets.take idx, x.k ≠ p.k) → s.completeByNumber chip q p.k st
          = ((s.finishPacket chip q p.k st).completePacket chip q c' { p with started := true, status := some st } st).settle chip))
    ∧ (∀ st, p.status = some st → (s.chip chip).queues.wf = true →
      let t := s.completePacket chip q c p st
      let hit := p.signal ≠ 0xFFFF ∧ p.signal < c.nsignals
      let r := s.atM (if st = 0 then .add else .swap) .i64 (c.signals + 8 * p.signal) (BitVec.ofInt 64 (-1)) 0
      (s.parserReached chip (s.packetScope chip c p) = true → exec (.packetComplete chip q idx) s = .next (t.settle chip))
        ∧ (s.parserReached chip (s.packetScope chip c p) = false → exec (.packetComplete chip q idx) s = .next s)
        ∧ (s.packetScope chip c p = if bits p.trailer 10 3 = 6 ∨ homeOf c.signals ≠ chip ∨ (p.signal ≠ 0xFFFF ∧ s.promoted chip c p.signal = true)
          then .sys else .dev)
        ∧ (hit → t.mem = r.1.mem) ∧ (¬hit → t.mem = s.mem)
        ∧ (¬hit → st ≠ 0 → s.errorWord chip c = 0 → t.entries = (s.parserWrite chip c.desc 0x2C
            (toBytes 4 (p.k % c.slots * 65536 + st * 256) ++ toBytes 4 (lget p.bytes 4 4))).entries)
        ∧ (¬hit → (st = 0 ∨ s.errorWord chip c ≠ 0) → t.entries = s.entries)
        ∧ (c.cap = none → 2 + q % 2046 ∈ (t.chip chip).msix)
        ∧ ∀ c', t.queue chip q = some c' → (∀ x ∈ c'.packets, x.k ≠ p.k) ∧ (st ≠ 0 ∨ (hit ∧ r.2.2 = true) → c'.aborting = true)))
  ∧ (∀ (s : State) (chip : Nat), (s.chip chip).frozen = false →
      exec (.barrierCheck chip) s = .next ((s.checkBarriers chip).settle chip)
      ∧ (∀ q c, s.queue chip q = some c → ∃ c', (s.checkBarriers chip).queue chip q = some c' ∧ ∀ (i : Nat) (p : Packet),
        c.packets[i]? = some p → c'.packets[i]? = some (if p.started = true ∧ p.status = none ∧ p.ty = 2 then
          { p with status := s.checkBarrier chip c p } else p)))
  ∧ (∀ (s : State) (chip n : Nat), let known := fun (c : CQueue) (p : Packet) st => p.status = some st ∧ s.parserReached chip (s.packetScope chip c p) = true
      (s.ripe chip = none ↔ ∀ e ∈ (s.chip chip).queues, ∀ p ∈ e.2.packets, ∀ st, ¬known e.2 p st)
      ∧ (∀ q c p st, s.ripe chip = some (q, c, p, st) → (q, c) ∈ (s.chip chip).queues ∧ p ∈ c.packets ∧ known c p st
        ∧ State.settleGo chip (n + 1) s = State.settleGo chip n (s.completePacket chip q c p st))
      ∧ (s.ripe chip = none → s.settle chip = s)
      ∧ ((s.chip chip).completing = true ↔ ∃ e ∈ (s.chip chip).queues, ∃ p ∈ e.2.packets, p.status ≠ none))
  ∧ (∀ (s : State) (chip : Nat) (c : CQueue) (p : Packet),
      let rs := p.waits.map fun i => s.fwRead chip (c.signals + 8 * i) 8
      ((∃ r ∈ rs, r.2 = true) → s.checkBarrier chip c p = some 0x0C)
      ∧ ((∀ r ∈ rs, r.2 = false) → ((∃ r ∈ rs, bit (ofBytes r.1) 63 = true) → s.checkBarrier chip c p = some 0x02)
        ∧ ((∀ r ∈ rs, ofBytes r.1 = 0) → s.checkBarrier chip c p = some 0)
        ∧ ((∀ r ∈ rs, bit (ofBytes r.1) 63 = false) → (∃ r ∈ rs, ofBytes r.1 ≠ 0) → s.checkBarrier chip c p = none)))
  ∧ (∀ (s : State) (chip tag desc q : Nat), (s.chip chip).frozen = false → (s.chip chip).boot = .ready →
      let s1 := s.modChip chip fun h => { h with bar0 := { h.bar0 with head := h.bar0.head + 1 } }
      (∀ t i, s.command chip = some (1, tag) → s1.registerHost chip desc = some (t, i) →
        exec (.registerQueue chip tag desc) s = .next (t.hostReply chip tag 0 (BitVec.ofNat 64 i) 0)
        ∧ (s.chip chip).queues.find i = none
        ∧ ∃ key c, rawKey chip desc = some key ∧ t.queue chip i = some c ∧ c.desc = key ∧ c.packets = [] ∧ c.head = 0
          ∧ descOk (s1.fwRead chip key 64).1 = true ∧ c.slots = lget (s1.fwRead chip key 64).1 8 4
          ∧ c.priority = lget (s1.fwRead chip key 64).1 0x0C 2)
      ∧ (s.command chip = some (1, tag) → s1.registerHost chip desc = none → exec (.registerQueue chip tag desc) s = .next (s1.hostReply chip tag 1 0 0))
      ∧ (∀ c, s.command chip = some (2, tag) → s.queue chip q = some c →
        (c.gone = false → exec (.unregisterQueue chip tag q) s = .next ((s1.unregister chip q).hostReply chip tag 0 0 0)
          ∧ ((s.chip chip).queues.wf = true → ∀ c', (s1.unregister chip q).queue chip q = some c' → c'.gone = true
            ∧ ∀ x ∈ c'.packets, x.started = true ∧ (x.ty = 2 → x.status ≠ none)))
        ∧ (c.gone = true → exec (.unregisterQueue chip tag q) s = .next (s1.hostReply chip tag 1 0 0)))
      ∧ (s.command chip = some (2, tag) → s.queue chip q = none →
        exec (.unregisterQueue chip tag q) s = .next (s1.hostReply chip tag 1 0 0)))
  ∧ (∀ (s : State) (chip : Nat) (r : RegReq) (rs : List RegReq), (s.chip chip).frozen = false →
      (s.chip chip).regReqs = r :: rs →
      let s1 := s.modChip chip fun h => { h with regReqs := rs }
      let answers := fun (t : State) => exec (.queueRegistrationAnswer chip) s = .next t
      (r.drop = none → (∀ t q, s1.registerDevice chip r = .ok (t, q) → answers (t.answer r (2 ^ 63 + q)))
        ∧ ∀ reason, s1.registerDevice chip r = .error reason → answers (s1.answer r (2 ^ 63 + 2 ^ 62 + reason * 2 ^ 48)))
      ∧ (∀ q c, r.drop = some q → s.queue chip q = some c → c.cap = some r.cap → answers (s1.unregister chip q))
      ∧ ∀ w, ((s.core r.ep).cap = some r.cap → (s.slot r.ep r.slot).regLatest = r.id →
          ((s.answer r w).slot r.ep r.slot).regResult = BitVec.ofNat 64 w)
        ∧ ((s.slot r.ep r.slot).regLatest ≠ r.id → s.answer r w = s))
  ∧ ∀ (s : State) (chip v q : Nat),
      let set := fun (off : Nat) (f : Bar0 → Bar0) =>
        exec (.bar0RegisterWrite chip off v) s = .next (s.modChip chip fun h => { h with bar0 := f h.bar0 })
      set 0x1000 (fun b => { b with ringBase := BitVec.ofNat 64 v }) ∧ set 0x1008 (fun b => { b with slotCount := BitVec.ofNat 64 v })
      ∧ set 0x1010 (fun b => { b with tail := BitVec.ofNat 64 v }) ∧ set 0x1020 (fun b => { b with complBase := BitVec.ofNat 64 v })
      ∧ set 0x2000 (fun b => { b with window := BitVec.ofNat 64 v })
      ∧ ∀ c, q < 1024 → s.queue chip q = some c → c.enabled = true → c.gone = false → (s.chip chip).boot = .ready →
        q ∉ (s.chip chip).looks →
        exec (.bar0RegisterWrite chip (0x100000 + 8 * q) v) s = .next (s.modChip chip fun h => { h with looks := h.looks ++ [q] })

/-- Leases and wavelengths of the fabric (19 R359 to R366, R378 to R381). The model's choices: a revocation does not count the 2^20 gateway cycles of R366 (DESIGN CHOICE, log 8) and goes on during a warm reboot, and one failure with three failed replays comes before a retraining (DEDUCED, log 37). -/
def Obligations.FabricAndLeases : Prop :=
  (∀ (s : State) (chip : Nat) (r : LeaseRef) (rs : List LeaseRef), (s.fabric chip).queue = r :: rs →
    ((s.chip chip).frozen = false → (s.leaseOf r).min ≤ s.grantable chip r →
      let u := s.takeMany chip r.peer (s.grantable chip r) [] []
      let s1 := u.1.setLease r { u.1.leaseOf r with state := .granted, wls := u.2.1 }
      let s2 := s1.modFabric chip fun f => { f with queue := rs, granted := f.granted ++ [r] }
      let s3 := s2.modFabric r.peer fun f => { f with inbound := f.inbound ++ [(chip, r, u.2.2)] }
      exec (.leaseGrant chip) s = .next (s3.leaseMessage chip r)
      ∧ ((s.caps.find r.cap).isSome = true → (s3.leaseOf r).wls = u.2.1 ∧ (s3.leaseOf r).state = .granted))
    ∧ ∀ g gs, (s.fabric chip).granted = g :: gs → s.grantable chip r < (s.leaseOf r).min →
      exec (.leaseRevoke chip) s = .next (s.revoke chip g))
  ∧ (∀ (f : Fabric) (p w : Nat) (ws : List Nat), f.spare = w :: ws → f.takeTx p = some (w, none, { f with spare := ws }))
  ∧ (∀ (f g : Fabric) (p q w : Nat), f.takeTx p = some (w, some q, g) → f.spare = [] ∧ q ≠ p ∧ 1 < (f.baseOf q).length
      ∧ (f.baseOf q).getLast? = some w ∧ ∀ e ∈ f.base, e.1 ≠ p → (f.baseOf e.1).length ≤ (f.baseOf q).length)
  ∧ (∀ (f : Fabric) (p w : Nat) (ws : List Nat), f.rspare = w :: ws → f.takeRx p = (some w, { f with rspare := ws }))
  ∧ (∀ (f : Fabric) (p w : Nat), f.rspare = [] → (f.takeRx p).1 = some w → ∃ q, q ≠ p ∧ 1 < (f.rbaseOf q).length
      ∧ (f.rbaseOf q).getLast? = some w ∧ ((f.takeRx p).2.rbaseOf q) = (f.rbaseOf q).dropLast
      ∧ ∀ e ∈ f.rbase, e.1 ≠ p → (f.rbaseOf e.1).length ≤ (f.rbaseOf q).length)
  ∧ (∀ (s : State) (chip : Nat) (r : LeaseRef), (s.caps.find r.cap).isSome = true →
      r.gen = (s.leaseOf r).gen → r.peer = (s.leaseOf r).peer →
      let s1 := s.leaseReturn chip r.cap r.ent
      s.revoke chip r = (s1.setLease r { s1.leaseOf r with state := .revoked }).leaseMessage chip r
      ∧ (s1.leaseOf r).wls = [] ∧ r ∉ (s1.fabric chip).granted ∧ r ∉ (s1.fabric chip).queue
      ∧ ∀ w ∈ (s.leaseOf r).wls, ((s1.fabric chip).wls.get {} w).returning
        = some r)
  ∧ (∀ (s : State) (chip : Nat) (e : Nat × LeaseRef × List Nat), s.refusing chip = true →
      ((s.fabric chip).inbound.find? fun e => (s.fabric e.1).granted.contains e.2.1) = some e →
      exec (.receiveRevokeRequest chip) s = .next (s.revoke e.1 e.2.1))
  ∧ (∀ (s : State) (chip wl : Nat) (r : LeaseRef), let w := (s.fabric chip).wls.get {} wl
      w.returning = some r →
      let s1 := s.modFabric chip fun f => { f with
        wls := f.wls.put wl { w with returning := none }, packets := openPackets (f.packets.map fun p => p.leave wl) }
      let s2 := s1.modFabric r.peer fun f => f.returnRx chip r
      let low := smallest (fun q => ((s.fabric chip).baseOf q).length) ((s.fabric chip).base.map Prod.fst)
      (w.state = .retired → exec (.leaseWavelengthReturn chip wl) s = .next (s1.modFabric r.peer fun f => f.loseInbound chip r))
      ∧ (w.state = .retraining → exec (.leaseWavelengthReturn chip wl) s = .next s)
      ∧ (w.state = .good → (∀ q, low = some q → exec (.leaseWavelengthReturn chip wl) s = .next
          ((s2.modFabric chip fun f => { f with base := f.base.put q (insertWl wl ((s.fabric chip).baseOf q)) }).modFabric q
            fun f => f.gainRx chip))
        ∧ (low = none → exec (.leaseWavelengthReturn chip wl) s = .next
          (s2.modFabric chip fun f => { f with spare := insertWl wl (s.fabric chip).spare }))))
  ∧ (∀ (size : Nat → Nat) (l : List Nat), (∀ q, smallest size l = some q → q ∈ l ∧ size q < 4 ∧ ∀ x ∈ l, size q ≤ size x)
      ∧ (smallest size l = none → ∀ x ∈ l, 4 ≤ size x))
  ∧ (∀ (s : State) (chip peer cap x : Nat), x ∈ s.packetSet chip peer cap ↔
      (x ∈ (s.fabric chip).baseOf peer ∨ x ∈ s.leasedTo chip peer cap) ∧ ((s.fabric chip).wls.get {} x).state = .good
      ∧ ∀ p ∈ (s.fabric chip).packets, p.peer ≠ peer → x ∉ p.lanes)
  ∧ (∀ (s : State) (chip peer cap flits : Nat), flits ≤ 64 → s.isMember chip peer = true → (s.chips.find chip).isSome = true →
      let ws := s.packetSet chip peer cap
      ws ≠ [] → ws.Nodup → ∃ t ps p, exec (.packetHeaderFlit chip peer cap flits) s = .next t ∧ (t.fabric chip).packets = ps ++ [p]
        ∧ p.peer = peer ∧ p.cap = cap ∧ p.flits = flits ∧ p.wset = ws ∧ (∀ x, x ∈ p.lanes ↔ x ∈ ws ∧ flitsOn ws flits x ≠ 0)
        ∧ ∀ x ∈ ws, ((t.fabric chip).wls.get {} x).seq = ((s.fabric chip).wls.get {} x).seq + flitsOn ws flits x)
  ∧ (∀ (n k : Nat) (payload : List Byte), payload.length = 56 →
      (flitBytes n k payload).length = 64 ∧ flitGood (flitBytes n k payload) = true)
  ∧ (∀ (p : FabricPacket) (wl : Nat), wl ∉ (p.retire wl).lanes ∧ wl ∉ (p.retire wl).wset
      ∧ (∀ x ∈ p.lanes, x ≠ wl → x ∈ (p.retire wl).lanes)
      ∧ (wl ∈ p.lanes → (∃ y ∈ p.wset, y ≠ wl) → (p.retire wl).lanes ≠ []))
  ∧ ∀ (s : State) (chip wl flit : Nat), let w := (s.fabric chip).wls.get {} wl
      (wl < 256 → w.state = .good →
        (flit < w.seq → (∀ e ∈ w.fails, e.1 ≤ flit) →
          (w.fails.get 0 flit < 3 → exec (.flitCrcFail chip ⟨wl, flit⟩) s = .next (s.modWl chip wl fun w => w.failed flit))
          ∧ (3 ≤ w.fails.get 0 flit → exec (.flitCrcFail chip ⟨wl, flit⟩) s = .next (s.retrain chip wl)))
        ∧ exec (.retirementBucketDecay chip wl) s = .next
          ((s.modWl chip wl fun w => { w with bucket := w.bucket - 1 }).modChip chip fun h =>
            { h with telemetry := { h.telemetry with buckets := h.telemetry.buckets.put wl (w.bucket - 1) } }))
      ∧ (w.failed flit).fails.get 0 flit = w.fails.get 0 flit + 1
      ∧ (w.state = .retraining → exec (.retrainEnd chip wl) s = .next (s.modWl chip wl fun w => { w with state := .good }))
      ∧ ((s.chips.find chip).isSome = true → w.bucket + 1 < 16 → ((s.retrain chip wl).fabric chip).wls.get {} wl
          = { w with state := .retraining, fails := [], bucket := w.bucket + 1, retrainings := w.retrainings + 1 })
      ∧ (16 ≤ w.bucket + 1 → s.retrain chip wl = (s.bench chip wl).retire chip wl)
      ∧ (w.bucket + 1 < 16 → s.retrain chip wl = s.bench chip wl)
      ∧ ((s.chips.find chip).isSome = true → ((s.bench chip wl).fabric chip).wls.get {} wl
          = { w with state := .retraining, fails := [], bucket := w.bucket + 1, retrainings := w.retrainings + 1 })

/-- Admission, delivery, completion, parking and pre-emption (02 R21, R23; 17 R336; 18 R356; 21 R389 to R392, R404 to R414). The model's choices: MSI-X vector 1 rises once for each record (log 42); a capsule whose work has ended is left alone, a move under way is finished before a completion, deferred faults of a park are reported before its save (log 38), and a pre-emption installs when tasks and nodes leave the kept cores room (log 39). -/
def Obligations.CapsuleLife : Prop :=
  (∀ (s : State) (chip i : Nat) (a : Admission) (v : Verdict), (s.chip chip).frozen = false → (s.chip chip).boot = .ready →
    s.nextAdmission chip = some (i, a, v) →
    let s1 := if (check1 a).isNone && (check2 (s.chip chip) a).isNone then s.modChip chip fun h => h.cacheSeal a else s
    let decides := fun (t : State) => exec (.capsuleAdmission chip) s = .next t
    (v = .wait → decides (s1.modChip chip fun h => h.setAdmission i a))
    ∧ (∀ r d, v = .refuse r d → decides ((s1.modChip chip fun h => h.dropAdmission i).refuse chip a r d))
    ∧ (∀ cs sh as es, v = .start cs sh as es → decides ((s1.modChip chip fun h => h.dropAdmission i).start chip a cs sh as es))
    ∧ (∀ vs, v = .take vs → ∃ id, (a.id ≠ 0 → id = a.id) ∧ decides
      ((vs.map Prod.fst).eraseDups.foldl (fun s c => s.takeCores c ((vs.filter fun v => v.1 == c).map Prod.snd) id)
        (s1.modChip chip fun h => h.setAdmission i { a with id := id }).bump)))
  ∧ (∀ (a : Admission) (reason detail : Nat), reason < 256 → detail < 2 ^ 32 → let b := refusalRecord a reason detail
      lget b 0 1 = reason ∧ lget b 1 1 = 5 ∧ lget b 4 4 = detail ∧ (reason = 1 → ∀ i, i < 40 → b[8 + i]? = some 0))
  ∧ (∀ (s : State) (cap : Nat) (c : Capsule) (r : FaultRec) (rs : List FaultRec), s.caps.find cap = some c →
      (s.chip c.chip).frozen = false → c.records = r :: rs →
      let w := s.writeRecord cap r
      let u := w.1.modCap cap fun c => { c with recAt := some w.2 }
      let t := s.modCap cap fun c => { c with told := r.seq }
      let off := fun (at_ : Option Nat) => (match at_ with
        | some o => BitVec.ofNat 64 o
        | none => BitVec.allOnes 64 : Word)
      (c.recAt = none → exec (.faultRecordDelivery cap) s
        = .next ((u.noteCap cap).modChip c.chip fun h => { h with msix := h.msix ++ [1] }))
      ∧ (∀ at_, c.recAt = some at_ → c.told < r.seq → exec (.faultRecordDelivery cap) s
        = .next (if c.faultBox = 0xFFFF then t
          else t.postTyped (.firmware c.chip 3) cap c.faultBox [0] (mkMsg (wordAt r.bytes 0) (wordAt r.bytes 0x10) (off at_) r.info0
            (if r.cls = 3 then c.deadline else r.stamp)) r.ep 3))
      ∧ (∀ at_, c.recAt = some at_ → r.seq ≤ c.told → exec (.faultRecordDelivery cap) s
        = .next (s.modCap cap fun c => { c with records := rs, recAt := none })))
  ∧ (∀ (s : State) (cap : Nat) (c : Capsule) (e : Extent) (r : FaultRec), s.caps.find cap = some c → c.reportSlot ≠ 0xFF →
      c.extents.find c.reportSlot = some e →
      let off := 64 * ((r.seq - 1) % (e.length / 64))
      (64 ≤ e.length → r.seq - c.acked ≤ e.length / 64 → off + 64 ≤ e.comm →
        s.writeRecord cap r = (s.fwWrite (.dev c.chip) c.chip cap (e.key c.reportSlot 0 off) r.bytes, some off))
      ∧ (e.length < 64 ∨ e.length / 64 < r.seq - c.acked → (s.writeRecord cap r).2 = none
        ∧ (c.seen < r.seq → ((s.writeRecord cap r).1.cap cap).overflow = min (c.overflow + 1) (2 ^ 32 - 1)
          ∧ ((s.writeRecord cap r).1.cap cap).seen = r.seq)
        ∧ (r.seq ≤ c.seen → (s.writeRecord cap r).1 = s)))
  ∧ (∀ (s : State) (chip : Nat) (r : AttestReq) (rs : List AttestReq), (s.chip chip).frozen = false →
      (s.chip chip).attests = r :: rs →
      let c := s.cap r.cap
      let s1 := (s.modChip chip fun h => { h with attests := rs }).modCap r.cap fun c => { c with attesting := false }
      exec (.attestReportDone chip) s = .next ((s1.fwWrite (.dev chip) chip r.cap r.key
          ((s.chip chip).report c.sealed c.codeId r.nonce c.ownerKey)).postTyped (.firmware chip 5) r.cap
        (bits r.ctl.toNat 0 16) [0] (mkMsg 0 r.ctl r.ptr 0 r.stamp) (c.cores.headD 0) 3))
  ∧ (∀ (s : State) (cap : Nat) (c : Capsule), s.caps.find cap = some c → (s.chip c.chip).frozen = false →
      (let s1 := (s.freeCapQuanta cap).reportDeferred cap
       c.state = .running → c.remap = false → s.workEnded cap = true → s1.delivered cap = true → s1.capReached cap (s1.endScope c) = true →
        exec (.capsuleCompletion cap) s = .next (s1.complete cap))
      ∧ (let s1 := ((c.cores.foldl State.dropJoint s).freeCapQuanta cap).reportDeferred cap
         c.state = .terminating → (c.cores.foldl State.dropJoint s).windedDown cap = true →
         ((c.cores.foldl State.dropJoint s).chip c.chip).frozen = false → s1.delivered cap = true →
         s1.capReached cap (s1.endScope c) = true → exec (.capsuleCompletion cap) s = .next (s1.complete cap))
      ∧ (c.state = .running → c.remap = true → exec (.capsuleCompletion cap) s = .next s)
      ∧ (∀ reason, let s0 := c.cores.foldl State.dropJoint s
          let s1 := s0.freeCapQuanta cap
          c.state = .parking reason → (∀ e ∈ c.cores, (s.core e).slotsFree = true ∧ (s0.core e).slotsFree = true) →
          (∀ e ∈ c.cores, (s1.core e).idle = true ∧ (s1.core e).saving = false) → s1.outstandingWork cap = false →
          let s2 := s1.reportDeferred cap
          ((s2.cap cap).records ≠ [] → exec (.park cap) s = .next s2)
          ∧ ((s2.cap cap).records = [] → c.parked = false → exec (.park cap) s = .next (s2.parkSave cap reason))
          ∧ ((s2.cap cap).records = [] → c.parked = true → s2.capReached cap (s2.endScope c) = true →
            exec (.park cap) s = .next ((s2.reportEnd cap 0x0A).removeCapsule cap)))
      ∧ (∀ ep, (s.core ep).cap = some cap → (s.core ep).vacating = true → (s.core ep).slotsFree = true →
          (s.chip (chipOf ep)).frozen = false →
          let s1 := (s.dropJoint ep).freeQuanta ep
          let kept := c.cores.filter fun e => !(s.core e).vacating
          (s1.core ep).idle = true → s1.drained ep = true →
          ((c.state = .running ∧ s.nodesFit c ep kept = true ∧
            (s.core ep).allTasks.length ≤ kept.foldl (fun n e => n + (Config.dequeDepth - (s.core e).deque.length)) 0)
          ∨ ((∃ r, c.state = .parking r) ∧ (s.core ep).saving = true)) →
          ((s1.core ep).saving = false → exec (.preemptSave ep) s = .next (s1.modCore ep fun k => { k with saving := true }))
          ∧ ((s1.core ep).saving = true → exec (.preemptSave ep) s = .next (s1.saveCore cap ep)))
      ∧ (∀ ps, c.remap = true → c.state = .running → (∀ e ∈ c.cores, (s.core e).vacating = false) →
          placeMoved c.movedActors (c.cores.map c.loadOf) = some ps →
          (∀ e ∈ c.cores, ((s.core e).ready.filter Ready.isTask).length + (c.actors.filter fun a => a.ep == e).length
            + (ps.filter fun p => p.2.1 == e).length ≤ 64) →
          let s2 := ps.foldl (fun s p => s.installActor cap p.1 p.2.1 p.2.2 (c.movedPriv.get [] p.1) (c.movedCode.get [] p.1)) (s.moveQueues cap)
          let s3 := (s2.modCap cap fun c => { c with movedPriv := [], movedCode := [], remap := false }).renumber cap
          let s4 := c.cores.foldl (fun s e => s.modCore e fun k => k.endClaims (c.movedActors.map Prod.fst)) s3
          exec (.preemptInstall cap) s = .next ((c.movedActors.foldl (fun s e => s.resume cap e.1) s4).serveQueues cap)))
  ∧ (∀ (s : State) (cap id : Nat) (eps : List Nat),
      let u := eps.foldl (fun s e => s.modCore e fun k => { k with taker := some id }) s
      u.workEnded cap = true → u.delivered cap = true → s.takeCores cap eps id = u)
  ∧ ∀ (s : State) (cap : Nat), s.caps.wf = true → (s.removeCapsule cap).caps.find cap = none
      ∧ ∀ ep ∈ (s.cap cap).cores, ((s.removeCapsule cap).core ep).cap = none

/-- Host commands, the host link, boot, reset and memory errors (22 R421 to R434; 21 R404, R415, R419; 17 R323, R339; 13 R267). The model's choices: the places of the completion ring and its opaque bytes (log 16); a 4 KiB page retired as a row, and an error of a line of host memory that lasts (log 19); what a registry block holds, when its writing ends and its layout word (log 44); how a boot fails (log 18). -/
def Obligations.HostAndFirmware : Prop :=
  (∀ (s : State) (chip : Nat), let b := (s.chip chip).bar0
    let n := b.slotCount.toNat
    b.head ≠ b.tail → (∃ i, i < 9 ∧ n = 2 ^ (i + 4)) →
    let c := (s.fwRead chip (keyOf 64 (b.ringBase.toNat + 64 * (b.head.toNat % n))) 64).1
    s.command chip = some (lget c 0 2, lget c 2 2))
  ∧ (∀ (s : State) (chip tag st : Nat) (r0 r1 : Word) (info : HostInfo), let b := (s.chip chip).bar0
    let t := s.hostReply chip tag st r0 r1 info
    t.entries = (s.fwWrite .pod chip 0 (keyOf 64 (b.complBase.toNat + 16 * (b.completions % b.slotCount.toNat)))
      (toBytes 16 (Config.completionBits tag st r0 r1).toNat)).entries
    ∧ (t.chip chip).hostDone = (s.chip chip).hostDone ++ [{ tag := tag, status := st, r0 := r0, r1 := r1, info := info }]
    ∧ (t.chip chip).msix = (s.chip chip).msix ++ [0] ∧ t.mem = s.mem)
  ∧ (∀ (s : State) (chip tag : Nat), (s.chip chip).frozen = false → (s.chip chip).boot = .ready →
    let s1 := s.modChip chip fun h => { h with bar0 := { h.bar0 with head := h.bar0.head + 1 } }
    let fails := fun (i : Instr) => exec i s = .next (s1.hostReply chip tag 1 0 0)
    let asks := fun (op : Nat) => s.command chip = some (op, tag)
    (∀ owner base length, asks 3 → let host := bit base 63
      let r : Region := { owner := owner % 2 ^ 32, host := host, base := bits base 0 51, length := length }
      let clash := ∃ g ∈ (s.chip chip).regions, g.owner ≠ r.owner ∧ g.host = host ∧ g.base < r.base + length ∧ r.base < g.base + g.length
      let room := r.base + length ≤ if host then 2 ^ 51 else Config.firmwareBase
      (bits base 51 12 = 0 → ¬clash → room → exec (.assignRegion chip tag owner base length) s
        = .next ((s1.modChip chip fun h => { h with regions := h.regions ++ [r] }).hostReply chip tag 0 0 0))
      ∧ (bits base 51 12 ≠ 0 ∨ clash ∨ ¬room → fails (.assignRegion chip tag owner base length)))
    ∧ (∀ cap c n, s.caps.find cap = some c → c.chip = chip → n ≠ 0 → c.state = .running → c.redundant = false →
        c.contSlot ≠ 0xFF → (s.takableCores cap ≠ [] → asks 4 → exec (.preEmpt chip tag cap n) s = .next
          ((s1.modChip chip fun h => { h with preempts := h.preempts.put s1.fresh tag }).bump.takeCores cap
            (highest n (s.takableCores cap)) s1.fresh))
        ∧ (s.takableCores cap = [] → exec (.preEmpt chip tag cap n) s = .next s))
    ∧ (∀ cap n, asks 4 → s.caps.find cap = none → fails (.preEmpt chip tag cap n))
    ∧ (∀ b, (asks 5 → exec (.readTelemetry chip tag b) s = .next ((s1.fwWrite .pod chip 0 (keyOf 64 b)
          (Config.bufferBytes ((s.chip chip).telemetry.numbers chip))).hostReply chip tag 0 0 0 (.telemetry (s.chip chip).telemetry)))
      ∧ (asks 10 → exec (.listContinuations chip tag b) s = .next ((s1.fwWrite .pod chip 0 (keyOf 64 b)
          (Config.bufferBytes (contNumbers (s.chip chip).conts))).hostReply chip tag 0 0 0 (.conts (s.chip chip).conts))))
    ∧ (∀ nonce b, asks 6 → exec (.hostAttest chip tag nonce b) s = .next ((s1.fwWrite .pod chip 0 (keyOf 64 b)
        ((s.chip chip).report (zeros 32) (zeros 32) (toBytes 32 nonce) 0)).hostReply chip tag 0 0 0))
    ∧ (∀ image n, asks 7 → (∀ key, rawKey chip image = some key → ∃ t, exec (.stageFirmware chip tag image n) s = .next t
          ∧ (t.chip chip).staged = firmwareImage (s1.fwRead chip key n).1
          ∧ ((s.chip chip).drive0.good = true → (s.chip chip).drive0.active = 0 →
            (t.chip chip).drive0 = { (s.chip chip).drive0 with slot1 := firmwareImage (s1.fwRead chip key n).1 }))
        ∧ (rawKey chip image = none → fails (.stageFirmware chip tag image n)))
    ∧ (asks 8 → ((s.chip chip).staged = none → fails (.activateFirmware chip tag))
      ∧ ∀ f, (s.chip chip).staged = some f →
        (∀ c, ((s.chip chip).conts.find? fun c => !f.layouts.contains c.layout) = some c → exec (.activateFirmware chip tag) s
          = .next (s1.hostReply chip tag 2 (wordAt c.hash 0) (wordAt c.hash 8)))
        ∧ ((∀ c ∈ (s.chip chip).conts, c.layout ∈ f.layouts) → ∃ t, exec (.activateFirmware chip tag) s = .next t
          ∧ (t.chip chip).firmware = some f ∧ (t.chip chip).staged = none ∧ (t.chip chip).frozen = true
          ∧ t.mem = s.mem.write (keyOf chip Config.firmwareBase) (f.bytes.take (Config.hbmTop - Config.firmwareBase))
          ∧ ((s.chip chip).drive0.good = true →
            (t.chip chip).drive0 = (s.chip chip).drive0.setActive (1 - (s.chip chip).drive0.active))))
    ∧ (∀ rec n r key, asks 9 → rawKey chip rec = some key → configOf (s1.fwRead chip key n).1 = some r →
        exec (.installConfiguration chip tag rec n) s
          = .next ((s1.modChip chip fun h => h.modDrive fun d => { d with config := some r }).hostReply chip tag 0 0 0))
    ∧ (∀ h, asks 11 → let x := toBytes 32 h
        ((∃ c ∈ (s.chip chip).conts, c.hash = x) → exec (.dropContinuation chip tag h) s = .next
          ((s1.modChip chip fun h => h.dropCont x).hostReply chip tag 0 0 0))
        ∧ ((∀ c ∈ (s.chip chip).conts, c.hash ≠ x) → fails (.dropContinuation chip tag h))))
  ∧ (∀ (h : Chip) (x : List Byte), (h.dropCont x).conts = h.conts.filter (fun c => c.hash != x) ∧ (h.dropCont x).spent = h.spent ++ [x])
  ∧ (∀ (s : State) (chip off key : Nat),
      (∀ bs, (s.chip chip).bar2 chip off bs.length = some key →
        exec (.hostBar2Write chip off bs) s = .next (s.fwWrite .pod chip 0 key bs))
      ∧ (∀ n, (s.chip chip).bar2 chip off n = some key → ∃ t, exec (.hostBar2Read chip off n) s = .next t
        ∧ (t.chip chip).hostRead = (s.readPath [.pod] key s.tick n).1 ∧ t.mem = s.mem ∧ t.entries = s.entries)
      ∧ (∀ op (width : Nat) a b, let n := width / 8
          width = 32 ∨ width = 64 → (s.chip chip).bar2 chip off n = some key → key % n = 0 →
          (∀ e ∈ s.entries, e.party = 0 → e.core = chip * 1024 → overlap (key, n) (e.key, e.bytes.length) = false) →
          let r := s.atM (match op with | .fetchAdd => .add | .swap => .swap | .cas => .cas) (if width = 64 then .i64 else .i32) key a b
          ∃ t, exec (.hostAtomic chip off op width a b) s = .next t ∧ (t.chip chip).hostRead = toBytes n r.2.1 ∧ t.mem = r.1.mem)
      ∧ ∀ op (width : Nat) a b, width ≠ 32 → width ≠ 64 → ∃ t, exec (.hostAtomic chip off op width a b) s = .next t
          ∧ (t.chip chip).hostUnsupported = true ∧ t.mem = s.mem ∧ t.entries = s.entries)
  ∧ (∀ (s : State) (chip : Nat), let h := s.chip chip
      (∀ failure, h.boot ≠ .booting → ∃ t, exec (.coldBoot chip failure) s = .next t ∧ (t.chip chip).boot = .booting
        ∧ (∀ e ∈ t.caps, e.2.chip ≠ chip) ∧ (∀ e ∈ t.cores, chipOf e.1 ≠ chip) ∧ ∀ e ∈ t.mem, homeOf e.1 ≠ chip)
      ∧ (∀ failure, h.boot = .booting → s.bootFailure chip failure = none → ∃ t, exec (.coldBoot chip failure) s = .next t
        ∧ (t.chip (h.number chip)).boot = .ready ∧ (t.chip (h.number chip)).config = (h.drive.getD {}).config
        ∧ (t.chip (h.number chip)).firmware = (h.drive.getD {}).image
        ∧ (t.chip (h.number chip)).telemetry = (h.drive.getD {}).telemetry
        ∧ ∀ f, (h.drive.getD {}).image = some f → t.mem = s.mem.write (keyOf (h.number chip) Config.firmwareBase)
          (f.bytes.take (Config.hbmTop - Config.firmwareBase)))
      ∧ (∀ failure f, h.boot = .booting → s.bootFailure chip failure = some f → ∃ t, exec (.coldBoot chip failure) s = .next t
        ∧ (t.chip chip).boot = .failed f (Config.bootCause f s.fresh))
      ∧ (h.number chip = chip → s.bootFailure chip none = h.bootFails
        ∧ ∀ f, 1 ≤ f → f ≤ 9 → (h.bootFails = none → s.bootFailure chip (some f) = some f)
          ∧ ∀ g, h.bootFails = some g → s.bootFailure chip (some f) = some (min f g))
      ∧ (∀ core, core < 8 → exec (.watchdogExpiry chip core) s = .next (s.bump.modChip chip (Chip.freeze s.fresh)))
      ∧ exec (.kernelPanic chip) s = .next (s.bump.modChip chip (Chip.freeze s.fresh))
      ∧ (∀ n, (h.boot = .ready → (Chip.freeze n h).frozen = true) ∧ (h.frozen = true → Chip.freeze n h = h)
        ∧ (Chip.freeze n h).conts = h.conts ∧ (Chip.freeze n h).admissions = h.admissions ∧ (Chip.freeze n h).queues = h.queues)
      ∧ (∃ t, exec (.functionLevelReset chip) s = .next t ∧ (h.boot = .ready → (t.chip chip).frozen = true)
        ∧ (∀ q c, t.queue chip q = some c → c.cap ≠ none) ∧ (t.chip chip).bar0.ringBase = 0 ∧ (t.chip chip).bar0.tail = 0
        ∧ (t.chip chip).bar0.slotCount = 0 ∧ (t.chip chip).bar0.complBase = 0)
      ∧ (h.frozen = true → ∃ t, exec (.warmRebootEnd chip) s = .next t ∧ (t.chip chip).frozen = false ∧ t.mem = s.mem
        ∧ (∀ cap c, s.caps.find cap = some c → c.chip = chip → (t.cap cap).recAt = none ∧ (t.cap cap).asked = none)
        ∧ ∀ cap b, h.registry.find cap = some b → (t.chip chip).registry.find cap = some (b.recovered.converted h.version))
      ∧ (∀ die ep, die < 4 → dieOf ep = chip * 4 + die → exec (.thermalThrottle chip die ep) s
          = .next (s.modCore ep fun c => { c with mhz := max 1000 (c.mhz - 100) }))
      ∧ (∀ ep mhz, 2000 ≤ mhz → mhz ≤ 2600 → mhz % 100 = 0 →
          exec (.clockBoost ep mhz) s = .next (s.modCore ep fun c => { c with mhz := mhz }))
      ∧ (∃ t, exec (.thermalShutdown chip) s = .next t ∧ (t.chip chip).boot = .off ∧ (∀ e ∈ t.caps, e.2.chip ≠ chip)
        ∧ (h.drive0.good = true → (t.chip chip).drive0.telemetry.shutdowns = h.telemetry.shutdowns + 1))
      ∧ (h.frozen = false → exec (.telemetrySave chip) s = .next (s.modChip chip fun h => (h.runFor 60).saveTelemetry))
      ∧ (∃ n, n < 60 ∧ exec (.orderlyShutdown chip) s = .next (s.bump.modChip chip fun h => (h.runFor n).saveTelemetry))
      ∧ (∀ n, (h.runFor n).telemetry.thermal = h.telemetry.thermal + n)
      ∧ (h.drive0.good = true → h.saveTelemetry.drive0 = { h.drive0 with telemetry := h.telemetry }))
  ∧ (∀ (b : RegBlock) (new : List Byte) (k n : Nat), b.first = b.last → let r := (b.stopped new k n).recovered
      r.first = r.last ∧ (k < 4 → r.body = b.body) ∧ (4 ≤ k → r.body = new))
  ∧ (∀ (b : RegBlock) (new : List Byte) (k n : Nat), b.next = some new → b.first = b.last → let r := (b.interrupted k n).recovered
      r.first = r.last ∧ (k < 4 → r.body = b.body ∧ r.next = some new) ∧ (4 ≤ k → r.body = new ∧ r.next = none))
  ∧ (∀ (b : RegBlock) (new : List Byte), b.next = none → (b.begin new).next = some new ∧ (b.begin new).body = b.body
      ∧ (b.begin new).settled.body = new ∧ (b.begin new).settled.first = (b.begin new).settled.last)
  ∧ (∀ (b : RegBlock) (v : Nat), (b.converted v).body.take 4 = toBytes 4 v
      ∧ (b.body.take 4 ≠ toBytes 4 v → (b.converted v).body.drop 4 = b.body.drop 4))
  ∧ (∀ (s : State) (key : Nat), homeOf key < 64 → let page := addrOf key / 4096
      ∃ t, exec (.uncorrectableError (.line key)) s = .next t ∧ t.poison.find (key / 64) = some 0
        ∧ page ∈ (t.chip (homeOf key)).telemetry.retiredPages
        ∧ ((s.chip (homeOf key)).drive0.good = true → page ∈ (t.chip (homeOf key)).drive0.telemetry.retiredPages)
        ∧ (t.chip (homeOf key)).telemetry.uncorrectable.get 0 (page % 12)
          = (s.chip (homeOf key)).telemetry.uncorrectable.get 0 (page % 12) + 1)
  ∧ (∀ (s : State) (key : Nat), homeOf key = 64 → ∃ t, exec (.uncorrectableError (.line key)) s = .next t
        ∧ t.poison.find (key / 64) = some 0 ∧ t.mem = s.mem ∧ t.chips = s.chips)
  ∧ (∀ (s : State) (ep n : Nat), (n < 16 → ∃ t, exec (.uncorrectableError (.slot ep n)) s = .next t ∧ ((t.core ep).bank n).tag = .poison)
      ∧ (n < 8 → ∃ t, exec (.uncorrectableError (.tile ep n)) s = .next t ∧ ((t.core ep).tile n).tag = .poison))
  ∧ ∀ (s : State) (chip row : Nat), let k := (s.chip chip).telemetry.corrected.get 0 row
      ∃ t, exec (.correctedError chip row) s = .next t ∧ (t.chip chip).telemetry.corrected.get 0 row = k + 1
        ∧ (64 ≤ k → row ∈ (t.chip chip).telemetry.retiredPages)
        ∧ (k < 64 → (t.chip chip).telemetry.retiredPages = (s.chip chip).telemetry.retiredPages)

/-- The frame of the scalar and vector instructions (03 R41, R43, R49): ldiw, whose operand is a literal word, the others named in the two lists. The values that a slot's registers held earlier are the model's own record, for what a freed register may read as (log 21). -/
def Obligations.RegisterFrame : Prop :=
  let scalars : List (Ops → Instr) :=
    [Instr.mov, .movi, .mkptr, .ptrx, .add, .sub, .addc, .subb, .mul, .mulh, .div, .rem, .neg, .abs,
        .min, .max, .andB, .orB, .xorB, .andn, .notB, .shl, .shr, .sar, .rol, .ror, .clz, .ctz, .popc,
        .bfx, .bfi, .sext, .zext, .cmp, .sel, .pand, .por, .pxor, .pnot]
  let vectors : List (Ops → Instr) :=
    [Instr.vpack, .vscale, .vadd, .vsub, .vmul, .vmulh, .vmad, .vmin, .vmax, .vabs, .vneg, .vand, .vor,
        .vxor, .vnot, .vshl, .vshr, .vsar, .vcmp, .vsel, .vaddsub, .vdot4, .vred, .vpopc, .vclz, .vbcast,
        .vperm, .vslide, .vextr, .vins, .vcompress, .vexpand, .vtrit, .vcvt, .vunpk, .vtag, .vfadd, .vfsub,
        .vfmul, .vffma, .vfmin, .vfmax, .vfabs, .vfneg, .vfdiv, .vfsqrt, .vfrcp, .vfrsq, .vfexp2, .vflog2,
        .vfcmp, .vfred, .vfclass, .vfredSeq]
  ∀ (i : Instr) (o : Ops) (s t : State),
    let scalar := (∃ mk ∈ scalars, i = mk o) ∨ ∃ w : Wide, i = .ldiw w ∧ o = w.ops
    (scalar ∨ ∃ mk ∈ vectors, i = mk o) → exec i s = .next t → (∀ f, t ≠ faulted s f) →
    SameOutside s t ∧ SameCores s t ∧ t.curCore = s.curCore ∧ t.curSlot = s.curSlot ∧ t.agenda = s.agenda ∧ t.tick = s.tick
    ∧ t.curC = { s.curC with
        slots := t.curC.slots, sq := t.curC.sq, vq := t.curC.vq, lastSlot := t.curC.lastSlot, runLen := t.curC.runLen
        lastCycle := t.curC.lastCycle }
    ∧ t.cur = { s.cur with
        sregs := t.cur.sregs, vregs := t.cur.vregs, pregs := t.cur.pregs
        pastS := t.cur.pastS, pastV := t.cur.pastV, pastP := t.cur.pastP, fstat := t.cur.fstat, srseed := t.cur.srseed
        firing := t.cur.firing, wait := t.cur.wait, delay := t.cur.delay, age := t.cur.age, issuedAt := t.cur.issuedAt }
    ∧ t.cur.firing = s.cur.firing.map (fun f => { f with pc := t.curF.pc, loops := t.curF.loops })
    ∧ (∀ n, namesS o.d n = false → (t.cur.sreg n).val = (s.cur.sreg n).val ∧ (t.cur.sreg n).poison = (s.cur.sreg n).poison
      ∧ (t.cur.sreg n).pend = (s.cur.sreg n).pend)
    ∧ (∀ n, namesV o.d n = false → (i = .vscale o → ∀ k, k < 4 → n ≠ (o.d.num + k) % 64) → (i = .vpack o → n ≠ o.d.num + 1) →
      (t.cur.vreg n).bits = (s.cur.vreg n).bits ∧ (t.cur.vreg n).pend = (s.cur.vreg n).pend
      ∧ (namesV o.a n = false → namesV o.b n = false → (t.cur.vreg n).tag = (s.cur.vreg n).tag))
    ∧ (∀ n, namesP o.d n = false → (t.cur.preg n).bits = (s.cur.preg n).bits)
    ∧ (∀ q : Fin 16, o.d ≠ .q q → o.a ≠ .q q → o.b ≠ .q q → t.curC.sq' q.val = s.curC.sq' q.val ∧ t.curC.vq' q.val = s.curC.vq' q.val)
    ∧ (scalar → t.cur.srseed = s.cur.srseed
      ∧ (∀ i, i ≠ 5 → i ≠ 6 → t.cur.fstat.getLsbD i = s.cur.fstat.getLsbD i)
      ∧ (o.mods.mode.val ≠ 1 → t.cur.fstat.getLsbD 5 = s.cur.fstat.getLsbD 5)
      ∧ (i ≠ .div o → i ≠ .rem o → t.cur.fstat.getLsbD 6 = s.cur.fstat.getLsbD 6))

/-- The state after reset: a completed cold boot (22 Table 22.2) with every core clear (17 Table 17.7). The values the spec does not give are the model's choice (logs 1, 6 and 7). -/
def Obligations.ResetState : Prop :=
  State.reset.Canonical ∧ State.reset.mem = [] ∧ State.reset.poison = [] ∧ State.reset.caps = [] ∧ State.reset.entries = []
    ∧ State.reset.iq = [] ∧ State.reset.remote = [] ∧ State.reset.phasers = [] ∧ State.reset.held = []
    ∧ (State.reset.chip 0).boot = .ready ∧ (State.reset.chip 0).frozen = false ∧ (State.reset.chip 0).admissions = []
    ∧ (∀ c, c ≠ 0 → (State.reset.chip c).boot ≠ .ready)
    ∧ ∀ ep, (State.reset.core ep).cap = none ∧ (State.reset.core ep).cycles = 0 ∧ (State.reset.core ep).lstore = []
      ∧ (∀ n, (State.reset.core ep).sq' n = [] ∧ (State.reset.core ep).vq' n = [])
      ∧ (∀ n, ((State.reset.core ep).bank n).claim = .free ∧ ((State.reset.core ep).bank n).data = 0)
      ∧ ∀ k, let x := State.reset.slot ep k
        x.firing = none ∧ x.fctl = 0 ∧ x.fstat = 0 ∧ (∀ n, (x.sreg n).val = 0) ∧ ∀ n, (x.vreg n).bits = 0

/-- Every step keeps M and every L store in canonical form, whatever instruction or event it is (09 R174, R176). The form is the model's own (log 6). -/
def Obligations.CanonicalKept : Prop :=
  ∀ s t : State, s.Canonical → step s = .next t → t.Canonical
end

