-- ==== Sys2Proof/Laws/State.lean ====
section
/-!
SUPPORT. One lemma for each field of the state under each named update, and what the maps of cores, chips and capsules
hold after an update.
-/
namespace Sys2Proof

/-! Maps. -/

@[simp] theorem AMap.get_nil {α : Type} (d : α) (j : Nat) : AMap.get d [] j = d := rfl
@[simp] theorem AMap.find_nil {α : Type} (j : Nat) : AMap.find ([] : AMap α) j = none := rfl
@[simp] theorem AMap.find_put_same {α : Type} (m : AMap α) (j : Nat) (x : α) : (m.put j x).find j = some x := by
  induction m with
  | nil => simp [AMap.put, AMap.find]
  | cons e m ih =>
    obtain ⟨k, v⟩ := e
    simp only [AMap.put]
    split
    · simp [AMap.find, *]
    · split <;> simp [AMap.find, *]
theorem AMap.find_put_other {α : Type} (m : AMap α) {j k : Nat} (x : α) (h : k ≠ j) : (m.put j x).find k = m.find k := by
  induction m with
  | nil => simp [AMap.put, AMap.find, h]
  | cons e m ih =>
    obtain ⟨i, v⟩ := e
    simp only [AMap.put]
    split
    · rename_i e; subst e; simp [AMap.find, h]
    · split
      · simp [AMap.find, h]
      · simp only [AMap.find, ih]
theorem AMap.get_eq_find {α : Type} (d : α) (m : AMap α) (j : Nat) : m.get d j = (m.find j).getD d := by
  induction m with
  | nil => rfl
  | cons e m ih =>
    obtain ⟨i, v⟩ := e
    simp only [AMap.get, AMap.find]
    split <;> simp [*]
@[simp] theorem AMap.get_put_same {α : Type} (d : α) (m : AMap α) (j : Nat) (x : α) : (m.put j x).get d j = x := by
  simp [AMap.get_eq_find]
theorem AMap.get_put_other {α : Type} (d : α) (m : AMap α) {j k : Nat} (x : α) (h : k ≠ j) :
    (m.put j x).get d k = m.get d k := by
  simp [AMap.get_eq_find, AMap.find_put_other m x h]
theorem AMap.find_del_same {α : Type} (m : AMap α) (j : Nat) (h : m.wf = true) : (m.del j).find j = none := by
  induction m with
  | nil => rfl
  | cons e m ih =>
    obtain ⟨i, v⟩ := e
    simp only [AMap.wf, Bool.and_eq_true, List.all_eq_true, decide_eq_true_eq] at h
    simp only [AMap.del]
    split
    · rename_i e; subst e
      have hlt := h.1
      clear ih h
      induction m with
      | nil => rfl
      | cons e m ih =>
        obtain ⟨k, w⟩ := e
        have := hlt (k, w) (by simp)
        simp only [AMap.find]
        rw [if_neg (by simp at this; omega)]
        exact ih fun x hx => hlt x (by simp [hx])
    · simp only [AMap.find, if_neg ‹_›, ih h.2]
theorem AMap.wf_put {α : Type} (m : AMap α) (j : Nat) (x : α) (h : m.wf = true) : (m.put j x).wf = true := by
  have key : ∀ (m : AMap α) (lo : Nat), lo < j → (∀ e ∈ m, lo < e.1) → ∀ e ∈ m.put j x, lo < e.1 := by
    intro m
    induction m with
    | nil => intro lo hj _ e he; simp [AMap.put] at he; subst he; exact hj
    | cons e m ih =>
      obtain ⟨i, v⟩ := e
      intro lo hj hm e he
      simp only [AMap.put] at he
      split at he
      · rcases List.mem_cons.1 he with rfl | he
        · exact hm (i, v) (by simp)
        · exact hm e (by simp [he])
      · split at he
        · rcases List.mem_cons.1 he with rfl | he
          · exact hj
          · exact hm e he
        · rcases List.mem_cons.1 he with rfl | he
          · exact hm _ (by simp)
          · exact ih lo hj (fun e he => hm e (by simp [he])) e he
  induction m with
  | nil => rfl
  | cons e m ih =>
    obtain ⟨i, v⟩ := e
    simp only [AMap.wf, Bool.and_eq_true, List.all_eq_true, decide_eq_true_eq] at h
    simp only [AMap.put]
    split
    · simp only [AMap.wf, Bool.and_eq_true, List.all_eq_true, decide_eq_true_eq]; exact h
    · split
      · simp only [AMap.wf, Bool.and_eq_true, List.all_eq_true, decide_eq_true_eq]
        refine ⟨fun e he => ?_, h⟩
        rcases List.mem_cons.1 he with rfl | he
        · assumption
        · have := h.1 e he; omega
      · simp only [AMap.wf, Bool.and_eq_true, List.all_eq_true, decide_eq_true_eq]
        exact ⟨key m i (by omega) h.1, ih h.2⟩

namespace Machine

/-! Fields under updates. -/

@[simp] theorem State.setCore_agenda (s : State) (ep : Nat) (c : Core) : (s.setCore ep c).agenda = s.agenda := rfl
@[simp] theorem State.setCore_tick (s : State) (ep : Nat) (c : Core) : (s.setCore ep c).tick = s.tick := rfl
@[simp] theorem State.setCore_fresh (s : State) (ep : Nat) (c : Core) : (s.setCore ep c).fresh = s.fresh := rfl
@[simp] theorem State.setCore_curCore (s : State) (ep : Nat) (c : Core) : (s.setCore ep c).curCore = s.curCore := rfl
@[simp] theorem State.setCore_curSlot (s : State) (ep : Nat) (c : Core) : (s.setCore ep c).curSlot = s.curSlot := rfl
@[simp] theorem State.setCore_chips (s : State) (ep : Nat) (c : Core) : (s.setCore ep c).chips = s.chips := rfl
@[simp] theorem State.setCore_caps (s : State) (ep : Nat) (c : Core) : (s.setCore ep c).caps = s.caps := rfl
@[simp] theorem State.setCore_mem (s : State) (ep : Nat) (c : Core) : (s.setCore ep c).mem = s.mem := rfl
@[simp] theorem State.setCore_poison (s : State) (ep : Nat) (c : Core) : (s.setCore ep c).poison = s.poison := rfl
@[simp] theorem State.setCore_entries (s : State) (ep : Nat) (c : Core) : (s.setCore ep c).entries = s.entries := rfl
@[simp] theorem State.setCore_iq (s : State) (ep : Nat) (c : Core) : (s.setCore ep c).iq = s.iq := rfl
@[simp] theorem State.setCore_remote (s : State) (ep : Nat) (c : Core) : (s.setCore ep c).remote = s.remote := rfl
@[simp] theorem State.setCore_phasers (s : State) (ep : Nat) (c : Core) : (s.setCore ep c).phasers = s.phasers := rfl
@[simp] theorem State.setCore_phq (s : State) (ep : Nat) (c : Core) : (s.setCore ep c).phq = s.phq := rfl
@[simp] theorem State.setCore_held (s : State) (ep : Nat) (c : Core) : (s.setCore ep c).held = s.held := rfl

@[simp] theorem State.modCore_agenda (s : State) (ep : Nat) (f : Core → Core) : (s.modCore ep f).agenda = s.agenda := rfl
@[simp] theorem State.modCore_tick (s : State) (ep : Nat) (f : Core → Core) : (s.modCore ep f).tick = s.tick := rfl
@[simp] theorem State.modCore_fresh (s : State) (ep : Nat) (f : Core → Core) : (s.modCore ep f).fresh = s.fresh := rfl
@[simp] theorem State.modCore_curCore (s : State) (ep : Nat) (f : Core → Core) : (s.modCore ep f).curCore = s.curCore := rfl
@[simp] theorem State.modCore_curSlot (s : State) (ep : Nat) (f : Core → Core) : (s.modCore ep f).curSlot = s.curSlot := rfl
@[simp] theorem State.modCore_chips (s : State) (ep : Nat) (f : Core → Core) : (s.modCore ep f).chips = s.chips := rfl
@[simp] theorem State.modCore_caps (s : State) (ep : Nat) (f : Core → Core) : (s.modCore ep f).caps = s.caps := rfl
@[simp] theorem State.modCore_mem (s : State) (ep : Nat) (f : Core → Core) : (s.modCore ep f).mem = s.mem := rfl
@[simp] theorem State.modCore_poison (s : State) (ep : Nat) (f : Core → Core) : (s.modCore ep f).poison = s.poison := rfl
@[simp] theorem State.modCore_entries (s : State) (ep : Nat) (f : Core → Core) : (s.modCore ep f).entries = s.entries := rfl
@[simp] theorem State.modCore_iq (s : State) (ep : Nat) (f : Core → Core) : (s.modCore ep f).iq = s.iq := rfl
@[simp] theorem State.modCore_remote (s : State) (ep : Nat) (f : Core → Core) : (s.modCore ep f).remote = s.remote := rfl
@[simp] theorem State.modCore_phasers (s : State) (ep : Nat) (f : Core → Core) : (s.modCore ep f).phasers = s.phasers := rfl
@[simp] theorem State.modCore_phq (s : State) (ep : Nat) (f : Core → Core) : (s.modCore ep f).phq = s.phq := rfl
@[simp] theorem State.modCore_held (s : State) (ep : Nat) (f : Core → Core) : (s.modCore ep f).held = s.held := rfl

@[simp] theorem State.modSlot_agenda (s : State) (ep k : Nat) (f : Slot → Slot) : (s.modSlot ep k f).agenda = s.agenda := rfl
@[simp] theorem State.modSlot_tick (s : State) (ep k : Nat) (f : Slot → Slot) : (s.modSlot ep k f).tick = s.tick := rfl
@[simp] theorem State.modSlot_fresh (s : State) (ep k : Nat) (f : Slot → Slot) : (s.modSlot ep k f).fresh = s.fresh := rfl
@[simp] theorem State.modSlot_curCore (s : State) (ep k : Nat) (f : Slot → Slot) : (s.modSlot ep k f).curCore = s.curCore := rfl
@[simp] theorem State.modSlot_curSlot (s : State) (ep k : Nat) (f : Slot → Slot) : (s.modSlot ep k f).curSlot = s.curSlot := rfl
@[simp] theorem State.modSlot_chips (s : State) (ep k : Nat) (f : Slot → Slot) : (s.modSlot ep k f).chips = s.chips := rfl
@[simp] theorem State.modSlot_caps (s : State) (ep k : Nat) (f : Slot → Slot) : (s.modSlot ep k f).caps = s.caps := rfl
@[simp] theorem State.modSlot_mem (s : State) (ep k : Nat) (f : Slot → Slot) : (s.modSlot ep k f).mem = s.mem := rfl
@[simp] theorem State.modSlot_poison (s : State) (ep k : Nat) (f : Slot → Slot) : (s.modSlot ep k f).poison = s.poison := rfl
@[simp] theorem State.modSlot_entries (s : State) (ep k : Nat) (f : Slot → Slot) : (s.modSlot ep k f).entries = s.entries := rfl
@[simp] theorem State.modSlot_iq (s : State) (ep k : Nat) (f : Slot → Slot) : (s.modSlot ep k f).iq = s.iq := rfl
@[simp] theorem State.modSlot_remote (s : State) (ep k : Nat) (f : Slot → Slot) : (s.modSlot ep k f).remote = s.remote := rfl
@[simp] theorem State.modSlot_phasers (s : State) (ep k : Nat) (f : Slot → Slot) : (s.modSlot ep k f).phasers = s.phasers := rfl
@[simp] theorem State.modSlot_phq (s : State) (ep k : Nat) (f : Slot → Slot) : (s.modSlot ep k f).phq = s.phq := rfl
@[simp] theorem State.modSlot_held (s : State) (ep k : Nat) (f : Slot → Slot) : (s.modSlot ep k f).held = s.held := rfl

@[simp] theorem State.modCur_agenda (s : State) (f : Slot → Slot) : (s.modCur f).agenda = s.agenda := rfl
@[simp] theorem State.modCur_tick (s : State) (f : Slot → Slot) : (s.modCur f).tick = s.tick := rfl
@[simp] theorem State.modCur_fresh (s : State) (f : Slot → Slot) : (s.modCur f).fresh = s.fresh := rfl
@[simp] theorem State.modCur_curCore (s : State) (f : Slot → Slot) : (s.modCur f).curCore = s.curCore := rfl
@[simp] theorem State.modCur_curSlot (s : State) (f : Slot → Slot) : (s.modCur f).curSlot = s.curSlot := rfl
@[simp] theorem State.modCur_chips (s : State) (f : Slot → Slot) : (s.modCur f).chips = s.chips := rfl
@[simp] theorem State.modCur_caps (s : State) (f : Slot → Slot) : (s.modCur f).caps = s.caps := rfl
@[simp] theorem State.modCur_mem (s : State) (f : Slot → Slot) : (s.modCur f).mem = s.mem := rfl
@[simp] theorem State.modCur_poison (s : State) (f : Slot → Slot) : (s.modCur f).poison = s.poison := rfl
@[simp] theorem State.modCur_entries (s : State) (f : Slot → Slot) : (s.modCur f).entries = s.entries := rfl
@[simp] theorem State.modCur_iq (s : State) (f : Slot → Slot) : (s.modCur f).iq = s.iq := rfl
@[simp] theorem State.modCur_remote (s : State) (f : Slot → Slot) : (s.modCur f).remote = s.remote := rfl
@[simp] theorem State.modCur_phasers (s : State) (f : Slot → Slot) : (s.modCur f).phasers = s.phasers := rfl
@[simp] theorem State.modCur_phq (s : State) (f : Slot → Slot) : (s.modCur f).phq = s.phq := rfl
@[simp] theorem State.modCur_held (s : State) (f : Slot → Slot) : (s.modCur f).held = s.held := rfl

@[simp] theorem State.modCurC_agenda (s : State) (f : Core → Core) : (s.modCurC f).agenda = s.agenda := rfl
@[simp] theorem State.modCurC_tick (s : State) (f : Core → Core) : (s.modCurC f).tick = s.tick := rfl
@[simp] theorem State.modCurC_fresh (s : State) (f : Core → Core) : (s.modCurC f).fresh = s.fresh := rfl
@[simp] theorem State.modCurC_curCore (s : State) (f : Core → Core) : (s.modCurC f).curCore = s.curCore := rfl
@[simp] theorem State.modCurC_curSlot (s : State) (f : Core → Core) : (s.modCurC f).curSlot = s.curSlot := rfl
@[simp] theorem State.modCurC_chips (s : State) (f : Core → Core) : (s.modCurC f).chips = s.chips := rfl
@[simp] theorem State.modCurC_caps (s : State) (f : Core → Core) : (s.modCurC f).caps = s.caps := rfl
@[simp] theorem State.modCurC_mem (s : State) (f : Core → Core) : (s.modCurC f).mem = s.mem := rfl
@[simp] theorem State.modCurC_poison (s : State) (f : Core → Core) : (s.modCurC f).poison = s.poison := rfl
@[simp] theorem State.modCurC_entries (s : State) (f : Core → Core) : (s.modCurC f).entries = s.entries := rfl
@[simp] theorem State.modCurC_iq (s : State) (f : Core → Core) : (s.modCurC f).iq = s.iq := rfl
@[simp] theorem State.modCurC_remote (s : State) (f : Core → Core) : (s.modCurC f).remote = s.remote := rfl
@[simp] theorem State.modCurC_phasers (s : State) (f : Core → Core) : (s.modCurC f).phasers = s.phasers := rfl
@[simp] theorem State.modCurC_phq (s : State) (f : Core → Core) : (s.modCurC f).phq = s.phq := rfl
@[simp] theorem State.modCurC_held (s : State) (f : Core → Core) : (s.modCurC f).held = s.held := rfl

@[simp] theorem State.modF_agenda (s : State) (f : Firing → Firing) : (s.modF f).agenda = s.agenda := rfl
@[simp] theorem State.modF_tick (s : State) (f : Firing → Firing) : (s.modF f).tick = s.tick := rfl
@[simp] theorem State.modF_fresh (s : State) (f : Firing → Firing) : (s.modF f).fresh = s.fresh := rfl
@[simp] theorem State.modF_curCore (s : State) (f : Firing → Firing) : (s.modF f).curCore = s.curCore := rfl
@[simp] theorem State.modF_curSlot (s : State) (f : Firing → Firing) : (s.modF f).curSlot = s.curSlot := rfl
@[simp] theorem State.modF_chips (s : State) (f : Firing → Firing) : (s.modF f).chips = s.chips := rfl
@[simp] theorem State.modF_caps (s : State) (f : Firing → Firing) : (s.modF f).caps = s.caps := rfl
@[simp] theorem State.modF_mem (s : State) (f : Firing → Firing) : (s.modF f).mem = s.mem := rfl
@[simp] theorem State.modF_poison (s : State) (f : Firing → Firing) : (s.modF f).poison = s.poison := rfl
@[simp] theorem State.modF_entries (s : State) (f : Firing → Firing) : (s.modF f).entries = s.entries := rfl
@[simp] theorem State.modF_iq (s : State) (f : Firing → Firing) : (s.modF f).iq = s.iq := rfl
@[simp] theorem State.modF_remote (s : State) (f : Firing → Firing) : (s.modF f).remote = s.remote := rfl
@[simp] theorem State.modF_phasers (s : State) (f : Firing → Firing) : (s.modF f).phasers = s.phasers := rfl
@[simp] theorem State.modF_phq (s : State) (f : Firing → Firing) : (s.modF f).phq = s.phq := rfl
@[simp] theorem State.modF_held (s : State) (f : Firing → Firing) : (s.modF f).held = s.held := rfl

@[simp] theorem State.modChip_agenda (s : State) (c : Nat) (f : Chip → Chip) : (s.modChip c f).agenda = s.agenda := rfl
@[simp] theorem State.modChip_tick (s : State) (c : Nat) (f : Chip → Chip) : (s.modChip c f).tick = s.tick := rfl
@[simp] theorem State.modChip_fresh (s : State) (c : Nat) (f : Chip → Chip) : (s.modChip c f).fresh = s.fresh := rfl
@[simp] theorem State.modChip_curCore (s : State) (c : Nat) (f : Chip → Chip) : (s.modChip c f).curCore = s.curCore := rfl
@[simp] theorem State.modChip_curSlot (s : State) (c : Nat) (f : Chip → Chip) : (s.modChip c f).curSlot = s.curSlot := rfl
@[simp] theorem State.modChip_cores (s : State) (c : Nat) (f : Chip → Chip) : (s.modChip c f).cores = s.cores := rfl
@[simp] theorem State.modChip_caps (s : State) (c : Nat) (f : Chip → Chip) : (s.modChip c f).caps = s.caps := rfl
@[simp] theorem State.modChip_mem (s : State) (c : Nat) (f : Chip → Chip) : (s.modChip c f).mem = s.mem := rfl
@[simp] theorem State.modChip_poison (s : State) (c : Nat) (f : Chip → Chip) : (s.modChip c f).poison = s.poison := rfl
@[simp] theorem State.modChip_entries (s : State) (c : Nat) (f : Chip → Chip) : (s.modChip c f).entries = s.entries := rfl
@[simp] theorem State.modChip_iq (s : State) (c : Nat) (f : Chip → Chip) : (s.modChip c f).iq = s.iq := rfl
@[simp] theorem State.modChip_remote (s : State) (c : Nat) (f : Chip → Chip) : (s.modChip c f).remote = s.remote := rfl
@[simp] theorem State.modChip_phasers (s : State) (c : Nat) (f : Chip → Chip) : (s.modChip c f).phasers = s.phasers := rfl
@[simp] theorem State.modChip_phq (s : State) (c : Nat) (f : Chip → Chip) : (s.modChip c f).phq = s.phq := rfl
@[simp] theorem State.modChip_held (s : State) (c : Nat) (f : Chip → Chip) : (s.modChip c f).held = s.held := rfl

@[simp] theorem State.modCap_agenda (s : State) (id : Nat) (f : Capsule → Capsule) : (s.modCap id f).agenda = s.agenda := by
  unfold State.modCap; split <;> rfl
@[simp] theorem State.modCap_tick (s : State) (id : Nat) (f : Capsule → Capsule) : (s.modCap id f).tick = s.tick := by
  unfold State.modCap; split <;> rfl
@[simp] theorem State.modCap_fresh (s : State) (id : Nat) (f : Capsule → Capsule) : (s.modCap id f).fresh = s.fresh := by
  unfold State.modCap; split <;> rfl
@[simp] theorem State.modCap_curCore (s : State) (id : Nat) (f : Capsule → Capsule) : (s.modCap id f).curCore = s.curCore := by
  unfold State.modCap; split <;> rfl
@[simp] theorem State.modCap_curSlot (s : State) (id : Nat) (f : Capsule → Capsule) : (s.modCap id f).curSlot = s.curSlot := by
  unfold State.modCap; split <;> rfl
@[simp] theorem State.modCap_cores (s : State) (id : Nat) (f : Capsule → Capsule) : (s.modCap id f).cores = s.cores := by
  unfold State.modCap; split <;> rfl
@[simp] theorem State.modCap_chips (s : State) (id : Nat) (f : Capsule → Capsule) : (s.modCap id f).chips = s.chips := by
  unfold State.modCap; split <;> rfl
@[simp] theorem State.modCap_mem (s : State) (id : Nat) (f : Capsule → Capsule) : (s.modCap id f).mem = s.mem := by
  unfold State.modCap; split <;> rfl
@[simp] theorem State.modCap_poison (s : State) (id : Nat) (f : Capsule → Capsule) : (s.modCap id f).poison = s.poison := by
  unfold State.modCap; split <;> rfl
@[simp] theorem State.modCap_entries (s : State) (id : Nat) (f : Capsule → Capsule) : (s.modCap id f).entries = s.entries := by
  unfold State.modCap; split <;> rfl
@[simp] theorem State.modCap_iq (s : State) (id : Nat) (f : Capsule → Capsule) : (s.modCap id f).iq = s.iq := by
  unfold State.modCap; split <;> rfl
@[simp] theorem State.modCap_remote (s : State) (id : Nat) (f : Capsule → Capsule) : (s.modCap id f).remote = s.remote := by
  unfold State.modCap; split <;> rfl
@[simp] theorem State.modCap_phasers (s : State) (id : Nat) (f : Capsule → Capsule) : (s.modCap id f).phasers = s.phasers := by
  unfold State.modCap; split <;> rfl
@[simp] theorem State.modCap_phq (s : State) (id : Nat) (f : Capsule → Capsule) : (s.modCap id f).phq = s.phq := by
  unfold State.modCap; split <;> rfl
@[simp] theorem State.modCap_held (s : State) (id : Nat) (f : Capsule → Capsule) : (s.modCap id f).held = s.held := by
  unfold State.modCap; split <;> rfl

@[simp] theorem State.modActor_agenda (s : State) (cap i : Nat) (f : Actor → Actor) : (s.modActor cap i f).agenda = s.agenda := by
  simp [State.modActor]
@[simp] theorem State.modActor_tick (s : State) (cap i : Nat) (f : Actor → Actor) : (s.modActor cap i f).tick = s.tick := by
  simp [State.modActor]
@[simp] theorem State.modActor_fresh (s : State) (cap i : Nat) (f : Actor → Actor) : (s.modActor cap i f).fresh = s.fresh := by
  simp [State.modActor]
@[simp] theorem State.modActor_curCore (s : State) (cap i : Nat) (f : Actor → Actor) : (s.modActor cap i f).curCore = s.curCore := by
  simp [State.modActor]
@[simp] theorem State.modActor_curSlot (s : State) (cap i : Nat) (f : Actor → Actor) : (s.modActor cap i f).curSlot = s.curSlot := by
  simp [State.modActor]
@[simp] theorem State.modActor_cores (s : State) (cap i : Nat) (f : Actor → Actor) : (s.modActor cap i f).cores = s.cores := by
  simp [State.modActor]
@[simp] theorem State.modActor_chips (s : State) (cap i : Nat) (f : Actor → Actor) : (s.modActor cap i f).chips = s.chips := by
  simp [State.modActor]
@[simp] theorem State.modActor_mem (s : State) (cap i : Nat) (f : Actor → Actor) : (s.modActor cap i f).mem = s.mem := by
  simp [State.modActor]
@[simp] theorem State.modActor_poison (s : State) (cap i : Nat) (f : Actor → Actor) : (s.modActor cap i f).poison = s.poison := by
  simp [State.modActor]
@[simp] theorem State.modActor_entries (s : State) (cap i : Nat) (f : Actor → Actor) : (s.modActor cap i f).entries = s.entries := by
  simp [State.modActor]
@[simp] theorem State.modActor_iq (s : State) (cap i : Nat) (f : Actor → Actor) : (s.modActor cap i f).iq = s.iq := by
  simp [State.modActor]
@[simp] theorem State.modActor_remote (s : State) (cap i : Nat) (f : Actor → Actor) : (s.modActor cap i f).remote = s.remote := by
  simp [State.modActor]
@[simp] theorem State.modActor_phasers (s : State) (cap i : Nat) (f : Actor → Actor) : (s.modActor cap i f).phasers = s.phasers := by
  simp [State.modActor]
@[simp] theorem State.modActor_phq (s : State) (cap i : Nat) (f : Actor → Actor) : (s.modActor cap i f).phq = s.phq := by
  simp [State.modActor]
@[simp] theorem State.modActor_held (s : State) (cap i : Nat) (f : Actor → Actor) : (s.modActor cap i f).held = s.held := by
  simp [State.modActor]

@[simp] theorem State.bump_agenda (s : State)  : (s.bump).agenda = s.agenda := rfl
@[simp] theorem State.bump_tick (s : State)  : (s.bump).tick = s.tick := rfl
@[simp] theorem State.bump_curCore (s : State)  : (s.bump).curCore = s.curCore := rfl
@[simp] theorem State.bump_curSlot (s : State)  : (s.bump).curSlot = s.curSlot := rfl
@[simp] theorem State.bump_cores (s : State)  : (s.bump).cores = s.cores := rfl
@[simp] theorem State.bump_chips (s : State)  : (s.bump).chips = s.chips := rfl
@[simp] theorem State.bump_caps (s : State)  : (s.bump).caps = s.caps := rfl
@[simp] theorem State.bump_mem (s : State)  : (s.bump).mem = s.mem := rfl
@[simp] theorem State.bump_poison (s : State)  : (s.bump).poison = s.poison := rfl
@[simp] theorem State.bump_entries (s : State)  : (s.bump).entries = s.entries := rfl
@[simp] theorem State.bump_iq (s : State)  : (s.bump).iq = s.iq := rfl
@[simp] theorem State.bump_remote (s : State)  : (s.bump).remote = s.remote := rfl
@[simp] theorem State.bump_phasers (s : State)  : (s.bump).phasers = s.phasers := rfl
@[simp] theorem State.bump_phq (s : State)  : (s.bump).phq = s.phq := rfl
@[simp] theorem State.bump_held (s : State)  : (s.bump).held = s.held := rfl

@[simp] theorem State.setS_agenda (s : State) (n : Nat) (v : Word) : (s.setS n v).agenda = s.agenda := rfl
@[simp] theorem State.setS_tick (s : State) (n : Nat) (v : Word) : (s.setS n v).tick = s.tick := rfl
@[simp] theorem State.setS_fresh (s : State) (n : Nat) (v : Word) : (s.setS n v).fresh = s.fresh := rfl
@[simp] theorem State.setS_curCore (s : State) (n : Nat) (v : Word) : (s.setS n v).curCore = s.curCore := rfl
@[simp] theorem State.setS_curSlot (s : State) (n : Nat) (v : Word) : (s.setS n v).curSlot = s.curSlot := rfl
@[simp] theorem State.setS_chips (s : State) (n : Nat) (v : Word) : (s.setS n v).chips = s.chips := rfl
@[simp] theorem State.setS_caps (s : State) (n : Nat) (v : Word) : (s.setS n v).caps = s.caps := rfl
@[simp] theorem State.setS_mem (s : State) (n : Nat) (v : Word) : (s.setS n v).mem = s.mem := rfl
@[simp] theorem State.setS_poison (s : State) (n : Nat) (v : Word) : (s.setS n v).poison = s.poison := rfl
@[simp] theorem State.setS_entries (s : State) (n : Nat) (v : Word) : (s.setS n v).entries = s.entries := rfl
@[simp] theorem State.setS_iq (s : State) (n : Nat) (v : Word) : (s.setS n v).iq = s.iq := rfl
@[simp] theorem State.setS_remote (s : State) (n : Nat) (v : Word) : (s.setS n v).remote = s.remote := rfl
@[simp] theorem State.setS_phasers (s : State) (n : Nat) (v : Word) : (s.setS n v).phasers = s.phasers := rfl
@[simp] theorem State.setS_phq (s : State) (n : Nat) (v : Word) : (s.setS n v).phq = s.phq := rfl
@[simp] theorem State.setS_held (s : State) (n : Nat) (v : Word) : (s.setS n v).held = s.held := rfl

@[simp] theorem State.orFlags_agenda (s : State) (f : BitVec 8) : (s.orFlags f).agenda = s.agenda := rfl
@[simp] theorem State.orFlags_tick (s : State) (f : BitVec 8) : (s.orFlags f).tick = s.tick := rfl
@[simp] theorem State.orFlags_fresh (s : State) (f : BitVec 8) : (s.orFlags f).fresh = s.fresh := rfl
@[simp] theorem State.orFlags_curCore (s : State) (f : BitVec 8) : (s.orFlags f).curCore = s.curCore := rfl
@[simp] theorem State.orFlags_curSlot (s : State) (f : BitVec 8) : (s.orFlags f).curSlot = s.curSlot := rfl
@[simp] theorem State.orFlags_chips (s : State) (f : BitVec 8) : (s.orFlags f).chips = s.chips := rfl
@[simp] theorem State.orFlags_caps (s : State) (f : BitVec 8) : (s.orFlags f).caps = s.caps := rfl
@[simp] theorem State.orFlags_mem (s : State) (f : BitVec 8) : (s.orFlags f).mem = s.mem := rfl
@[simp] theorem State.orFlags_poison (s : State) (f : BitVec 8) : (s.orFlags f).poison = s.poison := rfl
@[simp] theorem State.orFlags_entries (s : State) (f : BitVec 8) : (s.orFlags f).entries = s.entries := rfl
@[simp] theorem State.orFlags_iq (s : State) (f : BitVec 8) : (s.orFlags f).iq = s.iq := rfl
@[simp] theorem State.orFlags_remote (s : State) (f : BitVec 8) : (s.orFlags f).remote = s.remote := rfl
@[simp] theorem State.orFlags_phasers (s : State) (f : BitVec 8) : (s.orFlags f).phasers = s.phasers := rfl
@[simp] theorem State.orFlags_phq (s : State) (f : BitVec 8) : (s.orFlags f).phq = s.phq := rfl
@[simp] theorem State.orFlags_held (s : State) (f : BitVec 8) : (s.orFlags f).held = s.held := rfl

@[simp] theorem State.issued_agenda (s : State) (h : Hdr) : (s.issued h).agenda = s.agenda := rfl
@[simp] theorem State.issued_tick (s : State) (h : Hdr) : (s.issued h).tick = s.tick := rfl
@[simp] theorem State.issued_fresh (s : State) (h : Hdr) : (s.issued h).fresh = s.fresh := rfl
@[simp] theorem State.issued_curCore (s : State) (h : Hdr) : (s.issued h).curCore = s.curCore := rfl
@[simp] theorem State.issued_curSlot (s : State) (h : Hdr) : (s.issued h).curSlot = s.curSlot := rfl
@[simp] theorem State.issued_chips (s : State) (h : Hdr) : (s.issued h).chips = s.chips := rfl
@[simp] theorem State.issued_caps (s : State) (h : Hdr) : (s.issued h).caps = s.caps := rfl
@[simp] theorem State.issued_mem (s : State) (h : Hdr) : (s.issued h).mem = s.mem := rfl
@[simp] theorem State.issued_poison (s : State) (h : Hdr) : (s.issued h).poison = s.poison := rfl
@[simp] theorem State.issued_entries (s : State) (h : Hdr) : (s.issued h).entries = s.entries := rfl
@[simp] theorem State.issued_iq (s : State) (h : Hdr) : (s.issued h).iq = s.iq := rfl
@[simp] theorem State.issued_remote (s : State) (h : Hdr) : (s.issued h).remote = s.remote := rfl
@[simp] theorem State.issued_phasers (s : State) (h : Hdr) : (s.issued h).phasers = s.phasers := rfl
@[simp] theorem State.issued_phq (s : State) (h : Hdr) : (s.issued h).phq = s.phq := rfl
@[simp] theorem State.issued_held (s : State) (h : Hdr) : (s.issued h).held = s.held := rfl

@[simp] theorem State.advance_agenda (s : State)  : (s.advance).agenda = s.agenda := rfl
@[simp] theorem State.advance_tick (s : State)  : (s.advance).tick = s.tick := rfl
@[simp] theorem State.advance_fresh (s : State)  : (s.advance).fresh = s.fresh := rfl
@[simp] theorem State.advance_curCore (s : State)  : (s.advance).curCore = s.curCore := rfl
@[simp] theorem State.advance_curSlot (s : State)  : (s.advance).curSlot = s.curSlot := rfl
@[simp] theorem State.advance_chips (s : State)  : (s.advance).chips = s.chips := rfl
@[simp] theorem State.advance_caps (s : State)  : (s.advance).caps = s.caps := rfl
@[simp] theorem State.advance_mem (s : State)  : (s.advance).mem = s.mem := rfl
@[simp] theorem State.advance_poison (s : State)  : (s.advance).poison = s.poison := rfl
@[simp] theorem State.advance_entries (s : State)  : (s.advance).entries = s.entries := rfl
@[simp] theorem State.advance_iq (s : State)  : (s.advance).iq = s.iq := rfl
@[simp] theorem State.advance_remote (s : State)  : (s.advance).remote = s.remote := rfl
@[simp] theorem State.advance_phasers (s : State)  : (s.advance).phasers = s.phasers := rfl
@[simp] theorem State.advance_phq (s : State)  : (s.advance).phq = s.phq := rfl
@[simp] theorem State.advance_held (s : State)  : (s.advance).held = s.held := rfl

@[simp] theorem State.putS_agenda (s : State) (d : Operand) (v : Word) : (s.putS d v).agenda = s.agenda := by
  cases d <;> rfl
@[simp] theorem State.putS_tick (s : State) (d : Operand) (v : Word) : (s.putS d v).tick = s.tick := by
  cases d <;> rfl
@[simp] theorem State.putS_fresh (s : State) (d : Operand) (v : Word) : (s.putS d v).fresh = s.fresh := by
  cases d <;> rfl
@[simp] theorem State.putS_curCore (s : State) (d : Operand) (v : Word) : (s.putS d v).curCore = s.curCore := by
  cases d <;> rfl
@[simp] theorem State.putS_curSlot (s : State) (d : Operand) (v : Word) : (s.putS d v).curSlot = s.curSlot := by
  cases d <;> rfl
@[simp] theorem State.putS_chips (s : State) (d : Operand) (v : Word) : (s.putS d v).chips = s.chips := by
  cases d <;> rfl
@[simp] theorem State.putS_caps (s : State) (d : Operand) (v : Word) : (s.putS d v).caps = s.caps := by
  cases d <;> rfl
@[simp] theorem State.putS_mem (s : State) (d : Operand) (v : Word) : (s.putS d v).mem = s.mem := by
  cases d <;> rfl
@[simp] theorem State.putS_poison (s : State) (d : Operand) (v : Word) : (s.putS d v).poison = s.poison := by
  cases d <;> rfl
@[simp] theorem State.putS_entries (s : State) (d : Operand) (v : Word) : (s.putS d v).entries = s.entries := by
  cases d <;> rfl
@[simp] theorem State.putS_iq (s : State) (d : Operand) (v : Word) : (s.putS d v).iq = s.iq := by
  cases d <;> rfl
@[simp] theorem State.putS_remote (s : State) (d : Operand) (v : Word) : (s.putS d v).remote = s.remote := by
  cases d <;> rfl
@[simp] theorem State.putS_phasers (s : State) (d : Operand) (v : Word) : (s.putS d v).phasers = s.phasers := by
  cases d <;> rfl
@[simp] theorem State.putS_phq (s : State) (d : Operand) (v : Word) : (s.putS d v).phq = s.phq := by
  cases d <;> rfl
@[simp] theorem State.putS_held (s : State) (d : Operand) (v : Word) : (s.putS d v).held = s.held := by
  cases d <;> rfl

@[simp] theorem State.putP_agenda (s : State) (d : Operand) (v : PBits) : (s.putP d v).agenda = s.agenda := by
  cases d <;> rfl
@[simp] theorem State.putP_tick (s : State) (d : Operand) (v : PBits) : (s.putP d v).tick = s.tick := by
  cases d <;> rfl
@[simp] theorem State.putP_fresh (s : State) (d : Operand) (v : PBits) : (s.putP d v).fresh = s.fresh := by
  cases d <;> rfl
@[simp] theorem State.putP_curCore (s : State) (d : Operand) (v : PBits) : (s.putP d v).curCore = s.curCore := by
  cases d <;> rfl
@[simp] theorem State.putP_curSlot (s : State) (d : Operand) (v : PBits) : (s.putP d v).curSlot = s.curSlot := by
  cases d <;> rfl
@[simp] theorem State.putP_chips (s : State) (d : Operand) (v : PBits) : (s.putP d v).chips = s.chips := by
  cases d <;> rfl
@[simp] theorem State.putP_caps (s : State) (d : Operand) (v : PBits) : (s.putP d v).caps = s.caps := by
  cases d <;> rfl
@[simp] theorem State.putP_mem (s : State) (d : Operand) (v : PBits) : (s.putP d v).mem = s.mem := by
  cases d <;> rfl
@[simp] theorem State.putP_poison (s : State) (d : Operand) (v : PBits) : (s.putP d v).poison = s.poison := by
  cases d <;> rfl
@[simp] theorem State.putP_entries (s : State) (d : Operand) (v : PBits) : (s.putP d v).entries = s.entries := by
  cases d <;> rfl
@[simp] theorem State.putP_iq (s : State) (d : Operand) (v : PBits) : (s.putP d v).iq = s.iq := by
  cases d <;> rfl
@[simp] theorem State.putP_remote (s : State) (d : Operand) (v : PBits) : (s.putP d v).remote = s.remote := by
  cases d <;> rfl
@[simp] theorem State.putP_phasers (s : State) (d : Operand) (v : PBits) : (s.putP d v).phasers = s.phasers := by
  cases d <;> rfl
@[simp] theorem State.putP_phq (s : State) (d : Operand) (v : PBits) : (s.putP d v).phq = s.phq := by
  cases d <;> rfl
@[simp] theorem State.putP_held (s : State) (d : Operand) (v : PBits) : (s.putP d v).held = s.held := by
  cases d <;> rfl

@[simp] theorem State.putV_agenda (s : State) (d : Operand) (g : PBits) (w : Nat) (v : VBits) (t : Tag) : (s.putV d g w v t).agenda = s.agenda := by
  cases d <;> rfl
@[simp] theorem State.putV_tick (s : State) (d : Operand) (g : PBits) (w : Nat) (v : VBits) (t : Tag) : (s.putV d g w v t).tick = s.tick := by
  cases d <;> rfl
@[simp] theorem State.putV_fresh (s : State) (d : Operand) (g : PBits) (w : Nat) (v : VBits) (t : Tag) : (s.putV d g w v t).fresh = s.fresh := by
  cases d <;> rfl
@[simp] theorem State.putV_curCore (s : State) (d : Operand) (g : PBits) (w : Nat) (v : VBits) (t : Tag) : (s.putV d g w v t).curCore = s.curCore := by
  cases d <;> rfl
@[simp] theorem State.putV_curSlot (s : State) (d : Operand) (g : PBits) (w : Nat) (v : VBits) (t : Tag) : (s.putV d g w v t).curSlot = s.curSlot := by
  cases d <;> rfl
@[simp] theorem State.putV_chips (s : State) (d : Operand) (g : PBits) (w : Nat) (v : VBits) (t : Tag) : (s.putV d g w v t).chips = s.chips := by
  cases d <;> rfl
@[simp] theorem State.putV_caps (s : State) (d : Operand) (g : PBits) (w : Nat) (v : VBits) (t : Tag) : (s.putV d g w v t).caps = s.caps := by
  cases d <;> rfl
@[simp] theorem State.putV_mem (s : State) (d : Operand) (g : PBits) (w : Nat) (v : VBits) (t : Tag) : (s.putV d g w v t).mem = s.mem := by
  cases d <;> rfl
@[simp] theorem State.putV_poison (s : State) (d : Operand) (g : PBits) (w : Nat) (v : VBits) (t : Tag) : (s.putV d g w v t).poison = s.poison := by
  cases d <;> rfl
@[simp] theorem State.putV_entries (s : State) (d : Operand) (g : PBits) (w : Nat) (v : VBits) (t : Tag) : (s.putV d g w v t).entries = s.entries := by
  cases d <;> rfl
@[simp] theorem State.putV_iq (s : State) (d : Operand) (g : PBits) (w : Nat) (v : VBits) (t : Tag) : (s.putV d g w v t).iq = s.iq := by
  cases d <;> rfl
@[simp] theorem State.putV_remote (s : State) (d : Operand) (g : PBits) (w : Nat) (v : VBits) (t : Tag) : (s.putV d g w v t).remote = s.remote := by
  cases d <;> rfl
@[simp] theorem State.putV_phasers (s : State) (d : Operand) (g : PBits) (w : Nat) (v : VBits) (t : Tag) : (s.putV d g w v t).phasers = s.phasers := by
  cases d <;> rfl
@[simp] theorem State.putV_phq (s : State) (d : Operand) (g : PBits) (w : Nat) (v : VBits) (t : Tag) : (s.putV d g w v t).phq = s.phq := by
  cases d <;> rfl
@[simp] theorem State.putV_held (s : State) (d : Operand) (g : PBits) (w : Nat) (v : VBits) (t : Tag) : (s.putV d g w v t).held = s.held := by
  cases d <;> rfl

@[simp] theorem State.pendD_agenda (s : State) (d : Operand) (id : Nat) (t : Tag) : (s.pendD d id t).agenda = s.agenda := by
  cases d <;> simp only [State.pendD] <;> (try split) <;> rfl
@[simp] theorem State.pendD_tick (s : State) (d : Operand) (id : Nat) (t : Tag) : (s.pendD d id t).tick = s.tick := by
  cases d <;> simp only [State.pendD] <;> (try split) <;> rfl
@[simp] theorem State.pendD_fresh (s : State) (d : Operand) (id : Nat) (t : Tag) : (s.pendD d id t).fresh = s.fresh := by
  cases d <;> simp only [State.pendD] <;> (try split) <;> rfl
@[simp] theorem State.pendD_curCore (s : State) (d : Operand) (id : Nat) (t : Tag) : (s.pendD d id t).curCore = s.curCore := by
  cases d <;> simp only [State.pendD] <;> (try split) <;> rfl
@[simp] theorem State.pendD_curSlot (s : State) (d : Operand) (id : Nat) (t : Tag) : (s.pendD d id t).curSlot = s.curSlot := by
  cases d <;> simp only [State.pendD] <;> (try split) <;> rfl
@[simp] theorem State.pendD_chips (s : State) (d : Operand) (id : Nat) (t : Tag) : (s.pendD d id t).chips = s.chips := by
  cases d <;> simp only [State.pendD] <;> (try split) <;> rfl
@[simp] theorem State.pendD_caps (s : State) (d : Operand) (id : Nat) (t : Tag) : (s.pendD d id t).caps = s.caps := by
  cases d <;> simp only [State.pendD] <;> (try split) <;> rfl
@[simp] theorem State.pendD_mem (s : State) (d : Operand) (id : Nat) (t : Tag) : (s.pendD d id t).mem = s.mem := by
  cases d <;> simp only [State.pendD] <;> (try split) <;> rfl
@[simp] theorem State.pendD_poison (s : State) (d : Operand) (id : Nat) (t : Tag) : (s.pendD d id t).poison = s.poison := by
  cases d <;> simp only [State.pendD] <;> (try split) <;> rfl
@[simp] theorem State.pendD_entries (s : State) (d : Operand) (id : Nat) (t : Tag) : (s.pendD d id t).entries = s.entries := by
  cases d <;> simp only [State.pendD] <;> (try split) <;> rfl
@[simp] theorem State.pendD_iq (s : State) (d : Operand) (id : Nat) (t : Tag) : (s.pendD d id t).iq = s.iq := by
  cases d <;> simp only [State.pendD] <;> (try split) <;> rfl
@[simp] theorem State.pendD_remote (s : State) (d : Operand) (id : Nat) (t : Tag) : (s.pendD d id t).remote = s.remote := by
  cases d <;> simp only [State.pendD] <;> (try split) <;> rfl
@[simp] theorem State.pendD_phasers (s : State) (d : Operand) (id : Nat) (t : Tag) : (s.pendD d id t).phasers = s.phasers := by
  cases d <;> simp only [State.pendD] <;> (try split) <;> rfl
@[simp] theorem State.pendD_phq (s : State) (d : Operand) (id : Nat) (t : Tag) : (s.pendD d id t).phq = s.phq := by
  cases d <;> simp only [State.pendD] <;> (try split) <;> rfl
@[simp] theorem State.pendD_held (s : State) (d : Operand) (id : Nat) (t : Tag) : (s.pendD d id t).held = s.held := by
  cases d <;> simp only [State.pendD] <;> (try split) <;> rfl

@[simp] theorem State.writeM_agenda (s : State) (key : Nat) (bs : List Byte) : (s.writeM key bs).agenda = s.agenda := rfl
@[simp] theorem State.writeM_tick (s : State) (key : Nat) (bs : List Byte) : (s.writeM key bs).tick = s.tick := rfl
@[simp] theorem State.writeM_fresh (s : State) (key : Nat) (bs : List Byte) : (s.writeM key bs).fresh = s.fresh := rfl
@[simp] theorem State.writeM_curCore (s : State) (key : Nat) (bs : List Byte) : (s.writeM key bs).curCore = s.curCore := rfl
@[simp] theorem State.writeM_curSlot (s : State) (key : Nat) (bs : List Byte) : (s.writeM key bs).curSlot = s.curSlot := rfl
@[simp] theorem State.writeM_cores (s : State) (key : Nat) (bs : List Byte) : (s.writeM key bs).cores = s.cores := rfl
@[simp] theorem State.writeM_chips (s : State) (key : Nat) (bs : List Byte) : (s.writeM key bs).chips = s.chips := rfl
@[simp] theorem State.writeM_caps (s : State) (key : Nat) (bs : List Byte) : (s.writeM key bs).caps = s.caps := rfl
@[simp] theorem State.writeM_entries (s : State) (key : Nat) (bs : List Byte) : (s.writeM key bs).entries = s.entries := rfl
@[simp] theorem State.writeM_iq (s : State) (key : Nat) (bs : List Byte) : (s.writeM key bs).iq = s.iq := rfl
@[simp] theorem State.writeM_remote (s : State) (key : Nat) (bs : List Byte) : (s.writeM key bs).remote = s.remote := rfl
@[simp] theorem State.writeM_phasers (s : State) (key : Nat) (bs : List Byte) : (s.writeM key bs).phasers = s.phasers := rfl
@[simp] theorem State.writeM_phq (s : State) (key : Nat) (bs : List Byte) : (s.writeM key bs).phq = s.phq := rfl
@[simp] theorem State.writeM_held (s : State) (key : Nat) (bs : List Byte) : (s.writeM key bs).held = s.held := rfl

@[simp] theorem State.markM_agenda (s : State) (key : Nat) : (s.markM key).agenda = s.agenda := rfl
@[simp] theorem State.markM_tick (s : State) (key : Nat) : (s.markM key).tick = s.tick := rfl
@[simp] theorem State.markM_fresh (s : State) (key : Nat) : (s.markM key).fresh = s.fresh := rfl
@[simp] theorem State.markM_curCore (s : State) (key : Nat) : (s.markM key).curCore = s.curCore := rfl
@[simp] theorem State.markM_curSlot (s : State) (key : Nat) : (s.markM key).curSlot = s.curSlot := rfl
@[simp] theorem State.markM_cores (s : State) (key : Nat) : (s.markM key).cores = s.cores := rfl
@[simp] theorem State.markM_chips (s : State) (key : Nat) : (s.markM key).chips = s.chips := rfl
@[simp] theorem State.markM_caps (s : State) (key : Nat) : (s.markM key).caps = s.caps := rfl
@[simp] theorem State.markM_mem (s : State) (key : Nat) : (s.markM key).mem = s.mem := rfl
@[simp] theorem State.markM_entries (s : State) (key : Nat) : (s.markM key).entries = s.entries := rfl
@[simp] theorem State.markM_iq (s : State) (key : Nat) : (s.markM key).iq = s.iq := rfl
@[simp] theorem State.markM_remote (s : State) (key : Nat) : (s.markM key).remote = s.remote := rfl
@[simp] theorem State.markM_phasers (s : State) (key : Nat) : (s.markM key).phasers = s.phasers := rfl
@[simp] theorem State.markM_phq (s : State) (key : Nat) : (s.markM key).phq = s.phq := rfl
@[simp] theorem State.markM_held (s : State) (key : Nat) : (s.markM key).held = s.held := rfl

/-! What a core, a chip or a capsule is after an update. -/

@[simp] theorem State.core_setCore_same (s : State) (ep : Nat) (c : Core) : (s.setCore ep c).core ep = c := by
  simp [State.core, State.setCore]
theorem State.core_setCore_other (s : State) {ep e : Nat} (c : Core) (h : e ≠ ep) : (s.setCore ep c).core e = s.core e := by
  simp [State.core, State.setCore, AMap.get_put_other _ _ _ h]
@[simp] theorem State.core_modCore_same (s : State) (ep : Nat) (f : Core → Core) : (s.modCore ep f).core ep = f (s.core ep) := by
  simp [State.modCore]
theorem State.core_modCore_other (s : State) {ep e : Nat} (f : Core → Core) (h : e ≠ ep) :
    (s.modCore ep f).core e = s.core e := State.core_setCore_other s _ h
@[simp] theorem Core.slot_setSlot_same (c : Core) (k : Nat) (x : Slot) : (c.setSlot k x).slot k = x := by
  simp [Core.slot, Core.setSlot]
theorem Core.slot_setSlot_other (c : Core) {k j : Nat} (x : Slot) (h : j ≠ k) : (c.setSlot k x).slot j = c.slot j := by
  simp [Core.slot, Core.setSlot, AMap.get_put_other _ _ _ h]
@[simp] theorem State.slot_modSlot_same (s : State) (ep k : Nat) (f : Slot → Slot) :
    (s.modSlot ep k f).slot ep k = f (s.slot ep k) := by
  simp [State.slot, State.modSlot]
theorem State.slot_modSlot_other (s : State) {ep k e j : Nat} (f : Slot → Slot) (h : e ≠ ep ∨ j ≠ k) :
    (s.modSlot ep k f).slot e j = s.slot e j := by
  unfold State.slot State.modSlot
  by_cases he : e = ep
  · subst he
    rw [State.core_modCore_same, Core.slot_setSlot_other _ _ (h.resolve_left (by simp))]
  · rw [State.core_modCore_other _ _ he]
@[simp] theorem State.cur_modCur (s : State) (f : Slot → Slot) : (s.modCur f).cur = f s.cur := by
  simp [State.modCur, State.cur]
@[simp] theorem State.chip_modChip_same (s : State) (c : Nat) (f : Chip → Chip) : (s.modChip c f).chip c = f (s.chip c) := by
  simp [State.chip, State.modChip]
theorem State.chip_modChip_other (s : State) {c d : Nat} (f : Chip → Chip) (h : d ≠ c) : (s.modChip c f).chip d = s.chip d := by
  simp [State.chip, State.modChip, AMap.get_put_other _ _ _ h]
theorem State.cap_modCap_same (s : State) (id : Nat) (f : Capsule → Capsule) (h : (s.caps.find id).isSome) :
    (s.modCap id f).cap id = f (s.cap id) := by
  obtain ⟨c, hc⟩ := Option.isSome_iff_exists.1 h
  simp [State.modCap, State.cap, hc, AMap.get_eq_find]
theorem State.cap_modCap_other (s : State) {id j : Nat} (f : Capsule → Capsule) (h : j ≠ id) :
    (s.modCap id f).cap j = s.cap j := by
  unfold State.modCap
  split
  · simp [State.cap, AMap.get_put_other _ _ _ h]
  · rfl

/-! Registers (R41, R44, R48). -/

@[simp] theorem Slot.sreg_zero (x : Slot) : x.sreg 0 = {} := rfl
@[simp] theorem Slot.preg_fifteen (x : Slot) : x.preg 15 = { bits := BitVec.allOnes 256 } := rfl
@[simp] theorem Slot.setS_zero (x : Slot) (v : Word) : x.setS 0 v = x := rfl
@[simp] theorem Slot.setP_fifteen (x : Slot) (v : PBits) : x.setP 15 v = x := rfl
theorem Slot.sreg_setS_same (x : Slot) {n : Nat} (v : Word) (h : n ≠ 0) : (x.setS n v).sreg n = { val := v } := by
  simp [Slot.sreg, Slot.setS, h]
theorem Slot.sreg_setS_other (x : Slot) {n m : Nat} (v : Word) (h : m ≠ n) : (x.setS n v).sreg m = x.sreg m := by
  unfold Slot.sreg Slot.setS
  split
  · rfl
  · split
    · rfl
    · simp [AMap.get_put_other _ _ _ h]
theorem Slot.vreg_setV_same (x : Slot) (n : Nat) (v : VBits) (t : Tag) : (x.setV n v t).vreg n = { bits := v, tag := t } := by
  simp [Slot.vreg, Slot.setV]
theorem Slot.vreg_setV_other (x : Slot) {n m : Nat} (v : VBits) (t : Tag) (h : m ≠ n) : (x.setV n v t).vreg m = x.vreg m := by
  simp [Slot.vreg, Slot.setV, AMap.get_put_other _ _ _ h]
theorem Slot.preg_setP_same (x : Slot) {n : Nat} (v : PBits) (h : n ≠ 15) : (x.setP n v).preg n = { bits := v } := by
  simp [Slot.preg, Slot.setP, h]
theorem Slot.preg_setP_other (x : Slot) {n m : Nat} (v : PBits) (h : m ≠ n) : (x.setP n v).preg m = x.preg m := by
  unfold Slot.preg Slot.setP
  split
  · rfl
  · split
    · rfl
    · simp [AMap.get_put_other _ _ _ h]

end Machine
end Sys2Proof
end

