-- ==== Sys2Proof/Laws/Mem.lean ====
section
/-!
SUPPORT. Every operation over byte memories keeps their canonical form, and the state after reset has it.
-/
namespace Sys2Proof.Machine

theorem Mem.wf_nil : Mem.wf [] = true := rfl

/-- The form says that every entry lies below those behind it and differs from the unlisted byte. -/
theorem Mem.wf_cons {k : Nat} {b : Byte} {m : Mem} :
    Mem.wf ((k, b) :: m) = true ↔ b ≠ Mem.unlisted ∧ (∀ e ∈ m, k < e.1) ∧ Mem.wf m = true := by
  simp [Mem.wf, List.all_eq_true, and_assoc]

/-- Dropping entries keeps the form: zero-fill (R67), a cold boot, a cleared core. -/
theorem Mem.wf_filter (p : Host.Cell → Bool) {m : Mem} (h : m.wf = true) : Mem.wf (m.filter p) = true := by
  induction m with
  | nil => rfl
  | cons e m ih =>
    obtain ⟨k, b⟩ := e
    obtain ⟨hb, hk, hm⟩ := Mem.wf_cons.mp h
    by_cases hp : p (k, b) = true
    · rw [List.filter_cons_of_pos hp]
      exact Mem.wf_cons.mpr ⟨hb, fun e he => hk e (List.mem_filter.mp he).1, ih hm⟩
    · rw [List.filter_cons_of_neg hp]
      exact ih hm

/-- One memory behind another keeps the form where every address of the first lies below those of the second. -/
theorem Mem.wf_append {m n : Mem} (hm : m.wf = true) (hn : n.wf = true) (h : ∀ e ∈ m, ∀ g ∈ n, e.1 < g.1) :
    Mem.wf (m ++ n) = true := by
  induction m with
  | nil => exact hn
  | cons e m ih =>
    obtain ⟨k, b⟩ := e
    obtain ⟨hb, hk, hm⟩ := Mem.wf_cons.mp hm
    refine Mem.wf_cons.mpr ⟨hb, fun g hg => ?_, ih hm fun x hx => h x (List.mem_cons_of_mem _ hx)⟩
    rcases List.mem_append.mp hg with hg | hg
    · exact hk g hg
    · exact h (k, b) List.mem_cons_self g hg

/-- The cells of written bytes lie in the range written and have the form. -/
theorem Mem.cells_range (a : Nat) (bs : List Byte) : ∀ e ∈ Mem.cells a bs, a ≤ e.1 ∧ e.1 < a + bs.length := by
  induction bs generalizing a with
  | nil => intro e h; cases h
  | cons b bs ih =>
    intro e h
    simp only [Mem.cells] at h
    split at h
    · have := ih (a + 1) e h
      simp only [List.length_cons]; omega
    · rcases List.mem_cons.mp h with h | h
      · subst h; simp
      · have := ih (a + 1) e h
        simp only [List.length_cons]; omega
theorem Mem.wf_cells (a : Nat) (bs : List Byte) : Mem.wf (Mem.cells a bs) = true := by
  induction bs generalizing a with
  | nil => rfl
  | cons b bs ih =>
    simp only [Mem.cells]
    split
    · exact ih (a + 1)
    · rename_i hb
      exact Mem.wf_cons.mpr ⟨hb, fun e he => (Mem.cells_range (a + 1) bs e he).1, ih (a + 1)⟩

/-- A write keeps the form (R174, R176). -/
theorem Mem.wf_write {m : Mem} (a : Nat) (bs : List Byte) (h : m.wf = true) : (m.write a bs).wf = true := by
  have key : ∀ e ∈ m.filter (fun e => e.1 < a), ∀ g ∈ Mem.cells a bs, e.1 < g.1 := by
    intro e he g hg
    have h1 := (List.mem_filter.mp he).2
    have h2 := (Mem.cells_range a bs g hg).1
    simp only [decide_eq_true_eq] at h1
    omega
  refine Mem.wf_append (Mem.wf_append (Mem.wf_filter _ h) (Mem.wf_cells a bs) key) (Mem.wf_filter _ h) ?_
  intro e he g hg
  have h2 := (List.mem_filter.mp hg).2
  simp only [decide_eq_true_eq] at h2
  rcases List.mem_append.mp he with he | he
  · have h1 := (List.mem_filter.mp he).2
    simp only [decide_eq_true_eq] at h1
    omega
  · have := (Mem.cells_range a bs e he).2
    omega

/-! The operations of the machine that change a memory. -/

theorem State.wf_writeM (s : State) (key : Nat) (bs : List Byte) (h : s.mem.wf = true) : (s.writeM key bs).mem.wf = true :=
  Mem.wf_write key bs h
theorem State.wf_zeroM (s : State) (r : Range) (h : s.mem.wf = true) : (s.zeroM r).mem.wf = true := Mem.wf_filter _ h
theorem Core.wf_lwrite (c : Core) (a : Nat) (bs : List Byte) (p : Bool) (h : c.lstore.wf = true) : (c.lwrite a bs p).lstore.wf = true :=
  Mem.wf_write a bs h
theorem State.atM_mem_wf (s : State) (op : AmoOp) (t : Tag) (key : Nat) (b cmp : Word) (h : s.mem.wf = true) :
    (s.atM op t key b cmp).1.mem.wf = true := by
  unfold State.atM
  dsimp only
  split
  · exact h
  · exact State.wf_writeM _ _ _ h

theorem State.reset_canonical_memories : State.reset.mem.wf = true ∧ ∀ ep, (State.reset.core ep).lstore.wf = true :=
  ⟨rfl, fun _ => rfl⟩

end Sys2Proof.Machine
end

