-- ==== Sys2Proof/Laws/Issue.lean ====
section
/-!
SUPPORT. What issue can answer, said once, and what the shared operations of issue and of taking a fault leave as it was.
-/
namespace Sys2Proof.Machine

/-! What an instruction's own description comes to. -/

@[simp] theorem Eff.run_ok (h : Hdr) (s0 s : State) : Eff.run h s0 (.ok s) = completed h s := rfl
@[simp] theorem Eff.run_jump (h : Hdr) (s0 s : State) (t : Int) : Eff.run h s0 (.jump s t) = jumped h s t := rfl
@[simp] theorem Eff.run_hold (h : Hdr) (s0 s : State) : Eff.run h s0 (.hold s) = s.issued h := rfl
@[simp] theorem Eff.run_wait (h : Hdr) (s0 : State) : Eff.run h s0 .wait = s0 := rfl
@[simp] theorem Eff.run_grow (h : Hdr) (s0 : State) (x : Nat) (upto : Int) (f : FaultInfo) :
    Eff.run h s0 (.grow x upto f) = (s0.modCur fun k => { k with wait := .growth x upto f }).issued plainHdr := rfl
@[simp] theorem Eff.run_precise (h : Hdr) (s0 : State) (f : FaultInfo) : Eff.run h s0 (.trap f clsPrecise) = faulted s0 f := rfl

/-- Where an instruction issues, its own description is its outcome. -/
theorem issue_of_go {sp : Spec} {o : Ops} {eff : State → Vals → PBits → Eff} {s s1 : State} {v : Vals} {g : PBits}
    (h : ready sp o s = .go s1 v g) : issue sp o eff s = .next (Eff.run o.hdr s (eff s1 v g)) := by
  simp only [issue, h]

/-- Everything issue answers (Table 3.10 steps 8 to 10): it stops only in a slot without a firing; a next state is that of
a guard that lets nothing act, of a wait, of a fault of step 9, or of the instruction's own description. -/
theorem issue_cases (sp : Spec) (o : Ops) (eff : State → Vals → PBits → Eff) (s : State) :
    (ready sp o s = .noFiring ∧ issue sp o eff s = .fault .noFiring)
    ∨ (ready sp o s = .skip ∧ issue sp o eff s = .next (Eff.run o.hdr s (skipEff sp.op (s.skipped sp.op o))))
    ∨ (ready sp o s = .wait ∧ issue sp o eff s = .next s)
    ∨ (∃ i, ready sp o s = .fault i ∧ issue sp o eff s = .next (faulted s i))
    ∨ ∃ s1 v g, ready sp o s = .go s1 v g ∧ issue sp o eff s = .next (Eff.run o.hdr s (eff s1 v g)) := by
  unfold issue
  split
  · exact .inl ⟨‹_›, rfl⟩
  · exact .inr (.inl ⟨‹_›, rfl⟩)
  · exact .inr (.inr (.inl ⟨‹_›, rfl⟩))
  · exact .inr (.inr (.inr (.inl ⟨_, ‹_›, rfl⟩)))
  · exact .inr (.inr (.inr (.inr ⟨_, _, _, ‹_›, rfl⟩)))

/-! What issue has changed by the time an instruction acts. -/

/-- The state in which an instruction acts is the state before, with pops made and last uses freed in the current core
and slot, and one number used. -/
theorem ready_go {sp : Spec} {o : Ops} {s s1 : State} {v : Vals} {g : PBits} (h : ready sp o s = .go s1 v g) :
    ∃ f r c3, s.cur.firing = some f ∧ rowOf sp.op = some r ∧ readFields r s.fresh s.cur s.curC o = some (v, c3)
      ∧ g = guardBits s s.cur o.hdr
      ∧ s1 = { s.setCore s.curCore (c3.setSlot s.curSlot (freeSources r (!r.dSrc o.shape || sp.dDst) s.cur o)) with
        fresh := s.fresh + 1 } := by
  unfold ready at h
  dsimp only at h
  split at h
  · cases h
  · cases h
  · rename_i f r hf hr
    split at h
    · cases h
    · split at h
      · cases h
      · split at h
        · cases h
        · split at h
          · cases h
          · split at h
            · cases h
            · rename_i v' c3 hrd
              split at h
              · cases h
              · split at h
                · cases h
                · injection h with h1 h2 h3
                  subst h2 h3
                  exact ⟨f, r, c3, hf, hr, hrd, rfl, h1.symm⟩

/-- Nothing outside the cores, and no other core, has changed when an instruction acts. -/
theorem ready_go_outside {sp : Spec} {o : Ops} {s s1 : State} {v : Vals} {g : PBits} (h : ready sp o s = .go s1 v g) :
    SameOutside s s1 ∧ s1.curCore = s.curCore ∧ s1.curSlot = s.curSlot ∧ s1.fresh = s.fresh + 1
      ∧ ∀ ep, ep ≠ s.curCore → s1.core ep = s.core ep := by
  obtain ⟨f, r, c3, -, -, -, -, rfl⟩ := ready_go h
  refine ⟨⟨rfl, rfl, rfl, rfl, rfl, rfl, rfl, rfl, rfl, rfl⟩, rfl, rfl, rfl, fun ep he => ?_⟩
  exact AMap.get_put_other _ _ _ he

/-- A field's read changes nothing of the core but the queue it pops. -/
theorem readField_core {k : Nat} {x : Slot} {c c' : Core} {p : Operand} {v : Val} (h : readField k x c p = some (v, c')) :
    c' = { c with sq := c'.sq, vq := c'.vq } := by
  unfold readField at h
  split at h <;> (try dsimp only at h)
  all_goals (repeat' split at h) <;> simp_all
  all_goals (obtain ⟨-, rfl⟩ := h; rfl)
theorem readFields_core {r : Row} {k : Nat} {x : Slot} {c c' : Core} {o : Ops} {v : Vals}
    (h : readFields r k x c o = some (v, c')) : c' = { c with sq := c'.sq, vq := c'.vq } := by
  unfold readFields at h
  split at h
  · cases h
  · rename_i vd c1 h1
    split at h
    · cases h
    · rename_i va c2 h2
      split at h
      · cases h
      · rename_i vb c3 h3
        injection h with h
        injection h with _ h
        subst h
        rw [readField_core h3, readField_core h2, readField_core h1]

/-- Of the current core, issue has changed its slots and its queues alone. -/
theorem ready_go_curC {sp : Spec} {o : Ops} {s s1 : State} {v : Vals} {g : PBits} (h : ready sp o s = .go s1 v g) :
    s1.curC = { s.curC with slots := s1.curC.slots, sq := s1.curC.sq, vq := s1.curC.vq } := by
  obtain ⟨f, r, c3, -, -, hc, -, rfl⟩ := ready_go h
  have : State.curC { s.setCore s.curCore (c3.setSlot s.curSlot (freeSources r (!r.dSrc o.shape || sp.dDst) s.cur o)) with
      fresh := s.fresh + 1 } = c3.setSlot s.curSlot (freeSources r (!r.dSrc o.shape || sp.dDst) s.cur o) :=
    AMap.get_put_same _ _ _ _
  rw [this]
  have e := readFields_core hc
  generalize s.curC = c at e
  rw [e]
  rfl

end Sys2Proof.Machine
end

