-- ==== Sys2Proof/Laws/Fault.lean ====
section
/-!
SUPPORT. Taking a fault, ending a firing and placing a message touch no byte of M, no entry and no L store.
-/
namespace Sys2Proof.Machine

/-- M, its marks, the entries on their way to it and every L store are the same. -/
def SameMemory (s t : State) : Prop :=
  t.mem = s.mem ∧ t.poison = s.poison ∧ t.entries = s.entries ∧ ∀ ep, (t.core ep).lstore = (s.core ep).lstore

theorem SameMemory.refl (s : State) : SameMemory s s := ⟨rfl, rfl, rfl, fun _ => rfl⟩
theorem SameMemory.trans {s t u : State} (h : SameMemory s t) (k : SameMemory t u) : SameMemory s u :=
  ⟨k.1.trans h.1, k.2.1.trans h.2.1, k.2.2.1.trans h.2.2.1, fun ep => (k.2.2.2 ep).trans (h.2.2.2 ep)⟩
/-- A change of anything but memory, marks, entries and cores. -/
theorem SameMemory.of_eq {s t : State} (h : t.mem = s.mem) (hp : t.poison = s.poison) (he : t.entries = s.entries)
    (hc : t.cores = s.cores) : SameMemory s t := ⟨h, hp, he, fun ep => by simp [State.core, hc]⟩
theorem SameMemory.foldl {α : Type} (f : State → α → State) (l : List α) (h : ∀ s a, SameMemory s (f s a)) (s : State) :
    SameMemory s (l.foldl f s) := by
  induction l generalizing s with
  | nil => exact .refl s
  | cons a l ih => exact (h s a).trans (ih (f s a))

theorem SameMemory.modCore (s : State) (ep : Nat) (f : Core → Core) (h : ∀ c, (f c).lstore = c.lstore) :
    SameMemory s (s.modCore ep f) := by
  refine ⟨rfl, rfl, rfl, fun e => ?_⟩
  by_cases he : e = ep
  · subst he
    rw [show (s.modCore e f).core e = f (s.core e) from AMap.get_put_same _ _ _ _]
    exact h _
  · rw [show (s.modCore ep f).core e = s.core e from AMap.get_put_other _ _ _ he]
theorem SameMemory.modSlot (s : State) (ep k : Nat) (f : Slot → Slot) : SameMemory s (s.modSlot ep k f) :=
  SameMemory.modCore s ep _ fun _ => rfl
theorem SameMemory.modChip (s : State) (c : Nat) (f : Chip → Chip) : SameMemory s (s.modChip c f) :=
  .of_eq rfl rfl rfl rfl
theorem SameMemory.modCap (s : State) (c : Nat) (f : Capsule → Capsule) : SameMemory s (s.modCap c f) := by
  unfold State.modCap
  split
  · exact .of_eq rfl rfl rfl rfl
  · exact .refl s
theorem SameMemory.modActor (s : State) (c i : Nat) (f : Actor → Actor) : SameMemory s (s.modActor c i f) :=
  SameMemory.modCap _ _ _

/-! Firings that end, and policies. -/

theorem State.clearSlot_memory (s : State) (ep k : Nat) (f : Firing) : SameMemory s (s.clearSlot ep k f) := by
  refine SameMemory.modCore s ep _ fun c => ?_
  dsimp only
  split <;> rfl
theorem State.spill_memory (s : State) (cap i : Nat) : SameMemory s (s.spill cap i) := by
  unfold State.spill
  dsimp only
  split
  · exact .refl s
  · exact (SameMemory.modActor s cap i _).trans (.of_eq rfl rfl rfl rfl)
theorem State.withdraw_memory (s : State) (ep k : Nat) : SameMemory s (s.withdraw ep k) := by
  unfold State.withdraw
  split
  · exact SameMemory.modChip _ _ _
  · exact .refl s
theorem State.leave_memory (s : State) (ep k : Nat) (f : Firing) : SameMemory s (s.leave ep k f) := by
  unfold State.leave
  dsimp only
  have h : ∀ p, SameMemory s { s.clearSlot ep k f with iq := p } := fun p =>
    (State.clearSlot_memory s ep k f).trans (.of_eq rfl rfl rfl rfl)
  split
  · exact h _
  · exact h _
  · exact ((h _).trans (SameMemory.modActor _ _ _ _)).trans (State.spill_memory _ _ _)
theorem State.addRecord_memory (s : State) (r : FaultRec) : SameMemory s (s.addRecord r) :=
  (SameMemory.modCap s r.cap _).trans (SameMemory.modChip _ _ _)
theorem State.terminate_memory (s : State) (cap : Nat) : SameMemory s (s.terminate cap) := by
  unfold State.terminate
  dsimp only
  split
  · exact .refl s
  · split
    · exact SameMemory.modCap _ _ _
    refine ((SameMemory.modCap s cap _).trans (SameMemory.modChip _ _ _)).trans (SameMemory.foldl _ _ (fun t ep => ?_) _)
    refine (SameMemory.foldl _ _ (fun u k => ?_) t).trans (SameMemory.modCore _ ep _ fun _ => rfl)
    split
    · exact (State.leave_memory _ _ _ _).trans (SameMemory.foldl _ _ (fun _ _ => State.addRecord_memory _ _) _)
    · exact .refl u
theorem State.park_memory (s : State) (cap reason : Nat) : SameMemory s (s.park cap reason) := by
  unfold State.park
  dsimp only
  split
  · split <;> exact SameMemory.modCap _ _ _
  · exact .refl s

/-- A fault outside any firing (R395) changes no memory. -/
theorem State.faultOutside_memory (s : State) (cap ep code : Nat) (i0 i1 : Word) (source owner : Nat) :
    SameMemory s (s.faultOutside cap ep code i0 i1 source owner) := by
  unfold State.faultOutside
  split
  · exact .refl s
  · dsimp only
    split
    · exact (State.addRecord_memory s _).trans (State.terminate_memory _ _)
    · split
      · exact (State.addRecord_memory s _).trans (State.park_memory _ _ _)
      · exact State.addRecord_memory s _
theorem State.reportUnknown_memory (s : State) (ep : Nat) (f : Firing) : SameMemory s (s.reportUnknown ep f) :=
  SameMemory.foldl _ _ (fun _ _ => State.faultOutside_memory _ _ _ _ _ _ _ _) _

theorem State.handlerFails_memory (s : State) (ep k : Nat) (f : Firing) (r : FaultRec) (e w code : Nat) :
    SameMemory s (s.handlerFails ep k f r e w code) :=
  (((State.addRecord_memory s _).trans (State.leave_memory _ ep k f)).trans (State.terminate_memory _ _)).trans
    (State.reportUnknown_memory _ _ _)

/-- Taking a fault in a firing (R388 to R394) changes no memory. -/
theorem State.takeFaultRaw_memory (s : State) (ep k : Nat) (i : FaultInfo) (cls : Nat) (word : Int) (raw : Nat) (ret : Int) :
    SameMemory s (s.takeFaultRaw ep k i cls word raw ret) := by
  unfold State.takeFaultRaw
  dsimp only
  have hw := State.withdraw_memory s ep k
  generalize s.withdraw ep k = s' at hw
  cases (s'.slot ep k).firing with
  | none => exact hw
  | some f =>
    dsimp only
    generalize Capsule.action _ _ = act
    generalize faultRecord _ _ _ _ _ _ _ _ _ = r
    have h := hw.trans (State.addRecord_memory s' r)
    by_cases ha : act = 2
    · rw [if_pos ha]
      split
      · exact h.trans (SameMemory.modSlot _ _ _ _)
      · exact h.trans (State.handlerFails_memory _ _ _ _ _ _ _ _)
    · rw [if_neg ha]
      have h := h.trans (State.leave_memory _ ep k f)
      split
      · exact (h.trans (State.park_memory _ _ _)).trans (State.reportUnknown_memory _ _ _)
      · exact (h.trans (State.terminate_memory _ _)).trans (State.reportUnknown_memory _ _ _)
theorem State.takeFault_memory (s : State) (ep k : Nat) (i : FaultInfo) (cls : Nat) (word ret : Int) :
    SameMemory s (s.takeFault ep k i cls word ret) := by
  unfold State.takeFault
  split
  · exact .refl s
  · exact State.takeFaultRaw_memory _ _ _ _ _ _ _ _
theorem State.trapHere_memory (s : State) (f : FaultInfo) (cls : Nat) : SameMemory s (s.trapHere f cls) := by
  unfold State.trapHere
  split
  · exact State.takeFault_memory _ _ _ _ _ _ _
  · exact .refl s
theorem State.issued_memory (s : State) (h : Hdr) : SameMemory s (s.issued h) := SameMemory.modCore s _ _ fun _ => rfl
theorem faulted_memory (s : State) (f : FaultInfo) : SameMemory s (faulted s f) :=
  (State.trapHere_memory s f clsPrecise).trans (State.issued_memory _ _)
theorem State.advance_memory (s : State) : SameMemory s s.advance := SameMemory.modSlot _ _ _ _
theorem completed_memory (h : Hdr) (s : State) : SameMemory s (completed h s) :=
  ((SameMemory.modSlot s _ _ _).trans (State.advance_memory _)).trans (State.issued_memory _ _)

/-! Messages. -/

theorem State.makeReady_memory (s : State) (cap i : Nat) : SameMemory s (s.makeReady cap i) := by
  unfold State.makeReady
  dsimp only
  split
  · exact .refl s
  · split
    · exact SameMemory.modActor s cap i _
    · exact (SameMemory.modActor s cap i _).trans (SameMemory.modCore _ _ _ fun _ => rfl)
theorem State.testActor_memory (s : State) (cap i : Nat) : SameMemory s (s.testActor cap i) := by
  unfold State.testActor
  repeat' split
  all_goals first
    | exact .refl s
    | exact State.makeReady_memory _ _ _
/-- Placing a message (R247) changes no memory. -/
theorem State.place_memory (s : State) (cap addr : Nat) (m : Msg) : SameMemory s (s.place cap addr m) :=
  (SameMemory.modActor s _ _ _).trans (State.testActor_memory _ _ _)
/-- Posting one, and reporting a mailbox that cannot take it (R277, R220), change no memory. -/
theorem State.post_memory (s : State) (src : HeldAt) (cap addr : Nat) (m : Msg) : SameMemory s (s.post src cap addr m) := by
  unfold State.post
  split
  · exact State.place_memory _ _ _ _
  · exact .of_eq rfl rfl rfl rfl
theorem State.postTyped_memory (s : State) (src : HeldAt) (cap addr : Nat) (types : List Nat) (m : Msg) (ep source : Nat) :
    SameMemory s (s.postTyped src cap addr types m ep source) := by
  unfold State.postTyped
  repeat' split
  all_goals first
    | exact .refl s
    | exact State.post_memory _ _ _ _ _
    | exact State.faultOutside_memory _ _ _ _ _ _ _ _
theorem State.endFiring_memory (s : State) (ep k : Nat) (f : Firing) (popw : Option (Nat × Nat)) :
    SameMemory s (s.endFiring ep k f popw) := by
  unfold State.endFiring
  dsimp only
  have h := State.clearSlot_memory s ep k f
  repeat' split
  all_goals first
    | exact h
    | exact (h.trans (SameMemory.modActor _ _ _ _)).trans (State.testActor_memory _ _ _)
    | exact (h.trans (SameMemory.modActor _ _ _ _)).trans (State.makeReady_memory _ _ _)
    | exact (h.trans (SameMemory.modActor _ _ _ _)).trans (SameMemory.modActor _ _ _ _)

end Sys2Proof.Machine
end

