-- ==== Sys2Proof/Laws/Access.lean ====
section
/-!
SUPPORT. What an access through an extent comes to in each outcome of its checks (04 R67 to R71).
-/
namespace Sys2Proof.Machine

/-- The checks pass and the request can be sent: the instruction's own description goes on with the location. -/
theorem State.access_ok {s : State} {x : Nat} {ea : Int} {n a need : Nat} {k : Nat → Extent → Eff} {key : Nat} {e : Extent}
    (h : checkAccess s.curCap s.curSlot x ea n a need = .ok key e)
    (hr : remoteHome s.curCore e.homeKey = true → s.remoteFull = false) : s.access x ea n a need k = k key e := by
  simp only [State.access, h]
  by_cases hm : remoteHome s.curCore e.homeKey = true
  · simp [hm, hr hm]
  · simp [hm]
/-- A check fails: the fault of Table 4.4. -/
theorem State.access_fail {s : State} {x : Nat} {ea : Int} {n a need : Nat} {k : Nat → Extent → Eff} {f : FaultInfo}
    (h : checkAccess s.curCap s.curSlot x ea n a need = .fail f) : s.access x ea n a need k = .fault f := by
  simp only [State.access, h]
/-- The committed length is passed: growth is asked for, with the fault that follows where it cannot be backed (R67). -/
theorem State.access_grow {s : State} {x : Nat} {ea : Int} {n a need : Nat} {k : Nat → Extent → Eff} {y : Nat} {upto : Int}
    (h : checkAccess s.curCap s.curSlot x ea n a need = .grow y upto) :
    s.access x ea n a need k = .grow y upto (fBound (mkPtr x ea) n) := by
  simp only [State.access, h]

end Sys2Proof.Machine
end

