-- ==== Sys2Proof/Tests/Slice0.lean ====
section
/-!
SUPPORT. Tests: words of the spec's listings, ill-formed terms that the check refuses, results worked out by hand from
the spec, and for every statement a state and operands that meet its hypotheses (`witness_…`).
-/
namespace Sys2Proof.Machine.Test
set_option Elab.async false

/-! Small states. -/

/-- A firing about to issue word 8 in slot 0 of core 0. -/
def base : State := State.reset.withFetchWord 96 0
def withS (l : List (Nat × Word)) (s : State) : State := s.modCur fun x => l.foldl (fun x e => x.setS e.1 e.2) x
def withV (l : List (Nat × VBits × Tag)) (s : State) : State := s.modCur fun x => l.foldl (fun x e => x.setV e.1 e.2.1 e.2.2) x
def withP (l : List (Nat × PBits)) (s : State) : State := s.modCur fun x => l.foldl (fun x e => x.setP e.1 e.2) x
def withFctl (v : BitVec 5) (s : State) : State := s.modCur fun x => { x with fctl := v }
def r (n : Fin 64) : Operand := .s n false
def v (n : Fin 64) : Operand := .v n false
def p (n : Fin 16) : Operand := .p n false
def i (n : Nat) : Operand := .imm (BitVec.ofNat 20 n)
def m : Mods := Mods.plain
def ty (t : Tag) : Mods := { Mods.plain with ty := some t }
def ops (m : Mods) (d a b : Operand) : Ops := ⟨plainHdr, m, d, a, b⟩
def rrr : Ops := ops m (r 6) (r 4) (r 5)

/-- The instruction issues, and what it issues with meets the condition. -/
def goes (sp : Spec) (o : Ops) (s : State) (f : State → Vals → PBits → Bool := fun _ _ _ => true) : Bool :=
  match ready sp o s with
  | .go s1 v g => f s1 v g
  | _ => false
/-- exec goes on to the next word, in a state that meets the condition. -/
def completes (i : Instr) (s : State) (f : State → Bool := fun _ => true) : Bool :=
  match exec i s with
  | .next t => decide (t.curF.pc = s.curF.pc + 1) && f t
  | _ => false
/-- exec answers a next state that meets the condition. -/
def nexts (i : Instr) (s : State) (f : State → Bool) : Bool :=
  match exec i s with
  | .next t => f t
  | _ => false
/-- A request of the firing of `base`. -/
def item (a : Act) : Item := { id := 50, fir := 1, ep := 0, slot := 0, cap := 1, word := 8, raw := 0, opcode := 0, act := a }
def sv (n : Nat) (w : Word) (t : State) : Bool := (t.cur.sreg n).val == w
def elv (w n i x : Nat) (t : State) : Bool := velem w (t.cur.vreg n).bits i == x
/-- The first record of the capsule has this code and these detail words. -/
def faultIs (code : Nat) (i0 i1 : Word) (t : State) : Bool :=
  match (t.cap 1).records with
  | [f] => f.code == code && f.info0 == i0 && f.info1 == i1
  | _ => false

/-! Decoding: the words that the spec's encoding tables write out. -/

theorem test_words_of_the_statement : Obligations.SampleWords := by
  unfold Obligations.SampleWords
  refine ⟨?_, ?_, ?_, ?_, ?_, ?_, ?_, ?_, ?_, ?_, ?_, ?_, ?_, ?_, ?_, ?_, ?_, ?_, ?_, ?_, ?_, ?_, ?_, ?_, ?_⟩ <;> rfl
/-- Tables 4.6, 8.3 and 10.10. -/
theorem test_words_memory : decodeWord 0x901E00047002480004700000 = .ok (.ld (ops (ty .i64) (r 9) (r 8) (i 0)))
    ∧ decodeWord 0x49DE00080000940000700000 = .ok (.vtrit (ops m (v 2) (.v 0 true) (i 0)))
    ∧ decodeWord 0xA61E001C0000080005000000 = .ok (.pappend (ops m (i 0) (r 10) .none)) := ⟨rfl, rfl, rfl⟩
theorem test_word_rcopy : decodeWord 0xB19E00040001C8000310001E = .ok (.rcopy (ops m (r 7) (r 6) (r 30))) := rfl
theorem test_word_tret : decodeWord 0xD85E001C0000400000000000 = .ok (.tret (ops m (i 1) .none .none)) := rfl
theorem test_word_loop : decodeWord 0x035E00040002C00000000007 = .ok (.loop ⟨plainHdr, r 11, 7⟩) := rfl
theorem test_word_amsg : decodeWord 0xB0DE0004000508000A900016 = .ok (.amsg (ops m (r 20) (r 21) (r 22))) := rfl
theorem test_encode_add : encode (.add rrr) = 0x201E00040001880002100005 := rfl
/-- The reader's function and the fetch agree with the decoder. -/
theorem test_table_word : decodeTableWord 96 0x201E00040001880002100005 = some (.add rrr) := rfl

/-! WellFormed: one ill-formed term for each check, which it refuses. -/

theorem test_wf_accepts : Instr.wellFormed (.add rrr) = true ∧ Instr.wellFormed (.call ⟨plainHdr, .none, 4⟩) = true := by decide
theorem test_wf_kind_of_d : Instr.wellFormed (.add (ops m (p 2) (r 4) (r 5))) = false := by decide
theorem test_wf_kind_of_a : Instr.wellFormed (.add (ops m (r 6) (v 4) (r 5))) = false := by decide
theorem test_wf_kind_of_b : Instr.wellFormed (.mov (ops m (r 6) (r 4) (i 1))) = false := by decide
theorem test_wf_unused_type : Instr.wellFormed (.nop (ops (ty .i8) .none .none .none)) = false := by decide
theorem test_wf_reserved_mode : Instr.wellFormed (.add (ops { m with mode := 2 } (r 6) (r 4) (r 5))) = false := by decide
theorem test_wf_unused_mode : Instr.wellFormed (.pand (ops { m with mode := 1 } (p 1) (p 2) (p 3))) = false := by decide
theorem test_wf_unused_scope : Instr.wellFormed (.add (ops { m with scope := .dev } (r 6) (r 4) (r 5))) = false := by decide
theorem test_wf_unused_order : Instr.wellFormed (.add (ops { m with order := .acq } (r 6) (r 4) (r 5))) = false := by decide
theorem test_wf_last_use_of_destination : Instr.wellFormed (.add (ops m (.s 6 true) (r 4) (r 5))) = false := by decide
theorem test_wf_last_use_of_destination_a : Instr.wellFormed (.pseq (ops m (i 0) (.s 4 true) .none)) = false := by decide
theorem test_wf_modifiers_beside_immediate : Instr.wellFormed (.evcfg (ops (ty .i8) (i 0) (r 4) .none)) = false := by decide
theorem test_wf_tag_that_is_no_type : Instr.wellFormed (.vtag (ops (ty .freed) (v 6) (v 4) .none)) = false := by decide
theorem test_wf_queue_class : Instr.wellFormed (.add (ops m (.q 12) (r 4) (r 5))) = false := by decide
theorem test_wf_type_not_taken : Instr.wellFormed (.add (ops (ty .f32) (r 6) (r 4) (r 5))) = false := by decide
theorem test_wf_type_required : Instr.wellFormed (.ld (ops m (r 6) (r 4) (i 0))) = false := by decide
theorem test_wf_scope_not_taken : Instr.wellFormed (.qpub (ops { m with scope := .die } (r 8) (i 0) (r 9))) = false := by decide
theorem test_wf_order_not_taken : Instr.wellFormed
    (.ld (ops { ty .i64 with scope := .dev, order := .rel } (r 6) (r 4) (i 0))) = false := by decide
theorem test_wf_order_without_scope : Instr.wellFormed
    (.ld (ops { ty .i64 with order := .acq } (r 6) (r 4) (i 0))) = false := by decide
theorem test_wf_group_of_four : Instr.wellFormed (.vscale (ops (ty .f32) (v 2) (v 8) (v 9))) = false
    ∧ Instr.wellFormed (.vscale (ops (ty .f32) (v 4) (v 8) (v 9))) = true := by decide
theorem test_wf_slot_above_63 : Instr.wellFormed (.mkptr (ops m (r 6) (i 64) (r 4))) = false := by decide
theorem test_wf_mode_without_type : Instr.wellFormed (.tmov (ops { m with mode := 1 } (.tile 16) (.tile 17) .none)) = false := by
  decide
theorem test_wf_wide_operand : Instr.wellFormed (.call ⟨plainHdr, r 4, 4⟩) = false := by decide
theorem test_wf_wide_queue_class : Instr.wellFormed (.ldiw ⟨plainHdr, .q 12, 4⟩) = false := by decide
theorem test_wf_event_is_no_word : Instr.wellFormed (.kernelPanic 0) = false := by decide

/-! Witnesses: for each statement, a state and operands that meet its hypotheses. -/

theorem witness_DecodeOfEncode : Instr.wellFormed (.vffma (ops { ty .f32 with mode := 1 } (v 6) (v 4) (v 5))) = true := by decide
theorem witness_EncodeOfDecode : ∃ i, 0x60DE0008A041900002200005 < 2 ^ 96 ∧ decodeWord 0x60DE0008A041900002200005 = .ok i :=
  ⟨_, by decide, rfl⟩
def addWord : Nat := 0x201E00040001880002100005
theorem witness_StepRunsDecoded : ∃ t u ks f w i, (State.reset.withFetchWord 96 addWord).nextMove = some (.cycle 0, t)
    ∧ t.isCore 0 = true ∧ ((t.mwaitTests 0).core 0).issueOrder = 0 :: ks ∧ ((t.mwaitTests 0).slot 0 0).firing = some f ∧ f.unknown = []
    ∧ (t.mwaitTests 0).spcHeld f.id = false
    ∧ State.growthAtFetch { t.mwaitTests 0 with curCore := 0, curSlot := 0 } f = none
    ∧ fetchWord { t.mwaitTests 0 with curCore := 0, curSlot := 0 } 0 f f.pc = .ok w ∧ decodeWord w = .ok i
    ∧ exec i { t.mwaitTests 0 with curCore := 0, curSlot := 0 } = .next u ∧ (u.core 0).lastCycle = ((t.mwaitTests 0).core 0).cycles.toNat + 1 :=
  ⟨_, _, _, _, _, _, rfl, rfl, rfl, rfl, rfl, rfl, rfl, rfl, rfl, rfl, rfl⟩
theorem witness_StepRunsDecoded_alone : ∀ e, e ∈ (State.reset.withFetchWord 96 addWord).caps → e.2.redundant = false := by decide
theorem witness_StepRunsEvent :
    ({ State.reset with agenda := [.event (.clockBoost 3 2100)] } : State).nextMove
      = some (.event (.clockBoost 3 2100), State.reset) ∧ Instr.form (.clockBoost 3 2100) = .event
    ∧ ({ State.reset with agenda := [.event (.add rrr)] } : State).nextMove = some (.event (.add rrr), State.reset)
    ∧ Instr.form (.add rrr) ≠ .event ∧ (∀ e, e ∈ State.reset.caps → e.2.redundant = false)
    ∧ (∀ ep, (State.reset.core ep).shadowOf = none) ∧ State.reset.ofShadow (.clockBoost 3 2100) = false :=
  ⟨rfl, rfl, rfl, by decide, by decide, fun _ => rfl, rfl⟩
theorem witness_FetchFaults_fetch : ∃ f e, ((base.modF fun f => { f with pc := -1 }).slot 0 0).firing = some f ∧ f.unknown = []
    ∧ base.spcHeld f.id = false ∧ State.growthAtFetch { base.modF (fun f => { f with pc := -1 }) with curCore := 0, curSlot := 0 } f = none
    ∧ fetchWord { base.modF (fun f => { f with pc := -1 }) with curCore := 0, curSlot := 0 } 0 f f.pc = .error e :=
  ⟨_, _, rfl, rfl, rfl, rfl, rfl⟩
theorem witness_FetchFaults_decode : ∃ f w d, (base.slot 0 0).firing = some f ∧ f.unknown = [] ∧ base.spcHeld f.id = false
    ∧ State.growthAtFetch { base with curCore := 0, curSlot := 0 } f = none
    ∧ fetchWord { base with curCore := 0, curSlot := 0 } 0 f f.pc = .ok w ∧ decodeWord w = .error d :=
  ⟨_, _, _, rfl, rfl, rfl, rfl, rfl, rfl⟩
/-- A code extent that has the word in its length and not in its committed part. -/
def shortCode : State := base.modCap 1 fun c => { c with
  extents := c.extents.put 0 { base := 0x10000, home := 0, length := 4096, comm := 64, attr := 0x065, owner := 0 } }
theorem witness_FetchFaults_growth : ∃ f x n, (shortCode.slot 0 0).firing = some f ∧ f.unknown = [] ∧ shortCode.spcHeld f.id = false
    ∧ State.growthAtFetch { shortCode with curCore := 0, curSlot := 0 } f = some (x, n) := ⟨_, _, _, rfl, rfl, rfl, rfl⟩
/-- Without X; the word behind the extent; a word that the bitmap does not mark; an inline buffer that has no word. -/
def noX : State := base.modCap 1 fun c => { c with
  extents := c.extents.put 0 { base := 0x10000, home := 0, length := 4096, comm := 4096, attr := 0x041, owner := 0 } }
def unmarked : State := base.modF fun f => { f with code := f.code.map fun _ => 0 }
theorem witness_FetchFaults_extent : ((noX.cap 1).extents.find 0).any (fun x => !x.has permX && x.homeKey == (noX.cap 1).chip) = true
    ∧ base.curF.inInline = false ∧ ((base.cap 1).extents.find 0).any (fun x => x.has permX && decide (x.length < 12 * 341 + 12)
      && decide (12 * base.curF.pc + 12 ≤ x.comm) && decide (x.comm ≤ x.length)) = true
    ∧ codeMarked unmarked.curF.code unmarked.curF.pc.toNat = false
    ∧ (({ base.curF with inline := some 0 } : Firing).trap).isNone = true ∧ (base.curC.inlineBufs.get [] 0).length ≤ base.curF.pc := by
  decide +kernel
theorem witness_FetchFaults_words : bits 0 86 10 = 0 ∧ bits (0x3FF * 2 ^ 86) 86 10 = 0x3FF ∧ rowOf 0x3FE = none
    ∧ (match decodeWord (0x201E00040001880002100005 + 2 ^ 8) with | .error _ => true | .ok _ => false) = true := by decide +kernel
/-- Table 3.10: the faults of the first steps. -/
theorem test_fetch_faults : nexts (.add rrr) base (fun _ => true) = true
    ∧ (match issueSlot noX 0 0 with | .next t => faultIs 0x07 (mkPtr 0 96) 4 t | _ => false) = true
    ∧ (match issueSlot unmarked 0 0 with | .next t => faultIs 0x0A 8 0 t | _ => false) = true
    ∧ (match issueSlot (base.modF fun f => { f with pc := 341 }) 0 0 with | .next t => faultIs 0x06 (mkPtr 0 (12 * 341)) 12 t | _ => false) = true := by
  decide +kernel
def never : Ops := { rrr with hdr := { plainHdr with guard := 0 } }
theorem witness_GuardedOut : Instr.wellFormed (.add never) = true ∧ Instr.form (.add never) = .word 0x080 never
    ∧ (withP [(0, 0)] base).cur.firing.isSome = true ∧ guardBits (withP [(0, 0)] base) (withP [(0, 0)] base).cur never.hdr = 0 :=
  ⟨by decide, rfl, rfl, by decide⟩
/-- A scalar guard without bit 0, over a scalar and a queue destination; a wide form; `loop`. -/
def odd1 (o : Ops) : Ops := { o with hdr := { plainHdr with guard := 1 } }
def guard2 : State := withP [(1, 2)] base
theorem witness_GuardedOut_scalar :
    (guardBits guard2 guard2.cur (odd1 rrr).hdr).getLsbD 0 = false ∧ guardBits guard2 guard2.cur (odd1 rrr).hdr ≠ 0
    ∧ Instr.wellFormed (.add (odd1 (ops m (.q 3) (r 4) (r 5)))) = true ∧ Instr.form (.add (odd1 rrr)) = .word 0x080 (odd1 rrr)
    ∧ Instr.wellFormed (.call ⟨{ plainHdr with guard := 1 }, .none, 4⟩) = true
    ∧ Instr.form (.call ⟨{ plainHdr with guard := 1 }, .none, 4⟩) = .wide 0x009 ⟨{ plainHdr with guard := 1 }, .none, 4⟩
    ∧ Instr.wellFormed (.loop ⟨{ plainHdr with guard := 1 }, r 4, 4⟩) = true
    ∧ Instr.form (.loop ⟨{ plainHdr with guard := 1 }, r 4, 4⟩) = .wide 0x00D ⟨{ plainHdr with guard := 1 }, r 4, 4⟩ := by decide
/-- A loop word with a false guard that is the last word of an enclosing loop does not count that loop down (14 R271). -/
theorem test_loop_guarded_out : nexts (.loop ⟨{ plainHdr with guard := 1 }, r 4, 4⟩)
    (guard2.modF fun f => { f with loops := [⟨7, 8, 2⟩] }) (fun t => t.curF.pc == 9 && t.curF.loops == [⟨7, 8, 2⟩]) = true := by decide
theorem witness_IssueConditions : ∃ f r v c, base.cur.firing = some f ∧ rowOf 0x080 = some r
    ∧ (guardBits base base.cur rrr.hdr).getLsbD 0 = true ∧ readFields r base.fresh base.cur base.curC rrr = some (v, c)
    ∧ busy { op := 0x080 } r base.cur base.curC rrr = false
    ∧ step9 { op := 0x080 } base base.curC base.cur (base.cap f.cap).strict rrr v = none :=
  ⟨_, _, _, _, rfl, rfl, by decide, rfl, by decide, by decide⟩
/-- An element guard, without a type modifier and with one, and registers neither pending nor freed. -/
theorem witness_IssueConditions_fields :
    (let s := withV [(1, 7, .i16)] (withS [(4, 5)] base)
     ∃ i, i < 256 / (s.cur.vreg 1).tag.width ∧ (guardBits s s.cur plainHdr).getLsbD (i * (s.cur.vreg 1).tag.width) = true
      ∧ (s.cur.vreg 1).pend = none ∧ (s.cur.vreg 1).tag ≠ .freed ∧ (s.cur.sreg 4).pend = none ∧ (s.cur.sreg 4).freed = false)
    ∧ (∃ i, i < 256 / Tag.width .i8 ∧ (guardBits base base.cur plainHdr).getLsbD (i * Tag.width .i8) = true) ∧ (0 : Nat) < 4
    ∧ ((base.modCur fun x => x.setSReg 6 { pend := some 5 }).cur.sreg 6).pend ≠ none ∧ (base.cur.preg 15).freed = false :=
  ⟨⟨0, by decide +kernel⟩, ⟨0, by decide +kernel⟩, by decide, by decide +kernel, by decide +kernel⟩
def qent (w : Word) : QEnt := ⟨w, false, none, 0⟩
theorem witness_IssueConditions_queue : Row.alu3o.dSrc (ops m (r 6) (.q 0) (.q 0)).shape = false ∧ Row.alu3o.aDst = false
    ∧ ({ sq := [(0, [qent 1, qent 2])] } : Core).sq' 0 = [qent 1, qent 2] ∧ (({ sq := [(0, [qent 1])] } : Core).sq' 0).length < 2 := by
  decide
theorem test_queue_pops_in_order : completes (.sub (ops m (r 6) (.q 0) (.q 0)))
    (base.modCurC fun c => { c with sq := [(0, [qent 9, qent 2])] }) (fun t => sv 6 7 t && (t.curC.sq' 0).isEmpty) = true := by decide

/-! Common, control and scalar instructions. -/

theorem witness_CommonResults :
    goes { op := 0x001 } (ops m .none .none .none) base = true
    ∧ goes { op := 0x002 } (ops m (r 6) (r 4) .none) (withS [(4, 5)] base) (fun _ v _ => v.a == .s 5 false false) = true
    ∧ goes { op := 0x002 } (ops m (p 1) (p 2) .none) (withP [(2, 3)] base) (fun _ v _ => v.a == .p 3 false) = true
    ∧ goes { op := 0x002, guard := .elem 1 } (ops m (v 1) (v 2) .none) (withV [(2, 9, .i8)] base)
      (fun _ v _ => v.a == .v 9 .i8 false) = true
    ∧ goes { op := 0x003 } (ops m (r 6) (i 9) .none) base = true
    ∧ goes { op := 0x004 } (Wide.ops ⟨plainHdr, r 6, 9⟩) base = true
    ∧ goes { op := 0x005 } (ops m (r 6) (i 63) (r 4)) (withS [(4, 8)] base) (fun _ v _ => decide (v.a.word.toNat ≤ 63)) = true
    ∧ goes { op := 0x005 } (ops m (r 6) (r 4) (r 5)) (withS [(4, 64), (5, 8)] base) (fun _ v _ => decide (63 < v.a.word.toNat)) = true
    ∧ goes { op := 0x006 } (ops (ty .i64) (r 6) (r 4) (i 3)) (withS [(4, 8)] base)
      (fun _ v _ => decide (0 ≤ (ptrOff v.a.word : Int) + sval v.b.word * 8)) = true
    ∧ goes { op := 0x006 } (ops (ty .i64) (r 6) (r 4) (r 5)) (withS [(4, 8), (5, -2)] base)
      (fun _ v _ => decide ((ptrOff v.a.word : Int) + sval v.b.word * 8 < 0)) = true := by decide +kernel
theorem test_mkptr : completes (.mkptr (ops m (r 6) (i 3) (r 4))) (withS [(4, 16)] base) (sv 6 0x0C00000000000010) = true := by decide
theorem test_ptrx_below_zero : nexts (.ptrx (ops (ty .i64) (r 6) (r 4) (r 5))) (withS [(4, 8), (5, -2)] base)
    (faultIs 0x06 8 0xFFFFFFFFFFFFFFF0) = true := by decide
theorem test_movi_sign : completes (.movi (ops m (r 6) (i 0xFFFFF) .none)) base (sv 6 0xFFFFFFFFFFFFFFFF) = true := by decide
def loops2 : List LoopEnt := [⟨8, 9, 2⟩, ⟨7, 20, 1⟩]
theorem witness_ControlTransfers :
    goes { op := 0x007 } (Wide.ops ⟨plainHdr, .none, 4⟩) base (fun s1 _ _ => s1.inlineLen == none) = true
    ∧ goes { op := 0x007 } (Wide.ops ⟨plainHdr, .none, -4⟩) ((base.modF fun f => { f with inline := some 0 }).modCurC fun c => { c with inlineBufs := [(0, List.replicate 10 0)] })
      (fun s1 _ _ => s1.inlineLen == some 10 && decide (0 ≤ s1.pc - 4) && decide (s1.pc - 4 < 10)) = true
    ∧ goes { op := 0x009, writes := fun _ => [1] } (Wide.ops ⟨plainHdr, .none, 4⟩) base (fun s1 _ _ => s1.inlineLen == none) = true
    ∧ goes { op := 0x008 } (ops m (r 4) .none .none) (withS [(4, 24)] base)
      (fun s1 v _ => s1.inlineLen == none && ptrSlot v.d.word == 0 && ptrOff v.d.word % 12 == 0) = true
    ∧ goes { op := 0x00A, writes := fun _ => [1] } (ops m (r 1) .none .none) (withS [(1, 24)] base)
      (fun s1 v _ => s1.inlineLen == none && ptrSlot v.d.word == 0 && ptrOff v.d.word % 12 == 0) = true
    ∧ goes { op := 0x00B, reads := fun _ => [(3, 1)] } (ops m .none .none .none) (withS [(1, 24)] base)
      (fun s1 v _ => s1.inlineLen == none && ptrSlot (v.reg 1) == 0 && ptrOff (v.reg 1) % 12 == 0) = true
    ∧ goes { op := 0x00D } (Wide.ops ⟨plainHdr, r 4, 1⟩) (withS [(4, -1)] base)
      (fun s1 v _ => v.d.isImm == false && v.d.word != 0 && decide (s1.curF.loops.length < 4)) = true
    ∧ goes { op := 0x00D } (Wide.ops ⟨plainHdr, r 4, 1⟩) (withS [(4, 0)] base) (fun _ v _ => v.d.word == 0) = true
    ∧ goes { op := 0x00E } (ops m (i 2) .none .none) (base.modF fun f => { f with loops := loops2 })
      (fun s1 _ _ => (s1.curF.loops[1]?).isSome) = true := by decide
theorem witness_ControlTransfers_end : (⟨8, 9, 2⟩ : LoopEnt).last = 9 ∧ (⟨8, 9, 2⟩ : LoopEnt).count ≠ 1 ∧ (⟨8, 9, 1⟩ : LoopEnt).count = 1
    ∧ (⟨8, 9, 1⟩ : LoopEnt).last ≠ 10 := by decide
/-- 14 R271: the body's last word with a count of 2 goes back to its start; lexit leaves both loops past word 20. -/
theorem test_loop_repeats : nexts (.nop (ops m .none .none .none)) (base.modF fun f => { f with pc := 9, loops := loops2 })
    (fun t => t.curF.pc == 8 && t.curF.loops == [⟨8, 9, 1⟩, ⟨7, 20, 1⟩]) = true := by decide
theorem test_lexit_two : nexts (.lexit (ops m (i 2) .none .none)) (base.modF fun f => { f with loops := loops2 })
    (fun t => t.curF.pc == 21 && t.curF.loops.isEmpty) = true := by decide
/-- 04 R77: s1 takes the byte pointer of the word after the call, 12 × 9. -/
theorem test_call_links : nexts (.call ⟨plainHdr, .none, 4⟩) base (fun t => t.curF.pc == 12 && sv 1 108 t) = true := by decide
theorem witness_FiringEnds : goes { op := 0x00C } (ops m .none .none .none) base
      (fun s1 _ _ => match s1.cur.firing with | some f => f.shadow == none && s1.settled f && f.kind == .actor | none => false) = true
    ∧ goes { op := 0x00C } (ops m .none .none .none) (base.modF fun f => { f with kind := .task })
      (fun s1 _ _ => match s1.cur.firing with | some f => f.shadow == none && s1.settled f && f.kind == .task | none => false) = true
    ∧ goes { op := 0x00C } (ops m .none .none .none) { base with iq := [{ item .fence with dst := .s 9 }] }
      (fun s1 _ _ => match s1.cur.firing with | some f => f.shadow == none && !s1.settled f | none => false) = true := by decide
theorem test_done_frees_the_slot : nexts (.done (ops m .none .none .none)) base (fun t => (t.slot 0 0).firing == none) = true := by decide
theorem witness_ScalarArithmetic : [0x080, 0x081, 0x082, 0x083, 0x084, 0x085, 0x08A, 0x08B, 0x08C, 0x08D, 0x08E, 0x08F, 0x091, 0x092,
      0x093, 0x094, 0x095].all (fun op => goes { op := op } rrr (withS [(4, 7), (5, 3)] base)) = true
    ∧ [0x088, 0x089, 0x090, 0x096, 0x097].all
      (fun op => goes { op := op } (ops m (r 6) (r 4) .none) (withS [(4, 7)] base)) = true := by decide
theorem test_add_wraps : completes (.add (ops (ty .i8) (r 6) (r 4) (r 5))) (withS [(4, 127), (5, 1)] base)
    (fun t => sv 6 0xFFFFFFFFFFFFFF80 t && t.cur.fstat == 0) = true := by decide
theorem test_add_saturates : completes (.add (ops { ty .i8 with mode := 1 } (r 6) (r 4) (r 5))) (withS [(4, 127), (5, 1)] base)
    (fun t => sv 6 127 t && t.cur.fstat == 0x20) = true := by decide
theorem test_sub_order : completes (.sub rrr) (withS [(4, 3), (5, 5)] base) (sv 6 0xFFFFFFFFFFFFFFFE) = true := by decide
theorem test_mulh_signs : completes (.mulh (ops (ty .i32) (r 6) (r 4) (r 5))) (withS [(4, -1), (5, 2)] base) (sv 6 (-1)) = true := by
  decide
theorem test_subb_borrow : completes (.subb (ops (ty .n8) (r 6) (r 4) (r 5))) (withS [(4, 3), (5, 5)] base) (sv 6 1) = true := by decide
/-- A count of the full width is 0 (06 R108). -/
theorem test_shl_by_width : completes (.shl rrr) (withS [(4, 3), (5, 64)] base) (sv 6 3) = true := by decide
theorem test_sar_sign : completes (.sar (ops (ty .i8) (r 6) (r 4) (r 5))) (withS [(4, 0x80), (5, 1)] base) (sv 6 (-64)) = true := by
  decide
theorem test_rol_i8 : completes (.rol (ops (ty .n8) (r 6) (r 4) (r 5))) (withS [(4, 0x81), (5, 1)] base) (sv 6 3) = true := by decide
theorem test_clz_zero : completes (.clz (ops (ty .n16) (r 6) (r 4) .none)) (withS [(4, 0x10000)] base) (sv 6 16) = true := by decide
theorem test_source_is_destination : completes (.add (ops m (r 4) (r 4) (r 4))) (withS [(4, 21)] base) (sv 4 42) = true := by decide
theorem test_s0_discards : completes (.add (ops m (r 0) (r 4) (r 4))) (withS [(4, 21)] base) (sv 0 0) = true := by decide
theorem test_last_use_frees : completes (.add (ops m (r 6) (.s 4 true) (r 5))) (withS [(4, 21), (5, 1)] base)
    (fun t => (t.cur.sreg 4).freed && !(t.cur.sreg 5).freed && sv 6 22 t) = true := by decide
theorem witness_IntegerWrites : Tag.isInt .i8 = true ∧ imin .i8 ≤ -128 ∧ (127 : Int) ≤ imax .i8 ∧ -129 < imin .i8 ∧ imax .i8 < 128
    ∧ Tag.isSigned .i8 = true ∧ Tag.isSigned .n8 = false := by decide
theorem witness_UntypedArithmetic : goes { op := 0x084 } rrr (withS [(4, 7), (5, 3)] base) = true ∧ rrr.mods.ty = none ∧ rrr.mods.mode = 0 := by
  decide
theorem witness_DivisionResults :
    [0x086, 0x087].all (fun op => goes { op := op } rrr (withS [(4, 7), (5, 3)] base) (fun _ v _ => iread .i64 v.b.word.toNat != 0)) = true
    ∧ [0x086, 0x087].all (fun op => goes { op := op } rrr (withS [(4, 7), (5, 0)] base)
      (fun s1 v _ => iread .i64 v.b.word.toNat == 0 && !s1.cur.fctl.getLsbD 3)) = true
    ∧ [0x086, 0x087].all (fun op => goes { op := op } rrr (withFctl 8 (withS [(4, 7), (5, 0)] base))
      (fun s1 v _ => iread .i64 v.b.word.toNat == 0 && s1.cur.fctl.getLsbD 3)) = true := by decide
theorem test_div_toward_zero : completes (.div rrr) (withS [(4, -7), (5, 2)] base) (sv 6 (-3)) = true := by decide
theorem test_rem_by_zero : completes (.rem (ops (ty .i8) (r 6) (r 4) (r 5))) (withS [(4, -7), (5, 256)] base)
    (fun t => sv 6 (-7) t && t.cur.fstat == 0x40) = true := by decide
theorem witness_BitFieldsAndSelect : [0x099, 0x09B, 0x09C, 0x098].all (fun op => goes { op := op } rrr (withS [(4, 7), (5, 0x43)] base)) = true
    ∧ goes { op := 0x09A, dDst := true } rrr (withS [(4, 7), (5, 0x43), (6, 1)] base) = true
    ∧ goes { op := 0x098 } (ops m (r 6) (p 2) .none) (withP [(2, 5)] base) (fun _ v _ => v.a == .p 5 false) = true
    ∧ goes { op := 0x09D } (ops { ty .i64 with mode := 5 } (p 2) (r 4) (r 5)) (withS [(4, 7), (5, 7)] base) = true
    ∧ goes { op := 0x09E, dDst := true } rrr (withS [(4, 7), (5, 3), (6, 0)] base) (fun _ v _ => v.d.word == 0) = true
    ∧ [0x09F, 0x0A0, 0x0A1, 0x0A2].all (fun op => goes { op := op } (ops m (p 1) (p 2) (p 3)) base) = true := by decide
/-- Position 4, length 3 of 0x7F0: all ones, sign-extended under i64 (06 R111). -/
theorem test_bfx_signed : completes (.bfx (ops (ty .i64) (r 6) (r 4) (r 5))) (withS [(4, 0x70), (5, 0xC4)] base) (sv 6 (-1)) = true := by
  decide
theorem test_bfi_keeps_the_rest : completes (.bfi rrr) (withS [(4, 0xFF), (5, 0xC4), (6, 0x1000F)] base) (sv 6 0x1007F) = true := by decide
theorem test_sel_by_zero : completes (.sel rrr) (withS [(4, 7), (5, 3), (6, 0)] base) (sv 6 3) = true := by decide
theorem test_cmp_unsigned : completes (.cmp (ops { ty .n8 with mode := 2 } (p 2) (r 4) (r 5))) (withS [(4, 0xFF), (5, 1)] base)
    (fun t => (t.cur.preg 2).bits == 0) = true := by decide

/-! Vector, lane, conversion and float instructions. -/

/-- The vector whose elements of width w are these, the others 0. -/
def vec (w : Nat) (l : List Nat) : VBits := vofElems w fun k => l.getD k 0
def vints : State := withV [(4, vec 1 [1, 2, 0xFF], .i8), (5, vec 1 [127, 0xFE, 1], .i8), (6, vec 1 [10, 20, 30], .i8)] base
def vvv : Ops := ops m (v 6) (v 4) (v 5)
theorem witness_ElementWrites : Tag.i8 ≠ .freed ∧ (0 : Nat) < 256 / Tag.width .i8 ∧ active (BitVec.allOnes 256) 1 0 = true
    ∧ active 0 1 0 = false := by decide +kernel
theorem witness_VectorArithmetic :
    [0x100, 0x101, 0x102, 0x103, 0x105, 0x106, 0x107, 0x108, 0x10D, 0x10E, 0x10F, 0x115, 0x116].all
      (fun op => goes { op := op, guard := .elem 1, tags := tagsAre Tag.isInt } vvv vints) = true
    ∧ [0x109, 0x10A, 0x10B, 0x10C].all (fun op => goes { op := op, guard := .elem 1 } vvv vints) = true
    ∧ goes { op := 0x104, guard := .elem 1, dDst := true, tags := tagsAre Tag.isInt } vvv vints = true
    ∧ goes
        { op := 0x112, guard := .elem 1, dDst := true
          tags := fun _ o v =>
            (tagFail 0 v.d (· == elemTy o v.a)).or ((tagFail 1 v.a fun x => x == elemTy o v.a && x.isInt).or
            (tagFail 2 v.b fun x => x.isInt && x.width == (elemTy o v.a).width)) } vvv vints = true
    ∧ goes
        { op := 0x113, guard := .elem 0, dDst := true
          tags := fun _ o v =>
            (tagFail 0 v.d fun x => x == elemTy o v.d && (x == .i32 || x == .n32 || x == .i64 || x == .n64)).or
            ((tagFail 1 v.a (dotSource (elemTy o v.d))).or (tagFail 2 v.b (dotSource (elemTy o v.d)))) } vvv
        (withV [(6, 0, .i32)] vints) = true := by decide +kernel
theorem test_vadd_saturates : completes (.vadd (ops { m with mode := 1 } (v 6) (v 4) (v 5))) vints
    (fun t => elv 1 6 0 127 t && elv 1 6 1 0 t && t.cur.fstat == 0x20) = true := by decide +kernel
/-- 06 R122: + for a positive element of B, - for a negative one. -/
theorem test_vaddsub : completes (.vaddsub vvv) vints (fun t => elv 1 6 0 11 t && elv 1 6 1 18 t && elv 1 6 2 29 t) = true := by decide +kernel
/-- 1000 + 1·127 + 2·(-2) + (-1)·1. -/
theorem test_vdot4 : completes (.vdot4 vvv) (withV [(6, vec 4 [1000], .i32)] vints)
    (elv 4 6 0 1122) = true := by decide +kernel
theorem test_guarded_elements : completes (.vadd { vvv with hdr := { plainHdr with guard := 1 } }) (withP [(1, 2)] vints)
    (fun t => elv 1 6 0 10 t && elv 1 6 1 0 t && elv 1 6 2 30 t) = true := by decide +kernel
theorem witness_CompareSelectReduce :
    goes { op := 0x110, tags := tagsAre Tag.isInt } (ops { m with mode := 2 } (p 1) (v 4) (v 5)) vints = true
    ∧ goes
        { op := 0x111, guard := .elem 1, dDst := true
          tags := fun _ o v =>
            (tagFail 1 v.a fun x => x == elemTy o v.a && x != .freed).or (tagFail 2 v.b (· == elemTy o v.a)) } vvv vints = true
    ∧ [0, 1, 2, 3, 4, 5, 6].all (fun k => goes { op := 0x114, tags := tagsAre Tag.isInt } (ops m (r 6) (v 4) (i k)) vints
      (fun _ v _ => v.a.isV && v.b.word.toNat == k)) = true
    ∧ [0, 1].all (fun k => goes { op := 0x114, tags := tagsAre Tag.isInt } (ops { m with mode := 1 } (r 6) (v 4) (i k)) vints
      (fun _ v _ => v.a.isV && v.b.word.toNat == k)) = true := by decide +kernel
theorem test_vcmp_lt : completes (.vcmp (ops { m with mode := 2 } (p 1) (v 4) (v 5))) vints
    (fun t => (t.cur.preg 1).bits.getLsbD 0 && !(t.cur.preg 1).bits.getLsbD 1 && (t.cur.preg 1).bits.getLsbD 2) = true := by decide +kernel
theorem test_vred_min : completes (.vred (ops m (r 6) (v 4) (i 1))) vints (sv 6 (-1)) = true := by decide +kernel
theorem witness_LaneInstructions :
    goes { op := 0x120, guard := .fixed 1 } (ops (ty .i8) (v 6) (r 4) .none) (withS [(4, 9)] base) = true
    ∧ goes { op := 0x121, guard := .elem 1, tags := fun _ _ v => tagFail 2 v.b fun x => x.isInt && x.width == v.a.tag.width } vvv vints = true
    ∧ goes { op := 0x122, guard := .elem 1 } (ops m (v 6) (v 4) (i 1)) vints = true
    ∧ goes { op := 0x123 } (ops m (r 6) (v 4) (i 1)) vints = true
    ∧ goes { op := 0x124, guard := .elem 0, dDst := true, tags := fun _ _ v => tagFail 0 v.d (· != .freed) } (ops m (v 6) (r 4) (i 1))
      (withS [(4, 9)] vints) = true
    ∧ [0x125, 0x126].all (fun op => goes { op := op, guard := .elem 1 } (ops m (v 6) (v 4) (p 1)) (withP [(1, 5)] vints)) = true := by
  decide +kernel
theorem test_vslide_down : completes (.vslide (ops m (v 6) (v 4) (i 1))) vints (fun t => elv 1 6 0 2 t && elv 1 6 255 0 t) = true := by
  decide +kernel
theorem test_vcompress : completes (.vcompress (ops m (v 6) (v 4) (p 1))) (withP [(1, 6)] vints)
    (fun t => elv 1 6 0 2 t && elv 1 6 1 0xFF t && elv 1 6 2 0 t) = true := by decide +kernel
theorem test_vexpand : completes (.vexpand (ops m (v 6) (v 4) (p 1))) (withP [(1, 5)] vints)
    (fun t => elv 1 6 0 1 t && elv 1 6 1 0 t && elv 1 6 2 2 t) = true := by decide +kernel
def trits : State := withV [(4, vec 1 [242, 243], .t5)] base
def vt (k : Nat) : Ops := ops m (v 6) (v 4) (i k)
theorem witness_LaneInstructions_vtrit : [0, 1, 4, 5].all (fun k =>
      goes { op := 0x127, guard := .fixed 1, tags := fun _ _ v => tagFail 1 v.a (· == .t5) } (vt k) trits
        (fun _ v _ => v.b.word.toNat == k)) = true
    ∧ goes { op := 0x127, guard := .fixed 1, tags := fun _ _ v => tagFail 1 v.a (· == .t5) } (vt 0) trits
      (fun s1 v g => g.getLsbD 5 && decide (243 ≤ v.a.vbits.toNat / 2 ^ 8 % 256) && !s1.cur.fctl.getLsbD 4) = true
    ∧ goes { op := 0x127, guard := .fixed 1, tags := fun _ _ v => tagFail 1 v.a (· == .t5) } (vt 0) (withFctl 16 trits)
      (fun s1 _ _ => s1.cur.fctl.getLsbD 4) = true := by decide +kernel
/-- 242 is five digits 2, each -1 (05 R89); the byte 243 stands for no digits (06 R125). -/
theorem test_vtrit : completes (.vtrit (vt 0)) trits
    (fun t => elv 1 6 0 255 t && elv 1 6 4 255 t && elv 1 6 5 0 t && t.cur.fstat == 0x80 && (t.cur.vreg 6).tag == .i8) = true := by
  decide +kernel
theorem test_vtrit_strict : nexts (.vtrit (vt 0)) (withFctl 16 trits) (faultIs 0x10 1 243) = true := by decide +kernel

theorem witness_RoundExact : Tag.f32 ∈ [Tag.f16, .bf16, .f32, .f64, .e4m3, .e5m2, .mxf6e2, .mxf6e3, .mxf4]
    ∧ 0x3F800000 < 2 ^ (fmtOf .f32).width ∧ decodeF (fmtOf .f32) 0x3F800000 = .fin false 0x800000 (-23) := by decide +kernel
theorem witness_RoundExact_integer : 5 % 2 ^ (2 : Nat) ≠ 0 ∧ 2 * (5 % 2 ^ 2) < 2 ^ 2 ∧ 2 ^ 2 < 2 * (7 % 2 ^ 2) ∧ 2 * (6 % 2 ^ 2) = 2 ^ 2
    ∧ 4 % 2 ^ 2 = 0 := by decide
/-- Ties go to the even neighbour, and rna away from zero (Table 5.6). -/
theorem test_round_ties : roundInt .rne false 6 (-2) = (2, true) ∧ roundInt .rna true 6 (-2) = (-2, true)
    ∧ roundInt .rne false 10 (-2) = (2, true) ∧ roundInt .rna false 10 (-2) = (3, true) := by decide
theorem witness_ElementConversion : Tag.isScalarFormat .f32 = true ∧ Tag.isScalarFormat .i32 = true ∧ Tag.isInt .f32 = false
    ∧ Tag.isInt .i32 = true ∧ decodeF (fmtOf .f32) 0x7FC00000 = .nan false ∧ decodeF (fmtOf .f32) 0xFF800000 = .inf true
    ∧ decodeF (fmtOf .f32) 0x4F000000 = .fin false 0x800000 8 ∧ imax .i32 < (roundInt .rne false 0x800000 8).1 := by decide +kernel
theorem test_convert_saturates : convert .f32 .i32 .rne 0x4F000000 = (0x7FFFFFFF, 0x01) ∧ convert .f32 .i32 .rtz 0xBFC00000 = (0xFFFFFFFF, 0x10)
    ∧ convert .i32 .f32 .rne 1 = (0x3F800000, 0) := by decide +kernel
def vf : State := withV [(4, vec 4 [0x3F800000, 0x40000000], .f32), (5, vec 4 [0x3F800000, 0x40400000], .f32), (6, 0, .f32)] base
def vcvtSpec (t : Tag) : Spec :=
  { op := 0x140, guard := .elem 1, tags := fun _ _ v => tagFail 1 v.a fun x => x.isScalarFormat && x != t && x.width == t.width }
def scales : State := withV [(8, 0, .mxf4), (9, 0, .raw)] base
theorem witness_ConversionInstructions :
    goes (vcvtSpec .i32) (ops (ty .i32) (v 6) (v 4) .none) vf (fun s1 _ _ => !s1.badRm (ops (ty .i32) (v 6) (v 4) .none)) = true
    ∧ goes (vcvtSpec .i32) (ops (ty .i32) (v 6) (v 4) .none) (withFctl 5 vf) (fun s1 _ _ => decide (5 ≤ s1.cur.fctl.toNat % 8)) = true
    ∧ [0, 1, 2].all (fun k => goes { op := 0x142, guard := .elem 1, tags := fun _ _ v => tagFail 1 v.a fun x => widens x .f64 }
      (ops (ty .f64) (v 6) (v 4) (i k)) vf (fun _ v _ => v.b.word.toNat == k)) = true
    ∧ goes { op := 0x144, guard := .fixed 4 } (ops (ty .i32) (v 6) (v 4) .none) vf = true
    ∧ goes
        { op := 0x143, guard := .fixed 4, vwrites := fun _ => [13, 14, 15]
          tags := fun _ _ v => (tagFail 1 v.a fun x => x.isMx || x.isLb).or (tagFail 2 v.b (· == .raw)) }
        (ops (ty .f32) (v 12) (v 8) (v 9)) scales = true
    ∧ [0, 1, 2].all (fun k => goes
        { op := 0x141, guard := .elem 1
          tags := fun _ _ v => tagFail 1 v.a fun x => x.isScalarFormat && (x.width == 2 * 2 || x.width == 4 * 2 || x.width == 8 * 2) }
        (ops (ty .bf16) (v 6) (v 4) (i k)) vf (fun s1 w _ => w.b.word.toNat == k && !s1.badRm (ops (ty .bf16) (v 6) (v 4) (i k)))) = true := by
  decide +kernel
/-- bf16 of 1.0 is 0x3F80; part 1 fills the upper half, the rest stays (05 R101). -/
theorem test_vpack_part : completes (.vpack (ops { ty .bf16 with mode := 1 } (v 6) (v 4) (i 1))) vf
    (fun t => elv 2 6 64 0x3F80 t && elv 2 6 65 0x4000 t && elv 2 6 0 0 t && (t.cur.vreg 6).tag == .bf16) = true := by decide +kernel
theorem test_vunpk : completes (.vunpk (ops (ty .f64) (v 6) (v 4) (i 0))) vf (elv 8 6 1 0x4000000000000000) = true := by decide +kernel
def blocks : State := withV [(4, vec 4 [0x3F800000, 0x3F000000], .f32), (5, 0, .f32), (6, 0, .f32), (7, 0, .f32)] base
def mx : Ops := ops (ty .mxf4) (v 8) (v 4) .none
theorem witness_BlockEncoding : Tag.isMx .mxf4 = true ∧ goes
        { op := 0x141, guard := .fixed 1, vreads := fun _ => [(1, 5), (1, 6), (1, 7)], vwrites := fun _ => [9]
          tags := fun s _ _ => ([4, 5, 6, 7].find? fun n => (s.cur.vreg n).tag != .f32).map fun n => (1, (s.cur.vreg n).tag) }
        mx blocks (fun s1 _ _ => !s1.badRm mx) = true
    ∧ (∀ p ∈ [((FV.fin false 1 0), RMode.rne)], ∀ n m e, p.1 = .fin n m e → m ≠ 0 → e + m.log2 ≤ 0) ∧ mxEmax .mxf4 ≤ 127 := by
  refine ⟨by decide +kernel, by decide +kernel, ?_, by decide⟩
  simp; rfl
/-- The largest is 1.0, so the scale is 127 - 2 and 1.0 is 4.0 in fp4 code 6 (05 R102). -/
theorem test_vpack_block : completes (.vpack mx) blocks (fun t => elv 1 9 0 125 t && elv 1 8 0 0x46 t) = true := by decide +kernel
theorem witness_VectorFloat : [0x180, 0x181, 0x182, 0x188, 0x189, 0x18A, 0x18B, 0x18C, 0x18D, 0x184, 0x185, 0x186, 0x187, 0x190].all
      (fun op => goes { op := op, guard := .elem 1, tags := tagsAre Tag.isFloat } vvv vf (fun s1 _ _ => !s1.badRm vvv)) = true
    ∧ [0x180, 0x18D].all (fun op => goes { op := op, guard := .elem 1, tags := tagsAre Tag.isFloat } vvv (withFctl 7 vf)
      (fun s1 _ _ => s1.badRm vvv)) = true
    ∧ goes { op := 0x183, guard := .elem 1, dDst := true, tags := tagsAre Tag.isFloat } vvv vf (fun s1 _ _ => !s1.badRm vvv) = true := by
  decide +kernel
theorem test_vffma : completes (.vffma vvv) (withV [(6, vec 4 [0x3F800000, 0x3F800000], .f32)] vf)
    (fun t => elv 4 6 0 0x40000000 t && elv 4 6 1 0x40E00000 t) = true := by decide +kernel
/-- 1/3 to nearest even, inexact. -/
theorem test_fdiv : fDiv fmtF32 .rne (.fin false 1 0) (.fin false 3 0) = (0x3EAAAAAB, 0x10) := by decide +kernel
theorem test_fsqrt : fSqrt fmtF32 .rne (.fin false 2 0) = (0x3FB504F3, 0x10) := by decide +kernel
/-- 2^0.5 is the square root of 2, and log2 of 8 is 3 exactly. -/
theorem test_fexp2 : fExp2 fmtF32 .rne (.fin false 1 (-1)) = (0x3FB504F3, 0x10) ∧ fLog2 fmtF32 .rne (.fin false 8 0) = (0x40400000, 0) := by
  decide +kernel
/-- 6/3 is exact, 1/3 lies between two units of a significand with bits to spare; so do the roots of 4 and of 2. -/
theorem witness_FloatSums_quotients : 2 ^ (fmtF32.fbits + 2) ≤ 2 ^ 27 ∧ 2 ^ 27 * 3 = 6 * 2 ^ 26
    ∧ fDiv fmtF32 .rne (.fin false 6 0) (.fin true 3 0) = roundFin fmtF32 false .rne true (2 ^ 27) (-26)
    ∧ 2 ^ (fmtF32.fbits + 2) ≤ 357913941 ∧ 357913941 * 3 < 2 ^ 30 ∧ 2 ^ 30 < 357913942 * 3
    ∧ fDiv fmtF32 .rne (.fin false 1 0) (.fin false 3 0) = roundF fmtF32 false .rne false 357913941 (-30) true
    ∧ fSqrt fmtF32 .rne (.fin false 4 0) = roundFin fmtF32 false .rne false (2 ^ 27) (-26)
    ∧ 1518500249 ^ 2 < 2 * 2 ^ 60 ∧ 2 * 2 ^ 60 < 1518500250 ^ 2
    ∧ fSqrt fmtF32 .rne (.fin false 2 0) = roundF fmtF32 false .rne false 1518500249 (-30) true
    ∧ fRcp fmtF32 .rne (.fin false 3 0) = roundF fmtF32 false .rne false 357913941 (-30) true
    ∧ fRsq fmtF32 .rne (.fin false 4 0) = roundFin fmtF32 false .rne false (2 ^ 26) (-27)
    ∧ fExp2 fmtF32 .rne (.fin true 3 0) = roundFin fmtF32 false .rne false 1 (-3) := by decide +kernel
theorem witness_BlockEncoding_kept : (∃ j, j < 8 ∧ ∀ i, i < 32 → active (1 : PBits) 1 (32 * j + i) = false)
    ∧ (max (-127 : Int) (min 127 (200 - 8)) = 127) ∧ ((List.range 32).map fun q => (FV.fin false q 0, RMode.rne)).length = 32 := by
  refine ⟨⟨1, by decide, by decide +kernel⟩, by decide, by decide⟩
theorem witness_FloatCorners : (1 : Nat) ≠ 0 ∧ FV.isNan (.nan true) = true := by decide
theorem test_subnormal_underflow : fMul fmtF32 .rne (.fin false 1 (-149)) (.fin false 1 (-1)) = (0, 0x18) := by decide +kernel
theorem witness_FloatClasses : FFmt.flush fmtF32 = false ∧ FV.isNan (decodeF fmtF32 0x7FC00000) = true ∧ FV.isNan (decodeF fmtF32 0) = false
    ∧ fCompare (decodeF fmtF32 0xBF800000) (decodeF fmtF32 0x3F800000) = .lt ∧ decodeF fmtF32 0x80000000 = .fin true 0 (-149)
    ∧ Tag.isFloat .f32 = true := by decide +kernel
theorem witness_FloatCompareReduce :
    goes { op := 0x18E, tags := tagsAre Tag.isFloat } (ops { m with mode := 2 } (p 1) (v 4) (v 5)) vf = true
    ∧ [0x18F, 0x191].all (fun op => [0, 1, 2, 3].all fun k => goes { op := op, tags := tagsAre Tag.isFloat } (ops m (r 6) (v 4) (i k)) vf
      (fun s1 w _ => w.b.word.toNat == k && !s1.badRm (ops m (r 6) (v 4) (i k)))) = true
    ∧ [0x18F, 0x191].all (fun op => goes { op := op, tags := tagsAre Tag.isFloat } (ops { m with mode := 2 } (r 6) (v 4) (i 1)) vf) = true
    ∧ [0x18F, 0x191].all (fun op => goes { op := op, tags := tagsAre Tag.isFloat } (ops m (r 6) (v 4) (i 0)) (withFctl 5 vf)
      (fun s1 _ _ => s1.badRm (ops m (r 6) (v 4) (i 0)))) = true := by decide +kernel
theorem test_vfred_sum : completes (.vfred (ops m (r 6) (v 4) (i 0))) vf (sv 6 0x40400000) = true := by decide +kernel
theorem test_vfcmp_nan : completes (.vfcmp (ops { m with mode := 2 } (p 1) (v 4) (v 5))) (withV [(5, vec 4 [0x7FC00000], .f32)] vf)
    (fun t => !(t.cur.preg 1).bits.getLsbD 0 && t.cur.fstat == 0x01) = true := by decide +kernel

/-! Matrix instructions. -/

def t (n : Fin 24) : Operand := .tile n
/-- Every slot is claimed by the firing of `base`; every tile of C holds f32. -/
def mat (l : List (Nat × Tag)) (s : State) : State := s.modCurC fun c => { c with
  banks := (List.range 16).map fun n => (n, { tag := ((l.find? fun e => e.1 == n).map Prod.snd).getD .raw, claim := base.curF.holder })
  tiles := (List.range 8).map fun n => (n, { tag := .f32 }) }
def matA : State := mat [(0, .bf16), (8, .bf16), (9, .bf16), (1, .t5), (2, .mxf4)] (withS [(4, 64), (5, 0)] base)
def enqueues (op : MatKind) (s1 : State) : Bool :=
  decide (s1.curC.mq.length < 16) && !s1.curC.heldNamed op && !s1.acqPending
def joint : State :=
  let s := matA
  { s with cores := s.cores ++ ((List.range 63).map fun n => (n + 1, { cap := some 1 })) }
theorem witness_MatrixIssue_claims :
    goes { op := 0x200 } (ops m (t 3) .none .none) matA (fun s1 _ _ => (s1.curC.bank 3).claim == s1.curF.holder) = true
    ∧ goes { op := 0x200 } (ops m (t 3) .none .none) base
      (fun s1 _ _ => (s1.curC.bank 3).claim == .free && (s1.curC.bank 3).claim != s1.curF.holder) = true
    ∧ goes { op := 0x200 } (ops m (t 3) .none .none) (base.modCurC fun c => c.setBank 3 { claim := .actor 9 })
      (fun s1 _ _ => (s1.curC.bank 3).claim != .free && (s1.curC.bank 3).claim != s1.curF.holder) = true
    ∧ goes { op := 0x201 } (ops m (t 3) .none .none) matA (fun s1 _ _ => (s1.curC.bank 3).claim == s1.curF.holder) = true
    ∧ goes { op := 0x201 } (ops m (t 3) .none .none) base (fun s1 _ _ => (s1.curC.bank 3).claim != s1.curF.holder) = true := by
  decide +kernel
theorem witness_MatrixIssue_moves :
    goes { op := 0x202 } (ops (ty .i8) (t 3) (r 4) (i 64)) matA
      (fun s1 v _ => decide (checkL (v.a.word.toInt + v.b.word.toInt) 16384 64 = none) && enqueues (.tfill 3 128 .i8) s1) = true
    ∧ goes { op := 0x202 } (ops (ty .i8) (t 3) (r 4) (i 64)) (withS [(4, 64)] base)
      (fun s1 _ _ => (s1.curC.bank 3).claim != s1.curF.holder) = true
    ∧ [3, 16].all (fun b => goes { op := 0x203, tiles := fun o => [(2, o.b.num)] } (ops m (r 4) (i 64) (t (Fin.ofNat 24 b))) matA
      (fun s1 _ _ => enqueues (.tdrain b 128) s1 && decide (checkL 128 65536 64 = none))) = true
    ∧ goes { op := 0x20C, tiles := fun o => [(0, o.d.num)], tags := fun s o _ => tileTag s.curC 0 o.d.num Tag.isMx }
      (ops m (t 2) (r 4) (i 0)) matA (fun s1 _ _ => enqueues (.tscale 2 64) s1 && decide (checkL 64 512 64 = none)) = true
    ∧ [16, 23].all (fun d => goes { op := 0x204 } (ops m (t (Fin.ofNat 24 d)) .none .none) matA (fun s1 _ _ => enqueues (.tzero d) s1)) = true
    ∧ goes
        { op := 0x209, tiles := fun o => [(1, o.a.num)]
          tags := fun s o _ =>
            if o.mods.ty.isSome ∧ o.d.num < 16 ∧ 16 ≤ o.a.num then tileTag s.curC 1 o.a.num (· == .f32) else none }
        (ops m (t 3) (t 0) .none) matA (fun s1 _ _ => enqueues (.tmov 3 0) s1) = true
    ∧ goes
        { op := 0x209, tiles := fun o => [(1, o.a.num)]
          tags := fun s o _ =>
            if o.mods.ty.isSome ∧ o.d.num < 16 ∧ 16 ≤ o.a.num then tileTag s.curC 1 o.a.num (· == .f32) else none }
        (ops (ty .bf16) (t 3) (t 16) (i 1)) matA
        (fun s1 v _ => decide (v.b.word.toNat < 2) && !s1.badRm (ops (ty .bf16) (t 3) (t 16) (i 1)) && enqueues (.tnarrow 3 16 1 .bf16 1) s1) = true
    ∧ goes
        { op := 0x20A, tiles := fun o => [(1, o.a.num)]
          tags := fun s o _ => if o.d.num < 16 ∧ o.a.num < 16 then tileTag s.curC 1 o.a.num ttrTag else none } (ops m (t 17) (t 16) .none) matA
        (fun s1 _ _ => enqueues (.ttr 17 16) s1) = true
    ∧ [0, 4].all (fun k => goes { op := 0x20B, tiles := fun o => [(1, o.a.num)] } (ops m (t 3) (t 1) (i k)) matA
        (fun s1 v _ => s1.curC.issueTag 1 == .t5 && v.b.word.toNat == k && enqueues (.ttrit 3 1 k) s1)) = true := by decide +kernel
theorem witness_MatrixIssue_products :
    goes
        { op := 0x205, tiles := fun o => [(0, o.d.num), (1, o.a.num), (2, o.b.num)]
          tags := fun s o _ => mmaTags s.curC o.d.num o.a.num o.b.num } (ops m (t 16) (t 0) (t 8)) matA
        (fun s1 _ _ => enqueues (.mma 16 0 8) s1) = true
    ∧ goes
        { op := 0x206
          tiles := fun o => ctiles.map (fun n => (0, n)) ++ [(1, o.a.num), (2, o.b.num), (2, o.b.num + 1)] }
        (ops m (t 16) (t 0) (t 8)) joint
        (fun s1 _ _ => (squareCores s1.curCore).all (fun e => (s1.core e).cap == some s1.curF.cap)
          && (List.range 8).all (fun n => s1.curC.issueTag (16 + n) == .f32) && (mmaRow (s1.curC.issueTag 0)).isSome
          && mmaRow (s1.curC.issueTag 8) == mmaRow (s1.curC.issueTag 0) && s1.curC.issueTag 9 == s1.curC.issueTag 8
          && enqueues (.mmaj 0 8 (s1.curC.jointSeq + 1)) s1) = true := by decide +kernel
/-- The four cores of square 0, each with its part of joint operation 1; in `differing` core 3 had another type in its A slot as its part issued. -/
def jpart (n : Nat) : Core := { banks := [(0, { tag := .bf16, claim := .actor 0, count := 1 }), (8, { tag := .bf16, count := 1 }), (9, { tag := .bf16, count := 1 })]
                                mq := [{ id := 7 + n, fir := 1, op := .mmaj 0 8 1, opcode := 0x206, wtag := .f32, strict := false, atag := .bf16, btag := .bf16 }], jointSeq := 1 }
def formed : State := { base with cores := (List.range 4).map fun n => (n, jpart n) }
def differing : State := formed.modCore 3 fun c => { c with mq := c.mq.map fun o => { o with atag := .i8 } }
theorem witness_MatrixIssue_joint : base.jointParts 0 1 = none
    ∧ (formed.jointParts 0 1).any (fun ps => ps.length == 4
      && ps.all fun p => p.op.atag == .bf16 && p.op.btag == .bf16) = true
    ∧ (differing.jointParts 0 1).any (fun ps => ps.any fun p => ps.any fun q => p.op.atag != q.op.atag) = true := by
  decide +kernel
/-- 07 R158: the four A tags differ, so each of the four cores defers Format-tag of field 1 and the parts are gone. -/
theorem test_joint_types_differ : [0, 1, 2, 3].all (fun e => let c := (differing.formJoint 0 1).core e
    c.mq.isEmpty && (c.bank 0).count == 0 && c.deferred.map (fun d => (d.code, d.info0, d.opcode)) == [(0x05, 1, 0x206)]) = true := by
  decide +kernel
/-- The tile's tag is f32 from issue on (07 R141), and the reads of both slots are counted (R139). -/
theorem test_mma_counts : completes (.mma (ops m (t 16) (t 0) (t 8))) matA
    (fun s => (s.curC.bank 0).count == 1 && (s.curC.bank 8).count == 1 && s.curC.mq.length == 1) = true := by decide +kernel
def matOp (k : MatKind) (tag : Tag) (started : Bool) : MatOp :=
  { id := 7, fir := 1, op := k, opcode := 0x204, wtag := tag, strict := false, started := started }
def queued (l : List MatOp) : State := matA.modCurC fun c => { c with mq := l }
def twoDeferred : List Deferred := [⟨3, 0, 0, [17], 0⟩, ⟨3, 0, 0, [16], 0⟩]
def awaiting (y : Option Nat) (s : State) : State := s.modCur fun x => { x with wait := .mwait [7] y }
theorem witness_MatrixStatusAndCommands_waits :
    ((awaiting none (queued [matOp (.tzero 16) .f32 true])).slot 0 0).wait = .mwait [7] none
    ∧ ((awaiting none (queued [matOp (.tzero 16) .f32 true])).core 0).mq.any (fun o => [7].contains o.id) = true
    ∧ ((awaiting none matA).slot 0 0).wait = .mwait [7] none ∧ ((awaiting none matA).core 0).mq = [] ∧ ((awaiting none matA).core 0).deferred = []
    ∧ ((awaiting (some 16) (matA.modCurC fun c => { c with deferred := twoDeferred })).core 0).deferred
      = [⟨3, 0, 0, [17], 0⟩] ++ ⟨3, 0, 0, [16], 0⟩ :: [] := by decide +kernel
/-- 07 R162: the wait that ends with a deferred fault of its tile traps with it; the other stays. -/
theorem test_mwait_takes_deferred : (let u := (awaiting (some 16) (matA.modCurC fun c => { c with deferred := twoDeferred })).mwaitTest 0 0
    u.curC.deferred == [⟨3, 0, 0, [17], 0⟩] && (u.cap 1).records.map FaultRec.code == [3]) = true := by decide +kernel
/-- 07 R137: a slot that the firing has not claimed. -/
theorem test_mwait_unclaimed : nexts (.mwait (ops m (t 3) .none .none)) base (faultIs 0x0E 3 0) = true := by decide +kernel
theorem witness_MatrixStatusAndCommands :
    goes { op := 0x20D } (ops m (r 6) (t 3) .none) matA = true
    ∧ [0, 1, 2].all (fun k => goes { op := 0x20D } (ops m (r 6) (i k) .none) matA (fun _ v _ => v.a.word.toNat == k)) = true
    ∧ goes { op := 0x20E } (ops m .none .none .none) matA (fun s1 _ _ => s1.curC.mq.isEmpty && s1.curC.deferred.isEmpty) = true
    ∧ goes { op := 0x20E } (ops m (t 3) .none .none) matA (fun s1 _ _ => (s1.curC.bank 3).claim == s1.curF.holder && s1.curC.mq.isEmpty) = true
    ∧ goes { op := 0x20E } (ops m (t 16) .none .none) (queued [matOp (.tzero 16) .f32 true])
      (fun s1 _ _ => s1.curC.mq.any fun o => o.op.names.contains 16) = true
    ∧ goes { op := 0x20E } (ops m (t 16) .none .none) (matA.modCurC fun c => { c with deferred := twoDeferred })
      (fun s1 _ _ => s1.curC.mq.isEmpty && s1.curC.deferred == [⟨3, 0, 0, [17], 0⟩] ++ ⟨3, 0, 0, [16], 0⟩ :: []) = true
    ∧ goes { op := 0x20E } (ops m (t 3) .none .none) base (fun s1 _ _ => (s1.curC.bank 3).claim != s1.curF.holder) = true
    ∧ goes { op := 0x208 } (ops m (r 6) (r 4) (i 0)) matA (fun s1 v _ => v.b.word == 0 && s1.curC.captab.isEmpty) = true
    ∧ goes { op := 0x208 } (ops m (r 6) (r 4) (i 0))
      (matA.modCurC fun c => { c with captab := (List.range 16).map fun n => (n, { gen := n + 1, mask := 1, cap := 1, live := true }) })
      (fun s1 _ _ => (List.range 16).all fun n => ((s1.curC.captab.find n).map CapEnt.live).getD false) = true
    ∧ goes { op := 0x208 } (ops m (r 6) (r 4) (i 1)) matA (fun s1 v _ => (s1.curC.liveCap s1.curCore v.a.word).isNone) = true
    ∧ goes { op := 0x208 } (ops m (r 6) (r 4) (i 1))
      (withS [(4, 0x1000001)] (matA.modCurC fun c => { c with captab := [(0, { gen := 1, mask := 1, cap := 1, live := true })] }))
      (fun s1 v _ => (s1.curC.liveCap s1.curCore v.a.word).isSome) = true
    ∧ goes { op := 0x207 } (ops m (r 4) (r 5) .none) matA
      (fun s1 _ _ => decide (s1.commandsOut s1.curF.id < 8) && !s1.acqPending) = true := by decide +kernel
theorem test_mcap_mint_and_revoke : completes (.mcapMint (ops m (r 6) (r 4) (i 0))) (withS [(4, 1)] matA) (sv 6 0x1000001) = true
    ∧ completes (.mcapRevoke (ops m (r 6) (r 4) (i 1)))
      (withS [(4, 0x1000001)] (matA.modCurC fun c => { c with captab := [(0, { gen := 1, mask := 1, cap := 1, live := true })] })) (sv 6 1) = true := by
  decide +kernel
def commanded : State := matA.modCurC fun c => { c with
  cmdIn := [{ seq := 60, cap := 1, fir := 1, handle := 0, word := 0, stamp := 0 }] }
theorem witness_MatrixStatusAndCommands_accept : (commanded.nextCommand 0).map CmdInfo.seq = some 60 ∧ (commanded.core 0).mq.length < 16
    ∧ (commanded.held.filter fun h => h.src == .matrix 0).length < 8
    ∧ (match (commanded.core 0).command 0 { seq := 60, cap := 1, fir := 1, handle := 0, word := 0, stamp := 0 } with | .error e => e == 0x0E | _ => false) = true
    ∧ (commanded.core 0).liveCap 0 0 = none := by decide +kernel
theorem witness_MatrixResults :
    (((queued [matOp (.tzero 16) .f32 false]).core 0).mq[0]?).isSome = true ∧ (matOp (.tzero 16) .f32 false).started = false
    ∧ (matOp (.tzero 16) .f32 true).started = true ∧ (matOp (.tzero 16) .f32 true).cmd = none
    ∧ (matOp (.tzero 16) .f32 true).op.srcs = []
    ∧ Tag.isMx .i8 = false
    ∧ (((queued []).modCurC fun c => { c with tiles := [(1, { tag := .poison })] }).core 0).doneTag 17 = .poison
    ∧ (matOp (.tmov 16 17) .f32 true).op.srcs = [17] := by decide +kernel
def settledOps : List MatKind := [.tdrain 3 0, .tdrain 16 0, .tfill 3 0 .i8, .tfill 2 0 .mxf4, .tscale 2 0, .tzero 16, .tmov 16 17, .tmov 3 4
  , .tnarrow 3 16 1 .bf16 1, .ttr 16 17, .ttr 3 4, .ttrit 3 1 0, .mma 16 0 8, .mma 16 1 1]
/-- A t5 operand that begins with the byte 243, which stands for no digits. -/
def badTrits : State := matA.modCurC fun c => c.setBank 1 { c.bank 1 with data := 243 }
def heldOver : State := matA.modCurC fun c => { c with held := [{ id := 60, slot := 3, data := 5, side := 0, tag := .i8, src := .porter 0 0 }] }
theorem witness_MatrixResults_ops :
    settledOps.all (fun k => let o := matOp k .f32 true
      o.started && o.cmd.isNone && k.srcs.all fun x => (matA.core 0).doneTag x != .poison) = true
    ∧ Tag.isMx .mxf4 = true ∧ Tag.bf16 ≠ .poison ∧ ((matA.core 0).bank 1).tag = .t5
    ∧ ((badTrits.core 0).bank 1).byte 0 = 243 ∧ ((badTrits.core 0).bank 1).tag = .t5 ∧ (badTrits.core 0).doneTag 1 ≠ .poison
    ∧ (heldOver.core 0).held.length = 1 ∧ ((heldOver.core 0).bank 3).count = 0 := by decide +kernel
theorem witness_MatrixResults_legal (i : Nat) : ((matA.core 0).bank 1).byte i = 0 := by
  have h : ((matA.core 0).bank 1).data.toNat = 0 := by decide +kernel
  rw [Bank.byte, h]; simp [bits]
theorem witness_MatrixResults_sums : [FV.fin false 1 0, .fin true 3 1] ≠ [] ∧ [FV.fin false 1 0, .fin true 3 1].all (fun p => !p.isNan) = true
    ∧ [FV.nan true, .inf true].any FV.isNan = true ∧ FV.inf true ∈ [FV.inf true, .inf false] ∧ FV.inf false ∈ [FV.inf true, .inf false]
    ∧ [FV.inf true, .inf false].all (fun p => !p.isNan) = true ∧ FV.inf (!true) ∉ [FV.inf true, .fin false 1 0] := by decide +kernel
/-- 07 R155: 2^24 + 1 - 2^24 in one block is 1, exact before the one rounding. -/
theorem test_block_sum_exact : blockSum [.fin false 1 24, .fin false 1 0, .fin true 1 24] = (0x3F800000, 0) := by decide +kernel
/-- 07 R151: tmov of a slot takes its bytes and tag and keeps the destination's claim. -/
theorem test_tmov_slot : nexts (.matrixOpFinish 0 0) ((queued [matOp (.tmov 3 0) .bf16 true]).modCurC fun c => c.setBank 0 { c.bank 0 with data := 9 })
    (fun s => (s.curC.bank 3).data == 9 && (s.curC.bank 3).tag == .bf16 && (s.curC.bank 3).claim == base.curF.holder) = true := by decide +kernel
theorem test_tzero_finishes : nexts (.matrixOpFinish 0 0)
    ((queued [matOp (.tzero 16) .f32 true]).modCurC fun c => { c with tiles := [(0, { data := 5, tag := .f32 })] })
    (fun s => (s.curC.tile 0).data == 0 && s.curC.mq.isEmpty) = true := by decide +kernel
/-- Row 0 of A is (1.0, 2.0), row 0 of W is (3.0, 4.0): 1·3 + 2·4 on top of 0.5 (07 R147). -/
theorem test_mma_element : (mmaElem 64 [.fin false 1 0, .fin false 2 0] [.fin false 3 0, .fin false 4 0] 0x3F000000).1 = 0x41380000 := by
  decide +kernel

/-! Memory. -/

def ptr (x off : Nat) : Word := BitVec.ofNat 64 (x * 2 ^ 58 + off)
def cmem : Mem := [(3, 1), (5, 2)]
theorem witness_MemoryLaws : cmem.wf = true ∧ Mem.wf [] = true := by decide
theorem test_write_keeps_form : cmem.write 4 [9, 0] = [(3, 1), (4, 9)] ∧ Mem.read [(3, 1), (4, 9)] 2 4 = [0, 1, 9, 0] := by decide
/-- Extents beside those of `base`: growing and not, of chip 1 with and without E, a window, host memory. -/
def moreExtents : AMap Extent := placedExtents ++
  [(4, { base := 0x40000, home := 0, length := 8192, comm := 4096, attr := 0x063, owner := 0 }),
   (5, { base := 0x50000, home := 0, length := 8192, comm := 4096, attr := 0x043, owner := 0 }),
   (6, { base := 0x60000, home := 1, length := 4096, comm := 4096, attr := 0x05B, owner := 0 }),
   (7, { base := 0x70000, home := 1, length := 4096, comm := 4096, attr := 0x04B, owner := 0 }),
   (8, { base := 0x80000, home := 0, length := 4096, comm := 4096, attr := 0x44B, owner := 0 }),
   (9, { base := 0x90000, home := 0, length := 4096, comm := 4096, attr := 0x00B, owner := 0 }),
   (10, { base := 2 ^ 51 + 0x1000, home := 0, length := 4096, comm := 4096, attr := 0x04B, owner := 0 })]
def more : State := (base.modCap 1 fun c => { c with extents := moreExtents }).modChip 0 fun h => { h with
  config := some { resetConfig with tags := [{ tag := 0, key := 0, reserve := 2 ^ 24 }] } }
/-- The same with chip 1 a member of the pod and reachable. -/
def pod2 : State := { more with chips := [0, 1].map fun n => (n, { resetChip with
  config := some { resetConfig with chip := n, members := 3 } }) }
def isOk : Chk → Bool
  | .ok _ _ => true
  | _ => false
def failsWith (code : Nat) : Chk → Bool
  | .fail f => f.code == code
  | _ => false
def grows : Chk → Bool
  | .grow _ _ => true
  | _ => false
theorem witness_AccessChecks : let c := more.cap 1
    isOk (checkAccess c 0 2 0 8 8 permR) = true ∧ isOk (checkAccess c 0 2 4088 8 8 permR) = true
    ∧ failsWith 0x08 (checkAccess c 0 11 0 8 8 permR) = true ∧ failsWith 0x07 (checkAccess c 0 0 0 8 8 permR) = false
    ∧ failsWith 0x07 (checkAccess c 0 0 0 8 8 permW) = true ∧ failsWith 0x07 (checkAccess c 0 7 0 8 8 permR) = true
    ∧ failsWith 0x0D (checkAccess c 0 2 4 8 8 permR) = true ∧ failsWith 0x06 (checkAccess c 0 2 4096 8 8 permR) = true
    ∧ failsWith 0x06 (checkAccess c 0 2 (-8) 8 8 permR) = true ∧ grows (checkAccess c 0 4 4096 8 8 permR) = true
    ∧ failsWith 0x06 (checkAccess c 0 5 4096 8 8 permR) = true ∧ isOk (checkAccess c 0 5 4088 8 8 permR) = true
    ∧ isOk (checkAccess c 0 6 0 8 8 permR) = true ∧ isOk (checkAccess c 0 10 0 8 8 permR) = true
    ∧ isOk (checkAccess c 3 1 0 8 8 permR) = true ∧ (0 : Nat) < 8 := by decide +kernel
/-- A load and a store each of whose checks pass, with its slot not waiting. -/
def chkOf (s1 : State) (p : Word) (ea : Int) (n a need : Nat) : Chk := checkAccess s1.curCap s1.curSlot (ptrSlot p) ea n a need
def passes (s1 : State) (p : Word) (off : Int) (n a need : Nat) : Bool :=
  match chkOf s1 p (ptrOff p + off) n a need with
  | .ok _ e => !(remoteHome s1.curCore e.homeKey && s1.remoteFull)
  | _ => false
def at4 (x off : Nat) (s : State) : State := withS [(4, ptr x off), (5, 8), (7, 3)] s
def lanes (w lo hi : Nat) (g : PBits) : Bool :=
  active g w lo && active g w hi && decide (lo < 256 / w) && decide (hi < 256 / w)
    && (List.range (256 / w)).all fun i => !active g w i || (decide (lo ≤ i) && decide (i ≤ hi))
theorem witness_LoadsAndStoresIssue_scalar :
    goes { op := 0x240 } rrr (at4 2 0 more) (fun s1 v _ => passes s1 v.a.word v.b.word.toInt 8 8 permR) = true
    ∧ goes { op := 0x240 } rrr (at4 6 0 pod2) (fun s1 v _ => passes s1 v.a.word v.b.word.toInt 8 8 permR
      && remoteHome s1.curCore 1 && !s1.remoteFull) = true
    ∧ goes { op := 0x240 } rrr (at4 2 4096 more) (fun s1 v _ => failsWith 0x06 (chkOf s1 v.a.word (ptrOff v.a.word + v.b.word.toInt) 8 8 permR)) = true
    ∧ goes { op := 0x240 } rrr (at4 4 4096 more) (fun s1 v _ => grows (chkOf s1 v.a.word (ptrOff v.a.word + v.b.word.toInt) 8 8 permR)) = true
    ∧ goes { op := 0x241 } (ops m (r 4) (i 8) (r 5)) (at4 2 0 more) (fun s1 v _ => passes s1 v.d.word v.a.word.toInt 8 8 permW) = true := by
  decide +kernel
def pEnd : State := withP [(1, (1 <<< 0) ||| (1 <<< 255))] (withV [(2, 0, .i32)] (at4 2 0 more))
def guarded (o : Ops) : Ops := { o with hdr := { plainHdr with guard := 1 } }
theorem witness_LoadsAndStoresIssue_vector :
    goes { op := 0x244, guard := .fixed 4 } (ops (ty .i32) (v 3) (r 4) (i 0)) (at4 2 0 more)
      (fun s1 v g => lanes 4 0 63 g && passes s1 v.a.word 0 256 4 permR) = true
    ∧ goes { op := 0x244, guard := .fixed 4 } (guarded (ops (ty .i32) (v 3) (r 4) (i 0))) (withP [(1, 1 <<< 8)] (at4 2 0 more))
      (fun s1 v g => lanes 4 2 2 g && passes s1 v.a.word 8 4 4 permR) = true
    ∧ goes { op := 0x245, guard := .elem 2, tags := fun _ o v => stvTag o v } (ops m (r 4) (i 0) (v 2)) pEnd
      (fun s1 v g => v.b.tag == .i32 && lanes 4 0 63 g && passes s1 v.d.word 0 256 4 permW) = true := by decide +kernel
/-- Slot 0 waits for growth of an extent. -/
def growing (x : Nat) (upto : Int) (s : State) : State := s.modSlot 0 0 fun k => { k with wait := .growth x upto ⟨0x06, 0, 8⟩ }
theorem witness_LoadsAndStoresIssue_growth :
    let s := growing 4 4104 more
    (s.slot 0 0).firing = some s.curF ∧ (s.slot 0 0).wait = .growth 4 4104 ⟨0x06, 0, 8⟩ ∧ (s.chip (chipOf 0)).frozen = false
    ∧ s.curF.unknown = [] ∧ s.curF.trap = none ∧ (s.growExtent 1 4 4104).2 = true
    ∧ ((growing 4 8200 more).growExtent 1 4 8200).2 = false := by decide +kernel
/-- 04 R67: growth that is not backed ends in the fault of the access, and the step that was backed stays. -/
theorem test_growth_denied : nexts (.stackGrowth 0 0) (growing 4 8200 more) (fun t => faultIs 0x06 0 8 t
    && ((t.cap 1).extents.find 4).map Extent.comm == some 8192) = true := by decide +kernel
/-- Growth commits 64 KiB at a time, at most the length (17 R331). -/
theorem test_growth_commits : ((((more.growExtent 1 4 4104).1.cap 1).extents.find 4).map Extent.comm) = some 8192 := by decide +kernel
theorem test_ld_pends : completes (.ld rrr) (at4 2 0 more) (fun t => t.iq.length == 1 && ((t.cur.sreg 6).pend).isSome) = true := by decide +kernel
theorem test_st_bound_faults : nexts (.st (ops m (r 4) (i 4096) (r 5))) (at4 2 0 more) (faultIs 0x06 (ptr 2 4096) 8) = true := by decide +kernel
theorem test_ld_growth_waits : nexts (.ld rrr) (at4 4 4096 more) (fun t => t.cur.wait == .growth 4 4112 ⟨0x06, ptr 4 4104, 8⟩) = true := by decide +kernel
def lfree (s1 : State) (ea : Int) (n : Nat) (store : Bool) : Bool :=
  !s1.curC.matWritesL ea.toNat n && !(store && s1.curC.matReadsL ea.toNat n)
def busyL : State := matA.modCurC fun c => { c with mq := [matOp (.tdrain 16 64) .f32 true] }
theorem witness_LocalStoreAccess :
    goes { op := 0x242 } (ops m (r 6) (r 4) (i 0)) (withS [(4, 64)] base) (fun s1 v _ =>
      checkL (v.a.word.toInt + v.b.word.toInt) 8 8 == none && lfree s1 64 8 false && !lpoisonHit s1.curC.lpoison 64 8) = true
    ∧ goes { op := 0x242 } (ops m (r 6) (r 4) (i 0)) (withS [(4, 64)] (base.modCurC fun c => { c with lpoison := lpoisonSet [] 64 8 true }))
      (fun s1 _ _ => lpoisonHit s1.curC.lpoison 64 8) = true
    ∧ goes { op := 0x242 } (ops m (r 6) (r 4) (i 4)) (withS [(4, 64)] base) (fun _ v _ => checkL (v.a.word.toInt + v.b.word.toInt) 8 8 != none) = true
    ∧ goes { op := 0x242 } (ops m (r 6) (r 4) (i 0)) (withS [(4, 64)] busyL)
      (fun s1 v _ => checkL (v.a.word.toInt + v.b.word.toInt) 8 8 == none && !lfree s1 64 8 false) = true
    ∧ goes { op := 0x243 } (ops m (r 4) (i 0) (r 5)) (withS [(4, 524280)] base)
      (fun s1 v _ => checkL (v.d.word.toInt + v.a.word.toInt) 8 8 == none && lfree s1 524280 8 true && s1.curC.lstore.wf) = true
    ∧ goes { op := 0x243 } (ops m (r 4) (i 8) (r 5)) (withS [(4, 524280)] base)
      (fun _ v _ => checkL (v.d.word.toInt + v.a.word.toInt) 8 8 != none) = true
    ∧ goes { op := 0x246, guard := .fixed 4 } (ops (ty .i32) (v 3) (r 4) (i 0)) (withS [(4, 64)] base)
      (fun s1 _ g => lanes 4 0 63 g && checkL 64 256 4 == none && lfree s1 64 256 false && s1.curC.lpoison.isEmpty) = true
    ∧ goes { op := 0x247, guard := .elem 2, tags := fun _ o v => stvTag o v } (ops m (r 4) (i 0) (v 2)) (withV [(2, 0, .i32)] (withS [(4, 64)] base))
      (fun s1 v g => v.b.tag == .i32 && lanes 4 0 63 g && checkL 64 256 4 == none && lfree s1 64 256 true && s1.curC.lstore.wf) = true := by
  decide +kernel
theorem witness_LocalStoreAccess_waits :
    goes { op := 0x243 } (ops m (r 4) (i 0) (r 5)) (withS [(4, 64)] busyL)
      (fun s1 v _ => checkL (v.d.word.toInt + v.a.word.toInt) 8 8 == none && !lfree s1 64 8 true) = true
    ∧ goes { op := 0x246, guard := .fixed 4 } (ops (ty .i32) (v 3) (r 4) (i 2)) (withS [(4, 64)] base)
      (fun _ _ g => lanes 4 0 63 g && checkL 66 256 4 != none) = true
    ∧ goes { op := 0x246, guard := .fixed 4 } (ops (ty .i32) (v 3) (r 4) (i 0)) (withS [(4, 64)] busyL)
      (fun s1 _ g => lanes 4 0 63 g && checkL 64 256 4 == none && !lfree s1 64 256 false) = true
    ∧ goes { op := 0x246, guard := .fixed 4 } (ops (ty .i32) (v 3) (r 4) (i 0))
      (withS [(4, 64)] (base.modCurC fun c => { c with lpoison := lpoisonSet [] 316 4 true }))
      (fun s1 _ g => lanes 4 0 63 g && lfree s1 64 256 false && active g 4 63 && lpoisonHit s1.curC.lpoison 316 4) = true
    ∧ goes { op := 0x247, guard := .elem 2, tags := fun _ o v => stvTag o v } (ops m (r 4) (i 0) (v 2)) (withV [(2, 0, .i32)] (withS [(4, 524284)] base))
      (fun _ v g => v.b.tag == .i32 && lanes 4 0 63 g && checkL 524284 256 4 != none) = true
    ∧ goes { op := 0x247, guard := .elem 2, tags := fun _ o v => stvTag o v } (ops m (r 4) (i 0) (v 2)) (withV [(2, 0, .i32)] (withS [(4, 64)] busyL))
      (fun s1 _ g => lanes 4 0 63 g && checkL 64 256 4 == none && !lfree s1 64 256 true) = true := by decide +kernel
/-- 04 R72: a poisoned byte under an active element poisons the register. -/
theorem test_ldlv_poison : completes (.ldlv (ops (ty .i32) (v 3) (r 4) (i 0)))
    (withS [(4, 64)] (base.modCurC fun c => { c with lpoison := lpoisonSet [] 316 4 true })) (fun t => (t.cur.vreg 3).tag == .poison) = true := by
  decide +kernel
theorem test_stl_bytes : completes (.stl (ops m (r 4) (i 0) (r 5))) (withS [(4, 64), (5, 0x0102)] base)
    (fun t => t.curC.lstore.read 64 3 == [2, 1, 0]) = true := by decide +kernel
theorem test_ldl_sign : completes (.ldl (ops (ty .i8) (r 6) (r 4) (i 0))) (withS [(4, 64)] (base.modCurC fun c => { c with lstore := [(64, 0x80)] }))
    (sv 6 (-128)) = true := by decide +kernel

/-! Atomics and the ordering machine. -/

def amoOps (m : Mods) : Ops := ops m (r 6) (r 4) (r 5)
def mode (k : Fin 8) : Mods := { Mods.plain with mode := k }
theorem witness_AtomicIssue : ([0x280, 0x281, 0x282, 0x283, 0x284, 0x285, 0x286, 0x289] : List Nat).all (fun op =>
      goes { op := op } (amoOps m) (at4 2 0 more) (fun s1 v _ => passes s1 v.a.word 0 8 8 0xB)) = true
    ∧ goes { op := 0x287, dDst := true } (amoOps m) (at4 2 0 more) (fun s1 v _ => passes s1 v.a.word 0 8 8 0xB) = true
    ∧ goes { op := 0x288 } (amoOps (ty .f32)) (at4 2 0 more) (fun s1 v _ => passes s1 v.a.word 0 4 4 0xB) = true
    ∧ goes { op := 0x280 } (amoOps m) (at4 6 0 pod2) (fun s1 v _ => passes s1 v.a.word 0 8 8 0xB) = true
    ∧ goes { op := 0x280 } (amoOps m) (at4 10 0 more) (fun s1 v _ => passes s1 v.a.word 0 8 8 0xB) = true
    ∧ goes { op := 0x280 } (amoOps m) (at4 2 4 more) (fun s1 v _ => failsWith 0x0D (chkOf s1 v.a.word (ptrOff v.a.word) 8 8 0xB)) = true
    ∧ goes { op := 0x290 } (ops m .none .none .none) base = true
    ∧ [0, 15].all (fun k => goes { op := 0x291 } (ops m .none (i k) .none) base (fun _ v _ => v.a.word == BitVec.ofNat 64 k)) = true
    ∧ goes { op := 0x291 } (ops m .none (i 16) .none) base (fun _ v _ => decide (15 < v.a.word.toInt)) = true
    ∧ goes { op := 0x291 } (ops m .none (r 4) .none) (withS [(4, -1)] base) (fun _ v _ => decide (v.a.word.toInt < 0)) = true := by decide +kernel
theorem test_fence_holds : nexts (.fence (ops m .none .none .none)) base (fun t => t.cur.wait == .item 3 && t.curF.pc == 9 && t.iq.length == 1) = true := by
  decide +kernel
def amoItem (op : AmoOp) (u : Use) (key : Nat) : Item := { item (.amo op .i64 key 3 0 u 0 none) with dst := .s 6 }
def inIq (l : List Item) (s : State) : State := { s.modCur (fun x => x.setSReg 6 { pend := some 50 }) with iq := l }
def memAt (key : Nat) (bs : List Byte) (s : State) : State := { s with mem := s.mem.write key bs }
def amoS : State := memAt 0x20000 [5] (inIq [amoItem .add .nor 0x20000] base)
theorem witness_AtomicResults : amoS.iq[0]? = some (amoItem .add .nor 0x20000) ∧ remoteHome 0 0 = false ∧ (amoItem .add .nor 0x20000).held = false
    ∧ amoS.amoReady (amoItem .add .nor 0x20000) = true ∧ amoS.earlier (amoItem .add .nor 0x20000) = []
    ∧ poisonHit amoS.poison 0x20000 8 = false ∧ poisonHit (poisonMark [] 0x20000) 0x20000 8 = true ∧ amoS.mem.wf = true := by decide +kernel
theorem test_amo_add : nexts (.atomicPerform 0 false) amoS (fun t => t.mem.read 0x20000 8 == [8, 0, 0, 0, 0, 0, 0, 0] && sv 6 5 t && t.iq.isEmpty) = true := by
  decide +kernel
theorem test_amo_functions : amoNew .max .i8 0x7F 0x80 0 = 0x7F ∧ amoNew .inc .i8 0x05 0x05 0 = 0 ∧ amoNew .cas .i16 9 4 9 = 4 := by decide
def entry (p : Place) : Entry := { id := 9, place := p, key := 0x20000, bytes := [7, 8], party := 1, cap := 1, core := 0, kind := .release, fenced := false }
def ents (l : List Entry) (s : State) : State := { s with entries := l }
def eop : EOp := { op := .add, ty := .i64, operand := 1, count := 1, quantum := 0, freed := false, parties := [(1, 9)], reqs := [] }
def opEnt (p : Place) : Entry := { entry p with op := some eop, bytes := zeros 8 }
def spcItem : Item := item (.amo .add .i64 0x20000 3 0 .spc 0 (some { cycle := 0, slot := base.cur, old := some 5 }))
theorem witness_EntryMovement :
    ([.sb 1, .core 0, .sq 0, .die 0, .dev 0, .pod] : List Place).all (fun p => (ents [entry p] base).mayMove 0 (entry p)) = true
    ∧ (entry .pod).remote = false ∧ (ents [entry .pod] base).mem.wf = true
    ∧ (ents [opEnt .pod] base).mayMove 0 (opEnt .pod) = true ∧ poisonHit (ents [opEnt .pod] base).poison 0x20000 8 = false
    ∧ poisonHit ((ents [opEnt .pod] base).markM 0x20000).poison 0x20000 8 = true
    ∧ ((ents [opEnt .pod] base).markM 0x20000).mayMove 0 (opEnt .pod) = true
    ∧ (ents [entry (.core 0), entry (.core 0)] base).mayMove 1 (entry (.core 0)) = false
    ∧ (ents [opEnt (reductionGate 0x20000)] base).leads 0 (opEnt (reductionGate 0x20000)) = true
    ∧ (opEnt (.gw 1 0)).op = some eop ∧ eop.quantum = 0 ∧ (opEnt (.gw 1 0)).place = .gw 1 0
    ∧ (let s := memAt 0x20000 [5] (inIq [spcItem] base)
       s.amoReady spcItem = true ∧ s.earlier spcItem = [] ∧ poisonHit s.poison 0x20000 8 = false
       ∧ iwide .i64 (ofBytes (s.mem.read 0x20000 8)) = 5 ∧ iwide .i64 (ofBytes ((memAt 0x20000 [6] s).mem.read 0x20000 8)) ≠ 5) := by decide +kernel
/-- 09 R176: an operation entry is performed at M in one step. -/
theorem test_operation_at_memory : nexts (.entryMove 0) (ents [opEnt .pod] (memAt 0x20000 [5] base))
    (fun t => t.entries.isEmpty && t.mem.read 0x20000 2 == [6, 0]) = true := by decide +kernel
theorem test_entry_reaches_memory : nexts (.entryMove 0) (ents [entry .pod] base) (fun t => t.entries.isEmpty && t.mem.read 0x20000 2 == [7, 8]) = true := by
  decide +kernel
def ldItem (k : OKind) : Item := { item (.load [{ key := 0x20000, w := 8, idx := 0 }] .i64 false false) with dst := .s 6, kind := k }
def stItem (k : OKind) : Item := { item (.store [{ key := 0x20000, w := 8, idx := 0 }] 5) with kind := k }
def fenceItem : Item := { item .fence with rel := some .dev }
theorem witness_RequestsPerformed :
    (inIq [ldItem .release] base).plainReady (ldItem .release) = true
    ∧ ((inIq [ldItem .release] base).readPath (readPlaces 1 0 0 .release) 0x20000 0 8).2 = false
    ∧ (inIq [ldItem .strong] base).plainReady (ldItem .strong) = true ∧ base.entries = []
    ∧ (inIq [{ stItem .release with id := 49 }, ldItem .release] base).plainReady (ldItem .release) = false
    ∧ (inIq [stItem .strong] base).plainReady (stItem .strong) = true ∧ (stItem .release).rel = none
    ∧ (inIq [fenceItem] base).barred fenceItem = false ∧ (inIq [fenceItem] base).relReady fenceItem .dev = true
    ∧ (inIq [{ fenceItem with id := 49 }, fenceItem] base).barred fenceItem = true := by decide +kernel
theorem test_load_forwards : nexts (.issueQueuePerform 0 0) (ents [{ entry (.sb 1) with bytes := [7, 0, 0, 0, 0, 0, 0, 0x80] }] (inIq [ldItem .release] base))
    (sv 6 0x8000000000000007) = true := by decide +kernel
theorem test_strong_store_goes_to_pod : nexts (.issueQueuePerform 0 0) (inIq [stItem .strong] base)
    (fun t => t.entries.all fun e => e.place == .pod && e.bytes.length == 8) = true := by decide +kernel

/-! Engines, remote requests, messages, tasks, phasers. -/

def chanS (c : Chan) (s : State) : State := s.modChan 0 0 fun _ => c
def pdOps (n : Nat) : Ops := ops m (i n) (r 4) .none
theorem witness_PorterAndDealer_issue : [0, 3].all (fun n =>
      goes { op := 0x298 } (pdOps n) (at4 2 0 more) (fun s1 v _ => passes s1 v.a.word 0 64 64 3 && (s1.curC.chan n).last.isNone
        && (Operand.val (i n)).word == BitVec.ofNat 64 n && ptrOff v.a.word % 64 == 0)
      && goes { op := 0x299 } (ops m (i n) .none .none) base && goes { op := 0x29A } (ops m (i n) (r 6) .none) base
      && goes { op := 0x29B } (pdOps n) (at4 2 0 more)) = true
    ∧ goes { op := 0x298 } (pdOps 0) (at4 2 8 more) (fun _ v _ => ptrOff v.a.word % 64 != 0) = true
    ∧ goes { op := 0x298 } (pdOps 4) (at4 2 0 more) = true ∧ goes { op := 0x299 } (ops m (i 4) .none .none) base = true
    ∧ goes { op := 0x29A } (ops m (i 4) (r 6) .none) base = true ∧ goes { op := 0x29B } (pdOps 4) (at4 2 0 more) = true
    ∧ 3 < ((Operand.val (i 4)).word).toInt ∧ ((Operand.val (.imm (-1))).word).toInt < 0 := by decide +kernel
def preq : PReq := { left := 1, next := ptr 2 0, deal := 0, stamp := 0, fir := 1, cap := 1, view := 0 }
def pwork (src dst : PEnd) (done control : Nat) : PWork :=
  { ptr := ptr 2 0, key := 0x20000, kind := 1, seqNo := 1, length := 16, control := control, src := src, dst := dst, done := done }
def porting (w : PWork) : State := chanS { reqs := [preq], work := some w } base
theorem witness_PorterAndDealer_events :
    (let c : Chan := { first := some (ptr 2 0), last := some (ptr 2 0), count := 1 }
     c.first = some (ptr 2 0) ∧ c.count ≠ 0)
    ∧ ((base.core 0).lread 64 8).2 = false ∧ (base.engineRead 0 0x20000 (kindOf 1) 8).2 = false
    ∧ ((porting (pwork (.l 64) (.l 128) 0 0xFFFF)).core 0 |>.chan 0).reqs = [preq]
    ∧ 0xFFFF / 2 ^ 19 % 2 = 0 ∧ 0x8FFFF / 2 ^ 19 % 2 = 1 ∧ ([0, 1] : List Nat)[8 / 8 % 2]? = some 1
    ∧ (porting (pwork (.l 64) (.l 128) 16 0xFFFF)).porterSettled (pwork (.l 64) (.l 128) 16 0xFFFF) = true
    ∧ 0xFFFF % 2 ^ 16 = 0xFFFF ∧ (pwork (.l 64) (.l 128) 16 0xFFFF).status = 0
    ∧ (base.engineWrite 0 1 1 0 0x20000 (kindOf 1) (zeros 8) false).2 = base.fresh := by decide +kernel
def entryBytes (src dst len ctl : Nat) (tail : Nat := 0) : List Byte :=
  toBytes 8 src ++ toBytes 8 dst ++ toBytes 8 len ++ toBytes 8 ctl ++ zeros 16 ++ toBytes 16 tail
def releasedEntry (b : List Byte) : State := memAt 0x20000 b (chanS { reqs := [preq] } more)
/-- The entry that began: its status, whether it goes on, and its ends. -/
def began (b : List Byte) : Option (Nat × Bool × PEnd × PEnd) :=
  match exec (.porterEntry 0 0) (releasedEntry b) with
  | .next t => ((t.curC.chan 0).work.filter fun w => w.seqNo == 1).map fun w => (w.status, decide (w.done < w.length), w.src, w.dst)
  | _ => none
def failed (b : List Byte) : Option Nat := (began b).bind fun r => if r.2.1 then none else some r.1
theorem witness_PorterAndDealer_begins : (let s := releasedEntry (entryBytes 64 128 16 0x3FFFF)
     isOk (checkAccess (s.cap 1) 0 (ptrSlot (ptr 2 0)) (ptrOff (ptr 2 0)) 64 64 3) = true ∧ (s.engineRead 0 0x20000 .unordered 64).2 = false
     ∧ s.held = [] ∧ ((s.core 0).chan 0).work = none ∧ ((s.core 0).chan 0).halted = false ∧ preq.begun = false)
    ∧ began (entryBytes 64 128 16 0x3FFFF) = some (0, true, .l 64, .l 128)
    ∧ began (entryBytes (ptr 3 0).toNat 128 16 0x1FFFF) = some (0, true, .ext 0x30000 1, .l 128) := by decide +kernel
/-- 10 R213, Table 10.6: the statuses of fields, combinations, lengths and ranges. -/
theorem test_porter_statuses : failed (entryBytes 64 128 16 (0x3FFFF + 2 ^ 29)) = some 3 ∧ failed (entryBytes 64 128 16 0x3FFFF 1) = some 3
    ∧ failed (entryBytes 64 3 16 0x5FFFF) = some 2 ∧ failed (entryBytes 64 128 16 0x9FFFF) = some 2
    ∧ failed (entryBytes 64 128 0 0x3FFFF) = some 0x0D ∧ failed (entryBytes 524280 128 16 0x3FFFF) = some 6
    ∧ failed (entryBytes 64 524280 16 0x3FFFF) = some 6 ∧ failed (entryBytes (ptr 3 0).toNat 524280 16 0x1FFFF) = some 6 := by decide +kernel
/-- An entry that cannot be read: the channel halts and drops its request (log 32). -/
theorem test_porter_unreadable : nexts (.porterEntry 0 0) (chanS { reqs := [{ preq with next := ptr 11 0 }] } more)
    (fun t => (t.curC.chan 0).halted && (t.curC.chan 0).reqs.isEmpty && (t.cap 1).records.map FaultRec.code == [8])
    = true ∧ nexts (.porterEntry 0 0) (chanS { reqs := [preq], halted := true } more) (fun t => (t.curC.chan 0).work.isNone) = true := by
  decide +kernel
/-- A transfer of 8 bytes at the end of slot 3: whole where nothing reads the slot, else held (07 R139). -/
def slotWork : PWork := { pwork (.l 64) (.slot 3) 16376 (0x5FFFF) with length := 16384, buf := zeros 16376 }
def readBy (s : State) : State := s.modCurC fun c => c.setBank 3 { c.bank 3 with count := 1 }
theorem witness_PorterAndDealer_slot : (fillTag (0x5FFFF / 2 ^ 24 % 32)).isSome = true ∧ slotWork.bad = false
    ∧ 0x5FFFF / 2 ^ 19 % 2 = false.toNat ∧ slotWork.done + 8 = slotWork.length ∧ slotWork.dst = .slot 3
    ∧ ((porting slotWork).curC.bank 3).count = 0 ∧ (porting slotWork).curC.held = []
    ∧ ((readBy (porting slotWork)).curC.bank 3).count ≠ 0
    ∧ (PEnd.dealSlot 3 [0, 1] 16384 ≠ .slot 3) ∧ ([0, 1] : List Nat)[16384 / 16384]? = some 1 := by decide +kernel
theorem test_slot_write_held : nexts (.porterEntry 0 0) (porting slotWork) (fun t => t.curC.held.isEmpty && (t.curC.bank 3).tag == .raw) = true
    ∧ nexts (.porterEntry 0 0) (readBy (porting slotWork)) (fun t => t.curC.held.map HeldWrite.slot == [3]) = true := by decide +kernel
theorem test_pappend_links : completes (.pappend (pdOps 0)) (at4 2 64 (chanS { first := some (ptr 2 0), last := some (ptr 2 0), count := 1 } more))
    (fun t => t.iq.map (fun it => match it.act with
      | .store es x => (es.map Elem.key, x.toNat)
      | _ => ([], 0)) == [([0x20068], 0), ([0x20028], (ptr 2 64).toNat)] && (t.curC.chan 0).count == 2) = true := by decide +kernel
theorem test_porter_copies_a_word : nexts (.porterEntry 0 0) ((porting (pwork (.l 64) (.l 128) 0 0xFFFF)).modCore 0 fun c => { c with lstore := [(65, 7)] })
    (fun t => t.curC.lstore.get 129 == 7 && (t.curC.chan 0).work.any fun w => w.done == 8) = true := by decide +kernel
theorem test_porter_finishes : nexts (.porterEntry 0 0) (porting (pwork (.l 64) (.l 128) 16 0xFFFF))
    (fun t => (t.curC.chan 0).reqs.isEmpty && (t.curC.chan 0).doneSeq == 1 && t.entries.all fun e => e.key == 0x20020) = true := by decide +kernel
theorem test_deal_round_robin : nexts (.dealEntry 0 0) ((porting (pwork (.l 64) (.dealL 128 [0, 1] 8) 8 0x8FFFF)).modCore 0 fun c => { c with lstore := [(72, 7)] })
    (fun t => (t.core 1).lstore.get 128 == 7) = true := by decide +kernel

/-- Reply words, a pointer to the window of slot 8, four registers from s8. -/
def rem (d : Operand) : Ops := ops m d (r 4) (r 5)
theorem witness_RemoteInstructions :
    goes { op := 0x2A0 } (ops m (r 4) (i 0) (r 5)) (at4 2 256 more) (fun s1 v _ => passes s1 v.d.word v.a.word.toInt 256 256 permW) = true
    ∧ goes { op := 0x2C0 } (rem (r 7)) (withS [(7, 3)] (at4 6 0 pod2)) (fun s1 v _ => passes s1 v.a.word 0 8 8 permR && !s1.remoteFull
      && v.d.word.toNat % 2 ^ 16 != 0xFFFF && remoteHome s1.curCore 1) = true
    ∧ goes { op := 0x2C0 } (rem (r 7)) (withS [(7, 0xFFFF)] (at4 6 0 pod2)) (fun _ v _ => v.d.word.toNat % 2 ^ 16 == 0xFFFF) = true
    ∧ goes { op := 0x2C0 } (rem (r 7)) (at4 2 0 pod2) (fun s1 v _ => passes s1 v.a.word 0 8 8 permR && !remoteHome s1.curCore 0) = true
    ∧ goes { op := 0x2C1 } (rem (r 7)) (at4 6 0 pod2) (fun s1 v _ => passes s1 v.a.word 0 8 8 permW && !s1.remoteFull) = true
    ∧ goes { op := 0x2C1 } (rem (r 7)) (at4 2 0 pod2) (fun s1 v _ => passes s1 v.a.word 0 8 8 permW && !remoteHome s1.curCore 0) = true
    ∧ goes { op := 0x2C2 } (rem (r 7)) (at4 6 0 pod2) (fun s1 v _ => passes s1 v.a.word 0 8 8 0xB
      && ramoOp (v.d.word.toNat / 2 ^ 16 % 16) .i64 == some .add) = true
    ∧ goes { op := 0x2C2 } (ops m (r 7) (r 4) (r 8)) (withS [(7, 0x70000), (8, 1), (9, 2)] (at4 6 0 pod2)) (fun _ v _ =>
      ramoOp (v.d.word.toNat / 2 ^ 16 % 16) .i64 == some .cas && (v.old.sreg 9).pend == none && !(v.old.sreg 9).freed
      && !(v.old.sreg 9).poison && v.reg 9 == 2) = true
    ∧ goes { op := 0x2C2 } (rem (r 7)) (withS [(7, 0xF0000)] (at4 6 0 pod2)) (fun _ v _ => ramoOp (v.d.word.toNat / 2 ^ 16 % 16) .i64 == none) = true
    ∧ goes { op := 0x2C5 } (rem (r 7)) (withS [(7, ptr 8 0), (5, 0)] (at4 8 0 more)) (fun s1 v _ => passes s1 v.d.word 0 8 8 0xA
      && redOp v.b.word.toInt false == some .add) = true
    ∧ goes { op := 0x2C5 } (rem (r 7)) (withS [(7, ptr 2 0), (5, 0)] (at4 8 0 more)) (fun s1 v _ => passes s1 v.d.word 0 8 8 0xA) = true
    ∧ goes { op := 0x2C5 } (rem (r 7)) (withS [(7, ptr 8 0), (5, 9)] (at4 8 0 more)) (fun _ v _ => redOp v.b.word.toInt false == none) = true
    ∧ goes { op := 0x2C5, guard := .fixed 4, tags := fun _ o v => if Operand.isVec o.a && v.a.tag != .f32 then some (1, v.a.tag) else none }
      (ops (ty .f32) (r 7) (v 2) (i 0)) (withV [(2, 0, .f32)] (withS [(7, ptr 8 0)] more))
      (fun s1 v g => lanes 4 0 63 g && v.a.tag == .f32 && redOp v.b.word.toInt true == some .fadd
        && match chkOf s1 v.d.word (ptrOff v.d.word) 256 4 0xA with | .ok _ e => e.window | _ => false) = true
    ∧ goes { op := 0x2C6 } (rem (r 7)) (withS [(7, ptr 3 0), (5, 0x400000)] (at4 2 0 more |> withS [(5, 0x400000)]))
      (fun s1 v _ => passes s1 v.a.word 0 64 8 permR && passes s1 v.d.word 0 64 8 permW && v.b.word.toNat / 2 ^ 16 % 2 ^ 32 == 64
        && !s1.remoteFull) = true
    ∧ goes { op := 0x2C6 } (rem (r 7)) (withS [(7, ptr 3 0)] (at4 2 0 more)) (fun _ v _ => v.b.word.toNat / 2 ^ 16 % 2 ^ 32 == 0) = true := by
  decide +kernel
def four8 (s : State) : State := withS [(8, 1), (9, 2), (10, 3), (11, 4)] s
theorem witness_RemoteInstructions_active :
    [(0x100 + 8, 1), (6, 1), (7, 1)].all (fun h => goes { op := 0x2C3, reads := fun o => blockReads 2 o.b } (ops m (r 7) (r 4) (r 8))
      (four8 (withS [(4, BitVec.ofNat 64 h.1), (7, 0)] more)) (fun s1 v _ => s1.overProduced.isNone && decide (s1.cur.stream.length < 8)
        && v.a.word.toNat == h.1 && v.d.word.toNat == 0)) = true
    ∧ (0x100 + 8) % 12 = 0
    ∧ goes { op := 0x2C4, reads := fun o => blockReads 2 o.b } (ops m (r 7) (r 4) (r 8)) (four8 (withS [(4, ptr 0 96), (7, 0)] more))
      (fun s1 v _ => ptrSlot v.a.word == 0 && ptrOff v.a.word % 12 == 0
        && (match inlineWords s1 8 1 with | .ok _ => true | .error _ => false)) = true := by decide +kernel

def remote (k : RKind) : Remote :=
  { id := 50, chip := 0, ep := 0, gw := 0, home := 1, seqNo := 1, epoch := 0, fir := 1, cap := 1, slot := 0, word := 8, raw := 0
    opcode := 0, kind := k, ptr := ptr 6 0 }
def rkey : Nat := keyOf 1 0x60000
def going (r : Remote) (s : State) : State := { s with remote := [r] }
def putR : Remote := remote (.put rkey 8 5)
def amoR : Remote := remote (.amo .add .i64 rkey 3 0)
def ldR : Remote := { remote (.load rkey .i64) with reply := some 3 }
/-- A message actor on core 1024 of chip 1 that takes the handler 0x108 of the placed code. -/
def handler108 : List Byte := toBytes 8 0 ++ toBytes 4 300 ++ toBytes 4 112 ++ toBytes 4 0 ++ toBytes 4 276 ++ toBytes 4 3 ++ zeros 248 ++ [0, 0, 0x40, 0] ++ zeros 20
def takes : State := ((memAt 0x10000 handler108 base).modCap 1 fun c => { c with
  actors := [{ placedActor with production := 255 }, { placedActor with ep := 1, boxes := [(0, { ty := 2, count := 1 })], state := .armed }]
  cores := [0, 1] }).setCore 1 { cap := some 1, logical := 1 }
def amsgR : Remote := { remote (.amsg 1 264 [] 1 2 3 4 9) with home := 0 }
def barR : Remote := { remote (.barrier 0 1 0xFFFF 4 9) with home := 0 }
/-- The epoch of chips 0 and 1 has risen since the request was sent. -/
def newEpoch : State := (going putR pod2).modFabric 0 fun f => { f with epochs := [(1, 1)] }
def outdatedIn (q : Remote) (s : State) : Bool := s.outdated q
theorem witness_RemoteEvents :
    (going putR pod2).inSequence putR = true ∧ (going putR pod2).reachable 0 1 = true ∧ putR.seqNo ≠ 0 ∧ putR.performed = false
    ∧ (going amoR pod2).atHome 1 50 [(rkey, 8)] = true ∧ poisonHit pod2.poison rkey 8 = false ∧ (going amoR pod2).inSequence amoR = true
    ∧ ldR.item = none ∧ (going ldR pod2).inSequence ldR = true
    ∧ (going putR pod2).remoteDone putR = false ∧ (going { ldR with performed := true } pod2).remoteDone { ldR with performed := true } = true
    ∧ pod2.isMember 0 1 = true ∧ (pod2.chip 0).fabric.unreachable.contains 1 = false
    ∧ (let s := pod2.modChip 0 fun h => { h with fabric := { h.fabric with unreachable := [1] } }
       (s.chip 0).fabric.unreachable.contains 1 = true ∧ s.isMember 0 1 = true ∧ (s.chips.find 1).isSome = true)
    ∧ (going putR pod2).outdated putR = false ∧ (going putR pod2).inWindow putR = true
    ∧ putR.epoch < (newEpoch.chip 0).fabric.epochs.get 0 1
    ∧ (let q := { putR with id := 51, seqNo := 65 }
       outdatedIn q pod2 = false ∧ q.seqNo ≠ 0 ∧ putR.ep = q.ep ∧ putR.home = q.home ∧ putR.gw = q.gw ∧ putR.seqNo + 64 ≤ q.seqNo)
    ∧ (going amsgR takes).inSequence amsgR = true ∧ (going amsgR takes).acceptActive 1 1 264 [] = .take 1 16 none
    ∧ amsgR.performed = false ∧ barR.performed = false ∧ (going barR base).inSequence barR = true := by decide +kernel
def waitingRed : Entry := { opEnt (reductionGate rkey) with key := rkey }
theorem witness_RemoteEvents_settle : waitingRed.op.isSome = true ∧ waitingRed.place = reductionGate waitingRed.key ∧ homeOf waitingRed.key = 1
    ∧ (ents [waitingRed] pod2).entries[0]? = some waitingRed ∧ pod2.entries = []
    ∧ ((pod2.modChip 0 fun h => { h with fabric := { h.fabric with unreachable := [1] } }).chip 0).fabric.unreachable.contains 1 = true := by
  decide +kernel
/-- 19 R371: a contribution that lies in the peer's reduction gateway reaches M, for its request had its outcome. -/
theorem test_unreachable_settles : nexts (.peerUnreachable 0 1) (ents [waitingRed] (memAt rkey [5] pod2))
    (fun t => t.entries.isEmpty && t.mem.read rkey 1 == [6] && !t.reachable 0 1) = true := by decide +kernel
theorem test_put_enters_pod : nexts (.remoteRequestPerform 0) (going putR pod2) (fun t => t.entries.all (fun e => e.place == .pod && e.key == rkey)
    && t.entries.length == 1 && t.remote.all Remote.performed) = true := by decide +kernel
theorem test_remote_load_returns : nexts (.remoteRequestPerform 0) (memAt rkey [9] (going ldR pod2)) (fun t => t.remote.all fun r => r.value == 9 && r.performed) = true := by
  decide +kernel
/-- 19 R370: a copy of a request already performed is answered with its stored reply and not performed again. -/
theorem test_copy_is_answered : nexts (.remoteRequestPerform 0) (going { putR with performed := true, copies := 1 } pod2)
    (fun t => t.entries.isEmpty && t.remote.all fun q => q.copies == 0 && q.replies == 1) = true := by decide +kernel
/-- 19 R371: a request of an older epoch is discarded. -/
theorem test_old_epoch_discarded : nexts (.remoteRequestPerform 0) newEpoch (fun t => t.entries.isEmpty && t.remote.isEmpty) = true := by
  decide +kernel
/-- One participant of one: the counter opens and releases at once (19 R376). -/
theorem test_barrier_of_one : nexts (.fabricBarrierArrival 0) (going barR base) (fun t => (t.barrier 0 0).episode == 1 && (t.barrier 0 0).arrived.isEmpty) = true := by
  decide +kernel

def msg : Msg := mkMsg 1 2 3 4 9
def boxed (b : Mailbox) (s : State) : State := s.modCap 1 fun c => { c with actors := [{ placedActor with boxes := [(0, b)] }] }
def box0 (l : List Msg) : Mailbox := { ty := 0, count := 1, msgs := l }
def sendOps : Ops := ops m (i 0) (r 8) .none
theorem witness_MessagesAndQueues_send :
    goes { op := 0x300, reads := fun o => blockReads 1 o.a } sendOps (four8 (boxed (box0 []) base))
      (fun s1 v _ => decide (s1.cur.stream.length < 8) && v.d.word.toNat == 0 && s1.curCap.boxTy 0 == some 0 && s1.overProduced.isNone) = true
    ∧ goes { op := 0x300, reads := fun o => blockReads 1 o.a } (ops m (i 1) (r 8) .none) (four8 (boxed (box0 []) base))
      (fun s1 _ _ => s1.curCap.boxTy 1 != some 0) = true
    ∧ goes { op := 0x300, reads := fun o => blockReads 1 o.a } sendOps
      (four8 (base.modCap 1 fun c => { c with actors := [{ placedActor with production := 0, boxes := [(0, box0 [])] }] }))
      (fun s1 _ _ => s1.overProduced.isSome) = true
    ∧ goes { op := 0x301, writes := fun o => blockWrites 3 o.d } (ops m (r 8) (i 0) .none) (boxed (box0 [msg]) base)
      (fun s1 v _ => ((s1.ownBox v.a.word.toInt).bind Mailbox.nextMsg) == some (0, msg)) = true
    ∧ goes { op := 0x301, writes := fun o => blockWrites 3 o.d } (ops m (r 8) (i 0) .none) (boxed (box0 []) base)
      (fun s1 v _ => (s1.ownBox v.a.word.toInt).any fun b => b.msgs.isEmpty && b.ty != 2) = true
    ∧ goes { op := 0x302, writes := fun o => blockWrites 3 o.d } (ops m (r 8) (i 0) .none) (boxed (box0 [msg]) base)
      (fun s1 v _ => ((s1.ownBox v.a.word.toInt).bind Mailbox.nextMsg) == some (0, msg)) = true
    ∧ goes { op := 0x302, writes := fun o => blockWrites 3 o.d } (ops m (r 8) (i 0) .none) (boxed (box0 []) base)
      (fun s1 v _ => (s1.ownBox v.a.word.toInt).any (fun b => b.msgs.isEmpty) && s1.curF.shadow.isNone && s1.settled s1.curF) = true := by
  decide +kernel
def wq0 (es : List HeldEntry) (closed : Bool) (s : State) : State := s.modChip 0 fun h => { h with
  workQueues := [(0, { cap := 1, die := 0, q := 0, entries := es, closed := closed })] }
def went : HeldEntry := { die := 0, q := 0, w0 := 1, w1 := 2, w2 := 3, w3 := 4 }
def bound (s1 : State) (f : WorkQueue → Bool) : Bool :=
  match (s1.chip 0).bind 1 0 0 with
  | some (h, key) => f (h.wq key)
  | none => false
def popOps : Ops := ops m (r 8) (i 0) .none
theorem witness_MessagesAndQueues_queues :
    ([(0x303), (0x304)] : List Nat).all (fun op =>
      goes { op := op, writes := fun o => blockWrites 4 o.d } popOps (wq0 [went] false base) (fun s1 _ _ => bound s1 (fun w => w.entries == [went])
        && (s1.heldEntry 0).isNone)
      && goes { op := op, writes := fun o => blockWrites 4 o.d } popOps (wq0 [] true base) (fun s1 _ _ => bound s1 fun w => w.closed && w.entries.isEmpty)
      && goes { op := op, writes := fun o => blockWrites 4 o.d } popOps (wq0 [] false base) (fun s1 _ _ => bound s1 fun w => !w.closed && w.entries.isEmpty)
      && goes { op := op, writes := fun o => blockWrites 4 o.d } popOps
        ((wq0 [] false base).modActor 1 0 fun a => { a with held := [went] }) (fun s1 _ _ => (s1.heldEntry 0) == some went)) = true
    ∧ goes { op := 0x304, writes := fun o => blockWrites 4 o.d } popOps
      ((wq0 [] false base).modF fun f => { f with kind := .task }) (fun s1 _ _ => bound s1 (fun w => !w.closed && w.entries.isEmpty)
        && s1.curF.kind != .actor && (s1.heldEntry 0).isNone) = true
    ∧ [false, true].all (fun c => goes { op := 0x305, reads := fun o => blockReads 1 o.a } (ops m (r 6) (r 8) (i 0)) (four8 (wq0 [] c base))
      (fun s1 _ _ => bound s1 fun w => w.closed == c && decide (w.entries.length < Config.workQueueDepth))) = true
    ∧ goes { op := 0x306 } (ops m (i 0) .none .none) (wq0 [] false base) (fun s1 _ _ => bound s1 fun _ => true) = true := by decide +kernel
def sendEnt : SendEnt := { fir := 1, cap := 1, after := 2, addr := some 0, endpoint := 0, handler := 0, code := [], w0 := 1, w1 := 2, w2 := 3
                           w3 := 4, stamp := 9, word := 8, raw := 0, opcode := 0x300 }
def streaming (l : List SendEnt) (s : State) : State := s.modCur fun x => { x with stream := l }
theorem witness_MessagesAndQueues_events :
    (let s := streaming [sendEnt] (boxed (box0 []) base)
     (s.slot 0 0).stream[0]? = some sendEnt ∧ s.sendReady 1 2 .core = true ∧ s.boxRoom 1 0 = true ∧ ((s.cap 1).actors[0]?).isSome = true)
    ∧ (streaming [sendEnt, sendEnt] (boxed (box0 []) base)).boxRoom 1 0 = true
    ∧ (boxed (box0 (List.replicate 16 msg)) base).boxRoom 1 0 = false ∧ (base.core 0).vacating = false
    ∧ (boxed (box0 (List.replicate 16 msg)) base).ranOut 1 = false
    ∧ ((boxed (box0 []) base).caps.find 1).isSome = true
    ∧ (((boxed (box0 []) base).cap 1).actors[0]?.bind fun a => a.boxes.find 0) = some (box0 []) := by decide +kernel
theorem test_send_arrives : nexts (.sendStreamDeliver 0 0 0) (streaming [sendEnt] (boxed (box0 []) base))
    (fun t => ((t.cap 1).box 0).any (fun b => b.msgs.map Msg.w1 == [2]) && t.cur.stream.isEmpty) = true := by decide +kernel
/-- 23 R436: what a core that is being vacated sends to an actor being moved lies in the mailbox when it is saved. -/
theorem test_send_of_vacating_core :
    let s := (streaming [sendEnt] (boxed (box0 []) base)).modCap 1 fun c => { c with actors := c.actors.map fun a => { a with moving := true } }
    let v := s.modCore 0 fun k => { k with vacating := true }
    nexts (.sendStreamDeliver 0 0 0) s (fun t => t.cur.stream == [sendEnt]) = true
    ∧ nexts (.sendStreamDeliver 0 0 0) v (fun t => ((t.cap 1).box 0).any (fun b => b.msgs.map Msg.w1 == [2])) = true := by
  decide +kernel
theorem test_recv_takes_oldest : completes (.recv (ops m (r 8) (i 0) .none)) (boxed (box0 [msg, mkMsg 5 6 7 8 9]) base)
    (fun t => sv 8 1 t && sv 11 4 t && ((t.cap 1).box 0).any fun b => b.msgs.length == 1) = true := by decide +kernel
/-- A load of the card at the location, as `spawn` makes one. -/
def cardLoad (s1 : State) (key : Nat) (e : Extent) (p : Word) : Item :=
  (s1.newItem 0x309 (.load [{ key := key, w := 128, idx := 0 }] .raw false false)).through (ptrSlot p) e p
theorem witness_MessagesAndQueues_pop_w : goes { op := 0x304, writes := fun o => blockWrites 4 o.d } popOps (wq0 [] false base)
      (fun s1 _ _ => bound s1 (fun w => !w.closed && w.entries.isEmpty) && (s1.heldEntry 0).isNone && s1.curF.kind == .actor
        && s1.curF.shadow.isNone && s1.settled s1.curF) = true
    ∧ goes { op := 0x304, writes := fun o => blockWrites 4 o.d } popOps (inIq [amoItem .add .nor 0x20000] (wq0 [] false base))
      (fun s1 _ _ => bound s1 (fun w => !w.closed && w.entries.isEmpty) && !s1.settled s1.curF) = true := by decide +kernel
/-- 14 R280: the firing ends, and its actor is the newest waiter of the queue. -/
theorem test_pop_w_registers : nexts (.popW popOps) (wq0 [] false base) (fun t => (t.slot 0 0).firing.isNone
    && ((t.chip 0).workQueues.map fun e => e.2.waiters) == [[0]]) = true := by decide +kernel
/-- 13 R263: an actor that holds an entry of another queue waits at `pop.w` of an empty open one. -/
theorem test_pop_w_of_another_queue : nexts (.popW popOps) ((wq0 [] false base).modActor 1 0 fun a => { a with held := [{ went with q := 1 }] })
    (fun t => ((t.cap 1).actors.map fun a => (a.state, a.held.length)) == [(.waiting 0 0, 1)] && (t.slot 0 0).firing.isNone) = true := by
  decide +kernel
theorem test_pop_closed : completes (.pop popOps) (wq0 [] true base) (sv 8 2) = true := by decide +kernel

def taskRec : Task := { entry := 0, stamp := 7, budget := 0, join := 0, a0 := 1, a1 := 2, a2 := 3, a3 := 4 }
def tasks (n : Nat) : List Task := List.replicate n taskRec
def deque (ep n : Nat) (s : State) : State := s.modCore ep fun c => { c with deque := tasks n }
def grant (eps : List Nat) (s : State) : State := eps.foldl (fun s e => s.modCore e fun c => { c with cap := some 1, logical := e })
  (s.modCap 1 fun c => { c with cores := [0] ++ eps })
def readyTask : Ready := { job := .task taskRec, cap := 1, stamp := 7 }
def readied (ep : Nat) (l : List Ready) (s : State) : State := s.modCore ep fun c => { c with ready := l }
theorem witness_TasksAndDispatch_issue :
    goes { op := 0x307 } (ops m (r 6) (r 4) .none) (at4 2 0 more) (fun s1 v _ => passes s1 v.a.word 0 64 64 permR) = true
    ∧ goes { op := 0x308 } (ops m (r 6) (r 4) (r 7)) (withS [(7, ptr 3 0)] (at4 2 0 more)) (fun s1 v _ => passes s1 v.a.word 0 8 8 0xB
      && !s1.remoteFull) = true
    ∧ goes { op := 0x308 } (ops m (r 6) (r 4) (r 8)) (withS [(8, ptr 3 0)] (at4 2 0 more)) (fun s1 v _ => passes s1 v.a.word 0 8 8 0xB
      && passes s1 v.b.word 0 64 64 permR && !s1.remoteFull) = true
    ∧ goes { op := 0x309 } (ops m (r 6) (r 4) .none) (at4 2 0 more) (fun s1 v _ => passes s1 v.a.word 0 128 64 permR
      && match chkOf s1 v.a.word 0 128 64 permR with
        | .ok key e => s1.plainReady (cardLoad s1 key e v.a.word) && !(s1.readPath (readPlaces 1 0 0 e.kind) key s1.tick 128).2
        | _ => false) = true
    ∧ goes { op := 0x309 } (ops m (r 6) (r 4) .none) (at4 2 0 (more.markM 0x20000)) (fun s1 v _ => passes s1 v.a.word 0 128 64 permR
      && match chkOf s1 v.a.word 0 128 64 permR with
        | .ok key e => (s1.readPath (readPlaces 1 0 0 e.kind) key s1.tick 128).2
        | _ => false) = true
    ∧ goes { op := 0x309 } (ops m (r 9) (r 4) .none) (at4 2 0 (inIq [{ ldItem .release with id := 1, acq := true }] more)) (fun s1 v _ =>
      match chkOf s1 v.a.word 0 128 64 permR with
        | .ok key e => !s1.plainReady (cardLoad s1 key e v.a.word)
        | _ => false) = true := by decide +kernel
/-- 14 R285: the card is read as `spawn` issues; a store behind it does not change it. -/
theorem test_spawn_reads_card : completes (.spawn (ops m (r 6) (r 4) .none)) (at4 2 0 (memAt 0x20000 [7] more))
    (fun t => t.iq.map (fun it => match it.act with
      | .spawn card _ => lget card 0 4
      | _ => 0) == [7]) = true := by decide +kernel
theorem witness_TasksAndDispatch_events :
    (let s := readied 0 [readyTask] base
     s.dispatching 0 = true ∧ ((State.refill 2 s 0).core 0).freeSlot = some 1 ∧ ((State.refill 2 s 0).core 0).ready = [readyTask]
     ∧ chooseReady [readyTask] = some 0)
    ∧ State.reset.dispatching 0 = false
    ∧ (let s := deque 2 1 (grant [1, 2] base)
       (s.core 1).cap = some 1 ∧ s.dispatching 1 = true ∧ (s.core 1).ready = [] ∧ (s.core 1).deque = [] ∧ (s.core 1).freeSlot.isSome = true
       ∧ s.taskRoom 1 = true ∧ s.fullest ((s.squareCores (squareOf 1) 1).filter (· != 1)) = some 2 ∧ ((s.core 2).topTask).isSome = true)
    ∧ base.spcHeld 1 = false ∧ (base.modF fun f => { f with budget := 0 }).curF.budget = 0 ∧ base.curF.budget ≠ 0
    ∧ (∀ e ∈ base.caps, base.squareCores (0 * 256 + 1 * 64 + 0) e.1 = []) ∧ (∀ e ∈ base.caps, (base.cap e.1).rings = [])
    ∧ (base.chip 0).pools.get [] 0 = []
    ∧ (let s := deque 0 12 (grant [4] base)
       s.caps.map Prod.fst = [1] ∧ s.leastSquare 1 ((neighbours 0).filter fun x => !(s.squareCores x 1).isEmpty) = some 1
       ∧ s.squareLoad 1 1 + 8 < s.squareLoad 0 1 ∧ s.fullest [0] = some 0 ∧ s.emptiest [4] = some 4
       ∧ ((s.core 0).topTask).isSome = true ∧ (s.core 4).deque.length < Config.dequeDepth) := by decide +kernel
def node : Node := { cap := 1, card := zeros 128, ptr := 0, src := 0, slot := 0, target := some 0 }
def ringed : State :=
  let s := ((grant [1, 2] base).modCap 1 fun c => { c with
    rings := (List.range 15).map fun n => (n, { queue := n, low := 0, high := if n = 0 then 1 else 5 })
    actors := [{ placedActor with stage := 2, ep := 1 }, { placedActor with stage := 2, ep := 2 }] })
  s.modChip 0 fun h => { h with workQueues := [(0, { cap := 1, die := 0, q := 0, entries := [went] })] }
theorem witness_TasksAndDispatch_pool :
    cardTiles node.card ≤ node.tile ∧ node.waiting = [] ∧ base.taskRoom 0 = true
    ∧ (let s := ringed
       let ring := fun i => (s.cap 1).rings.get { queue := 0, low := 0, high := 0 } i
       let load := fun i => (s.chip 0).occupancy 1 0 (ring i).queue
       15 ≤ (s.cap 1).rings.length ∧ bestOf load true ((List.range 15).filter fun i => decide ((ring i).high ≤ load i)) = some 0
       ∧ bestOf (fun i => load (i - 1)) false (((List.range 16).drop 1).filter fun i => i != 1 &&
          decide (2 ≤ ((s.cap 1).stageCores 0 0 i).length) && decide (load (i - 1) ≤ (ring (i - 1)).low)) = some 2
       ∧ ((s.cap 1).stageCores 0 0 2).getLast? = some 2) := by decide +kernel
theorem test_steal_top : nexts (.steal 1) (deque 2 1 (grant [1, 2] base)) (fun t => (t.core 2).deque.isEmpty && (t.core 1).ready == [readyTask]) = true := by
  decide +kernel
theorem test_governor_moves : nexts (.governorMove 0 0) ringed (fun t => (t.cap 1).actors.map Actor.stage == [2, 1]) = true := by decide +kernel
theorem test_balance_halves : nexts (.hawkerBalance 0 0 0) (deque 0 12 (grant [4] base)) (fun t => (t.core 0).deque.length == 6 && (t.core 4).deque.length == 6) = true := by
  decide +kernel
theorem test_budget_exhausted : nexts (.budgetExhausted 0 0) (base.modF fun f => { f with budget := 0 }) (faultIs 0x0B (2 ^ 32) 0) = true := by decide +kernel

def mem1 (mode sp wp known : Nat) : Member := { cap := 1, actor := 0, ep := 0, mode := mode, sp := sp, wp := wp, known := known }
def phased (x : Member) (s : State) : State := withS [(4, phHandle 0 1)] (s.setPhaser 0 { live := true, cap := 1, members := [x], phase := x.known })
def isMem (s1 : State) (f : Member → Bool) : Bool :=
  phKey (phHandle 0 1) == some (0, 1) && s1.curF.isActor && (s1.livePhaser 0 1).any fun p => (p.member 1 0).any f
def waiting (w : Wait) (s : State) : State := s.modCur fun x => { x with wait := w }
theorem witness_Phasers_issue :
    goes { op := 0x312 } (ops m (r 4) .none .none) (phased (mem1 3 0 0 0) base) (fun s1 v _ => v.d.word == phHandle 0 1
      && isMem s1 fun x => x.mode != 2 && decide (x.sp ≤ x.known)) = true
    ∧ goes { op := 0x312 } (ops m (r 4) .none .none) (phased (mem1 1 1 0 0) base) (fun s1 _ _ => isMem s1 fun x => decide (x.known < x.sp)) = true
    ∧ goes { op := 0x312 } (ops m (r 4) .none .none) (phased (mem1 2 0 0 0) base) (fun s1 _ _ => isMem s1 fun x => x.mode == 2) = true
    ∧ goes { op := 0x313 } (ops m (r 4) .none .none) (phased (mem1 2 0 0 1) base) (fun s1 _ _ => isMem s1 fun x => x.mode != 1 && decide (x.wp < x.known)) = true
    ∧ goes { op := 0x313 } (ops m (r 4) .none .none) (phased (mem1 2 0 0 0) base) (fun s1 _ _ => isMem s1 fun x => x.mode != 1 && decide (x.known ≤ x.wp)) = true
    ∧ goes { op := 0x313 } (ops m (r 4) .none .none) (phased (mem1 1 0 0 0) base) (fun s1 _ _ => isMem s1 fun x => x.mode == 1) = true
    ∧ goes { op := 0x314 } (ops m (r 4) .none .none) (phased (mem1 3 0 0 0) base)
      (fun s1 _ _ => isMem s1 fun x => x.mode == 3 && decide (x.sp ≤ x.known)) = true
    ∧ goes { op := 0x314 } (ops m (r 4) .none .none) (phased (mem1 3 1 0 0) base)
      (fun s1 _ _ => isMem s1 fun x => x.mode == 3 && decide (x.known < x.sp)) = true
    ∧ goes { op := 0x314 } (ops m (r 4) .none .none) (phased (mem1 2 0 0 0) base) (fun s1 _ _ => isMem s1 fun x => x.mode != 3) = true
    ∧ [1, 2].all (fun k => goes { op := 0x315 } (ops m (r 6) (r 4) (i 9)) (phased (mem1 k 0 0 0) base) (fun s1 v _ => v.a.word == phHandle 0 1
      && isMem s1 fun x => x.mode == k)) = true
    ∧ goes { op := 0x311 } (ops m (r 4) .none .none) (phased (mem1 3 0 0 0) base) (fun s1 _ _ => isMem s1 fun _ => true) = true
    ∧ goes { op := 0x316 } (ops m (r 6) (r 4) .none) (phased (mem1 3 0 0 0) base) (fun s1 _ _ => isMem s1 fun _ => true) = true
    ∧ [1, 3].all (fun n => goes { op := 0x310 } (ops m (r 6) (r 4) (i n)) (phased (mem1 3 0 0 0) base) (fun _ v _ => !v.a.isImm && v.b.word == BitVec.ofNat 64 n)) = true
    ∧ [1, 3].all (fun n => goes { op := 0x310 } (ops m (r 6) (i 0) (i n)) base (fun s1 v _ => v.a.isImm && v.a.word == 0 && s1.curF.isActor
      && !(s1.phaser 0).live && decide (s1.memberRecords 0 < Config.memberCount))) = true
    ∧ goes { op := 0x312 } (ops m (r 4) .none .none) (withS [(4, 2 ^ 48)] base) (fun _ v _ => (phKey v.d.word).isNone) = true
    ∧ [0x311, 0x313, 0x314].all (fun op => goes { op := op } (ops m (r 4) .none .none) (withS [(4, 2 ^ 48)] base)
      (fun _ v _ => (phKey v.d.word).isNone)) = true
    ∧ [base, phased { mem1 3 0 0 0 with actor := 1 } base, (phased (mem1 3 0 0 0) base).modF fun f => { f with kind := .task }].all
      (fun s => goes { op := 0x315 } (ops m (r 6) (r 4) (i 9)) (withS [(4, phHandle 0 1)] s) fun s1 v _ => match phKey v.a.word with
        | some (key, gen) => (s1.livePhaser key gen).isNone || !s1.curF.isActor
          || (s1.livePhaser key gen).all fun p => (p.member s1.curF.cap s1.curF.actor).isNone
        | none => false) = true := by decide +kernel
/-- 14 R289: no member record behind a live handle. -/
theorem test_ph_sig_no_member : nexts (.phSig (ops m (r 4) .none .none)) (phased { mem1 3 0 0 0 with actor := 1 } base)
    (faultIs 0x0E (phHandle 0 1) 0) = true := by decide +kernel
def phr (a : PhAct) : PhReq := { key := 0, gen := 1, cap := 1, actor := 0, ep := 0, slot := 0, id := 50, dst := .s 6, act := a }
def phItem (a : Act) : Item := { item a with id := 50 }
def performing (a : Act) : State := { phased (mem1 3 1 0 0) base with iq := [phItem a] }
def held1 (limit : Option Nat) : PhWait :=
  { id := 50, fir := 1, cap := 1, actor := 0, slot := 0, key := 0, gen := 1, limit := limit, dst := .s 6 }
def waits1 (limit : Option Nat) : State :=
  (waiting (.item 50) (phased (mem1 3 1 0 0) base)).modCore 0 fun c => { c with cycles := 10, phWaits := [held1 limit] }
def two : Phaser := { live := true, cap := 1, members := [mem1 3 1 0 0, { mem1 1 0 0 0 with actor := 1 }] }
theorem witness_Phasers_events :
    [PhAct.stat, .register 2].all (fun a => let s := { phased (mem1 3 1 0 0) base with phq := [phr a] }
      s.phq[0]? == some (phr a) && (s.livePhaser 0 1).isSome && s.phq.take 0 == []) = true
    ∧ [Act.phSig 0 1 0 0, .phDrop 0 1 0].all (fun a => let s := performing a
      s.iq[0]? == some (phItem a) && !s.barred (phItem a) && s.phq == [] && (s.livePhaser 0 1).any fun p => s.relReady (phItem a) p.scope) = true
    ∧ (let p : Phaser := { live := true, cap := 1, members := [mem1 3 0 0 0] }
       (p.member 1 0).isSome = true ∧ p.arrivals = 0 ∧ { p with arrivals := 1 }.arrivals ≠ 0 ∧ (p.member 1 1).isNone = true
       ∧ base.accepts 1 1 = true ∧ base.accepts 1 9 = false ∧ base.memberRecords 0 < Config.memberCount ∧ p.members.length < 65535)
    ∧ ((phased (mem1 3 0 0 0) base).phaser 0).live = true
    ∧ (∃ p m, (waits1 none).livePhaser 0 1 = some p ∧ p.member 1 0 = some m ∧ m.wp = 0 ∧ m.known = 0) ∧ (0 : Nat) < 1
    ∧ ((waits1 (some 9)).slot 0 0).wait = .item 50 ∧ ((waits1 (some 9)).core 0).phWaits = [held1 (some 9)]
    ∧ 9 < ((waits1 (some 9)).core 0).cycles.toNat
    ∧ two.signallers = 2 ∧ two.arrivals + 1 < two.signallers ∧ two.signallers ≤ { two with arrivals := 1 }.arrivals + 1
    ∧ (1 : Nat) ≠ two.phase := by
  refine ⟨by decide +kernel, by decide +kernel, by decide +kernel, by decide +kernel, ⟨_, _, rfl, rfl, rfl, rfl⟩, by decide +kernel,
    by decide +kernel, by decide +kernel, by decide +kernel, by decide +kernel, by decide +kernel, by decide +kernel, by decide +kernel⟩
/-- 14 R290, R291: `ph.sw` signals and holds its slot, and a timed wait whose limit has passed returns 1. -/
theorem test_ph_sw_holds : nexts (.phSw (ops m (r 4) .none .none)) (phased (mem1 3 0 0 0) base)
    (fun t => t.curF.pc == 9 && (t.phaser 0).members.map Member.sp == [1] && t.iq.length == 1 && t.curC.phWaits.length == 1) = true := by
  decide +kernel
theorem test_ph_twait_expires : nexts (.phTwaitExpiry 0 0) (waits1 (some 9) |>.modSlot 0 0 fun x => x.setSReg 6 { pend := some 50 })
    (fun t => sv 6 1 t && t.cur.wait == .none && t.curC.phWaits.isEmpty) = true := by decide +kernel
theorem test_last_arrival_completes : (two.arrive 0).arrivals = 1 ∧ ((two.arrive 0).arrive 0).phase = 1 ∧ ((two.arrive 0).arrive 0).arrivals = 0 := by decide +kernel
theorem test_ph_create : completes (.phReg (ops m (r 6) (i 0) (i 3))) base (fun t => sv 6 1 t && (t.phaser 0).live) = true := by decide +kernel

/-! The event crossbar and the system family. -/

theorem witness_CrossbarAndControl :
    [0, 15].all (fun n => goes { op := 0x320 } (ops m (i n) (r 4) .none) (withS [(4, 0x11F)] base) (fun _ v _ => (counterOf v.a.word.toNat).isSome)) = true
    ∧ [16, 23].all (fun n => goes { op := 0x320 } (ops m (i n) (r 4) .none) (withS [(4, 1)] base) (fun _ v _ => (termOf v.a.word.toNat).isSome)) = true
    ∧ goes { op := 0x320 } (ops m (i 0) (r 4) .none) (withS [(4, 0)] base) (fun _ v _ => (counterOf v.a.word.toNat).isNone) = true
    ∧ goes { op := 0x320 } (ops m (i 24) (r 4) .none) (withS [(4, 0)] base) = true
    ∧ [0, 7, 8].all (fun n => goes { op := 0x321 } (ops m (i n) (i 1) .none) base (fun _ v _ => v.a.word.toNat == 1)) = true
    ∧ [0, 15, 16].all (fun n => goes { op := 0x322 } (ops m (i n) .none .none) base) = true
    ∧ [0, 15, 64 + 0, 128, 139, 192, 207].all (fun n => goes { op := 0x318 } (ops m (r 6) (i n) .none) (boxed (box0 []) base)
      (fun s1 v _ => v.a.word == BitVec.ofNat 64 n && (s1.ownBox 0).isSome)) = true
    ∧ goes { op := 0x328 } (ops m (r 6) (i 15) (i 0)) base (fun _ v _ => v.a.word == 15 && v.b.word == 0) = true
    ∧ goes { op := 0x328 } (ops m (r 6) (i 14) (r 4)) (withS [(4, 511 * 2 ^ 8 + 511 * 2 ^ 20 + 15)] base) (fun s1 v _ =>
      v.a.word == 14 && v.b.word == 511 * 2 ^ 8 + 511 * 2 ^ 20 + 15 && s1.curCap.stagesUniform && ((s1.chip 0).bindAll 1 15 s1.curCap.dies).isSome) = true
    ∧ [1, 2 ^ 32 - 1, 0, 2 ^ 32].all (fun n => goes { op := 0x329 } (ops m (r 6) (r 4) .none) (withS [(4, BitVec.ofNat 64 n)] base)
      (fun s1 v _ => v.a.word.toNat == n && s1.curF.budget == 2 ^ 32)) = true
    ∧ (let k : Counter := { c := 4, threshold := 5, source := 31 }
       k.c + 1 = k.threshold ∧ k.t ≠ 255 ∧ { k with t := 255 }.t = 255 ∧ { k with c := 0 }.c + 1 ≠ k.threshold)
    ∧ (let c : Core := { counters := [(0, { t := 1, threshold := 1 })] }
       let t : Term := { mask := 1, armed := 1 }
       t.armed ≠ 0 ∧ t.mask ≠ 0 ∧ t.isOr = false ∧ 0 < (c.counter 0).t ∧ (c.counter 1).t = 0 ∧ { t with isOr := true }.isOr = true) := by decide +kernel
/-- Counter 0 holds a token, counter 1 gains one with its next pulse; term 0 needs both and posts nothing. -/
def crossed (action arg : Nat) : State := base.modCurC fun c => { c with
  counters := [(0, { t := 1, threshold := 1, source := 31 }), (1, { threshold := 1, source := 31 })]
  terms := [(0, { mask := 3, armed := 1, action := action, arg := arg })] }
def tokened (action arg : Nat) : State := (crossed action arg).modCurC fun c => c.pulse 1
def evItem : Item := item (.evpulse 1)
theorem witness_CrossbarAndControl_stops :
    [16, 23].all (fun n => goes { op := 0x320 } (ops m (i n) (r 4) .none) (withS [(4, 2 ^ 22)] base) (fun _ v _ => (termOf v.a.word.toNat).isNone)) = true
    ∧ [0, 7].all (fun n => goes { op := 0x321 } (ops m (i n) (r 4) .none) (withS [(4, 2 ^ 16)] base) (fun _ v _ => decide (0xFFFF < v.a.word.toNat))) = true
    ∧ [0x320, 0x321, 0x322].all (fun op => goes { op := op } (ops m (.imm (-1)) (if op = 0x322 then .none else r 4) .none) base) = true
    ∧ goes { op := 0x318 } (ops m (r 6) (i 0) .none) (wq0 [went] true base)
      (fun s1 _ _ => ((s1.chip 0).boundQueue 0 0 s1.curF.cap).isSome) = true
    ∧ [64, 16, 140, 208, 215, 216, 256].all (fun n => goes { op := 0x318 } (ops m (r 6) (i n) .none) base
      (fun s1 v _ => v.a.word == BitVec.ofNat 64 n && (s1.ownBox 0).isNone)) = true
    ∧ goes { op := 0x328 } (ops m (r 6) (i 15) (i 1)) base (fun _ v _ => v.a.word == 15 && v.b.word == 1) = true
    ∧ [16, 0xFFFFF].all (fun n => goes { op := 0x328 } (ops m (r 6) (i n) (i 0)) base
      (fun _ v _ => decide (v.a.word.toInt < 0) || decide (15 < v.a.word.toInt))) = true
    ∧ goes { op := 0x328 } (ops m (r 6) (i 0) (i 16)) base (fun _ v _ => v.b.word == 16) = true
    ∧ goes { op := 0x328 } (ops m (r 6) (i 0) (r 4)) (withS [(4, 2 ^ 20)] base) (fun _ v _ => v.b.word == 2 ^ 20) = true
    ∧ goes { op := 0x328 } (ops m (r 6) (i 0) (i 0)) (base.modChip 0 fun h => { h with workQueues := (List.range 256).map fun n => (n, { cap := 2, die := 0, q := n % 16 }) })
      (fun s1 _ _ => ((s1.chip 0).bindAll 1 0 s1.curCap.dies).isNone) = true := by decide +kernel
theorem witness_CrossbarAndControl_words :
    counterOf (2 ^ 24 + 0x100) = none ∧ counterOf 0x108 = none ∧ counterOf 0x11F = some { threshold := 1, source := 31 }
    ∧ termOf (2 ^ 40) = none ∧ termOf (2 ^ 24) = none ∧ termOf (2 ^ 20 + 4 * 2 ^ 24) = none ∧ termOf (3 * 2 ^ 20 + 16 * 2 ^ 24) = none
    ∧ termOf (3 * 2 ^ 20 + 15 * 2 ^ 24 + 2 ^ 16 + 1) = some { mask := 1, isOr := true, action := 3, arg := 15 } := by decide +kernel
theorem witness_CrossbarAndControl_terms :
    (((crossed 0 0).core 0).counter 1).t < ((((crossed 0 0).modCore 0 fun c => c.pulse 1).core 0).counter 1).t
    ∧ (((base.modCore 0 fun c => c.pulse 1).core 0).counter 1).t ≤ ((base.core 0).counter 1).t
    ∧ evItem.act = .evpulse 1 ∧ ({ crossed 0 0 with iq := [evItem] } : State).barred evItem = false
    ∧ ({ crossed 0 0 with iq := [evItem] } : State).bufferEmpty evItem = true
    ∧ ({ crossed 0 0 with iq := [evItem], entries := [{ id := 9, place := .sb 1, core := 0, key := 0, bytes := [0], party := 1, cap := 1, kind := .release, fenced := false }] } : State).bufferEmpty evItem = false
    ∧ (List.range 8).all (fun j => !base.termActs 0 j) = true ∧ (tokened 0 0).termActs 0 0 = true
    ∧ [0, 1, 2, 3].all (fun a => let s := tokened a 0
        (s.core 0).cap == some 1 && (s.core 0).termReady ((s.core 0).term 0) == some [0, 1] && s.held.isEmpty
        && ((s.cap 1).actors[0]?).isSome) = true := by decide +kernel
/-- 14 R294, R296: the pulse that gives counter 1 its token lets term 0 act: a token of each is taken, and the pulse of its
action goes to counter 5. -/
theorem test_term_acts : nexts (.issueQueuePerform 0 0) { crossed 3 5 with iq := [evItem] }
    (fun t => (t.curC.counter 0).t == 0 && (t.curC.counter 1).t == 0 && (t.curC.term 0).armed == 0 && (t.curC.term 0).actions == 1
      && (t.curC.counter 5).c == 1) = true := by decide +kernel
theorem test_pulse_token : ({ c := 4, threshold := 5, source := 31 } : Counter).pulse = { c := 0, t := 1, threshold := 5, source := 31 } := by decide
theorem test_budget_returns_old : completes (.budget (ops m (r 6) (i 5) .none)) base (fun t => sv 6 (2 ^ 32) t && t.curF.budget == 5) = true := by decide +kernel
theorem witness_SpecialRegisters :
    (List.range 15).all (fun n => goes { op := 0x350 } (ops m (r 6) (.special (Fin.ofNat 15 n)) .none) base (fun s1 v _ => v.a == .special n && s1.allDone)) = true
    ∧ goes { op := 0x350 } (ops m (r 9) (.special 8) .none) (inIq [ldItem .release] base) (fun s1 _ _ => !s1.allDone) = true
    ∧ [0, 0x21, 0x20].all (fun n => goes { op := 0x350 } (ops m (r 6) (i n) .none) base (fun _ v _ => v.a == .imm (BitVec.ofNat 64 n))) = true
    ∧ (List.range 15).all (fun n => goes { op := 0x351 } (ops m (.special (Fin.ofNat 15 n)) (r 4) .none) (withS [(4, 4)] base) (fun s1 v _ => s1.allDone
      && v.a.word == 4)) = true
    ∧ goes { op := 0x351 } (ops m (.special 7) (r 4) .none) (withS [(4, 5)] base) (fun _ v _ => decide (5 ≤ v.a.word.toNat % 8)) = true
    ∧ [1, 0x23].all (fun n => goes { op := 0x351 } (ops m (i n) (r 4) .none) base) = true
    ∧ [7, 9].all (fun n => goes { op := 0x351 } (ops m (.special (Fin.ofNat 15 n)) (r 4) .none) (inIq [ldItem .release] base) (fun s1 _ _ => !s1.allDone)) = true
    ∧ goes { op := 0x351 } (ops m (.special 10) (r 4) .none) (withS [(4, 2)] base) (fun _ v _ => decide (2 ≤ v.a.word.toNat)) = true
    ∧ goes { op := 0x351 } (ops m (.special 6) (r 4) .none) (withS [(4, 2 ^ 32)] base) (fun _ v _ => decide (2 ^ 32 ≤ v.a.word.toNat)) = true
    ∧ goes { op := 0x351 } (ops m (i 0x21) (r 4) .none) (at4 2 0 more) (fun s1 v _ => passes s1 v.a.word 0 64 64 3) = true
    ∧ goes { op := 0x351 } (ops m (i 0x22) (r 4) .none) (withS [(4, 1023)] base) (fun _ v _ => v.a.word.toNat == 1023) = true := by decide +kernel
theorem test_fctl_keeps_trit : completes (.syswr (ops m (.special 7) (r 4) .none)) (withFctl 0x10 (withS [(4, 3)] base)) (fun t => t.cur.fctl == 0x13) = true := by
  decide +kernel
theorem test_sysrd_cap : completes (.sysrd (ops m (r 6) (.special 3) .none)) base (sv 6 1) = true := by decide +kernel

def leaseW : Word := 4 + 2 * 2 ^ 8 + 0xFFFF * 2 ^ 16
def derives (attr : Nat) : State := withS [(4, ptr 2 64), (8, 64), (9, BitVec.ofNat 64 attr)] more
theorem witness_ExtentsAndCapsules :
    [0, 3].all (fun f => goes { op := 0x342 } (ops m (r 6) (i 2) (i f)) more (fun s1 v _ => v.b.word == BitVec.ofNat 64 f && (s1.curCap.extents.find 2).isSome)) = true
    ∧ [0, 3].all (fun f => goes { op := 0x342 } (ops m (r 6) (i 63) (i f)) more (fun s1 _ _ => (s1.curCap.extents.find 63).isNone)) = true
    ∧ goes { op := 0x342 } (ops m (r 6) (i 2) (i 4)) more = true
    ∧ [0, 4096].all (fun off => goes { op := 0x343 } (ops m (r 6) (r 4) .none) (at4 4 off more) (fun s1 v _ =>
      (s1.curCap.extents.find (ptrSlot v.a.word)).any fun e => e.has permG && decide (ptrOff v.a.word < e.viewLen 4)
        && (e.short 4 (ptrOff v.a.word) 1 == (off == 4096)))) = true
    ∧ [4, 63].all (fun n => goes { op := 0x341, reads := fun o => pairReads 2 o.b } (ops m (i n) (r 4) (r 8)) (derives 0x043)
      (fun s1 v _ => v.b.word != 0 && decide (s1.curCap.imageSlots ≤ n) && (v.reg 9).toNat == 0x043
        && (match deriveExtent s1.curCap s1.curSlot v.a.word v.b.word.toNat 0x043 with | .ok _ => true | .error _ => false))) = true
    ∧ goes { op := 0x341, reads := fun o => pairReads 2 o.b } (ops m (i 4) (r 4) (r 8)) (derives 0x047)
      (fun s1 v _ => (match deriveExtent s1.curCap s1.curSlot v.a.word v.b.word.toNat 0x047 with | .ok _ => false | .error _ => true)) = true
    ∧ goes { op := 0x341, reads := fun o => pairReads 2 o.b } (ops m (i 4) (r 4) (r 8)) (withS [(8, 0)] (derives 0)) (fun _ v _ => v.b.word == 0) = true
    ∧ [7, 8].all (fun n => goes { op := 0x340 } (ops m (r 6) (r 4) (r 5)) (withS [(4, ptr 2 0), (5, 0xFFFF + 1024 * 2 ^ 20)] (more.modCap 1 fun c => { c with emits := n }))
      (fun s1 v _ => passes s1 v.a.word 0 1024 64 permR && v.b.word.toNat / 2 ^ 17 % 8 == 0 && s1.curCap.emits == n)) = true
    ∧ goes { op := 0x349 } (ops m (r 6) (r 4) .none) (at4 2 0 more) = true ∧ goes { op := 0x34A } (ops m (r 6) (r 4) .none) (at4 2 0 more) = true
    ∧ goes { op := 0x348 } (ops m (r 6) (i 1) (r 5)) (withS [(5, leaseW)] pod2) (fun s1 v _ => v.a.word == 1 && v.b.word == leaseW && s1.isMember 0 1
      && s1.curCap.leases.isEmpty && (s1.caps.find 1).isSome) = true
    ∧ goes { op := 0x352 } (ops m (r 7) (r 4) (r 5)) (withS [(4, ptr 3 0), (5, ptr 2 0), (7, 0xFFFE)] more) (fun s1 v _ =>
      passes s1 v.a.word 0 32 8 permR && passes s1 v.b.word 0 640 64 permW && !s1.remoteFull && v.d.word.toNat == 0xFFFE
      && ((s1.curCap.extents.find 3).bind fun e => s1.readNonce v.a.word 0x30000 e) == some (zeros 32, false)) = true := by decide +kernel
def leased (l : AMap LeaseEnt) : State := withS [(5, leaseW)] (pod2.modCap 1 fun c => { c with leases := l })
def aLease (peer : Nat) : LeaseEnt := { gen := 1, live := true, peer := peer, max := 4, min := 2 }
def noG : State := withS [(4, ptr 5 0)] more
theorem witness_ExtentsAndCapsules_stops :
    goes { op := 0x342 } (ops m (r 6) (r 4) (i 0)) (withS [(4, 64)] more) (fun _ v _ => decide (63 < v.a.word.toNat)) = true
    ∧ goes { op := 0x343 } (ops m (r 6) (r 4) .none) (withS [(4, ptr 63 0)] more) (fun s1 _ _ => (s1.curCap.extents.find 63).isNone) = true
    ∧ goes { op := 0x343 } (ops m (r 6) (r 4) .none) noG (fun s1 _ _ => (s1.curCap.extents.find 5).any fun e => !e.has permG) = true
    ∧ goes { op := 0x343 } (ops m (r 6) (r 4) .none) (withS [(4, ptr 4 8192)] more)
      (fun s1 v _ => (s1.curCap.extents.find 4).any fun e => e.has permG && decide (e.viewLen 4 ≤ ptrOff v.a.word)) = true
    ∧ (more.chip (chipOf (item .fence).ep)).frozen = false
    ∧ goes { op := 0x348 } (ops m (r 6) (i 1) (r 5)) (leased ((List.range 8).map fun n => (n, aLease (n + 2))))
      (fun s1 _ _ => (List.range 8).all fun j => (s1.curCap.leases.get {} j).live) = true
    ∧ goes { op := 0x348 } (ops m (r 6) (i 2) (r 5)) (leased []) (fun s1 _ _ => !s1.isMember 0 2) = true
    ∧ goes { op := 0x348 } (ops m (r 6) (i 1) (r 5)) (leased [(0, aLease 1)]) (fun s1 _ _ => s1.curCap.leases.any fun e => e.2.live && e.2.peer == 1) = true
    ∧ [0x0104, 0x0004, 0x0204 + 0x100 * 126 - 0x200, 0x0141, 0x0302].all (fun w => goes { op := 0x348 } (ops m (r 6) (i 1) (r 5))
      (withS [(5, BitVec.ofNat 64 w)] pod2) (fun _ v _ => v.b.word.toNat == w)) = true
    ∧ [0, 64].all (fun n => goes { op := 0x348 } (ops m (r 6) (i n) (r 5)) (withS [(5, leaseW)] pod2) (fun s1 v _ =>
      decide (63 < v.a.word.toNat) || v.a.word.toNat == chipOf s1.curCore)) = true := by decide +kernel
theorem test_lease_joins_queue : completes (.lease (ops m (r 6) (i 1) (r 5))) (leased [])
    (fun t => sv 6 (2 ^ 32 + 1) t && ((t.chip 0).fabric.queue.map LeaseRef.peer) == [1]) = true := by decide +kernel
/-- 03 R43: the attribute word is read with the other operands, before a last-use mark frees its register. -/
theorem test_xderive_last_use : nexts (.xderive (ops m (i 4) (.s 9 true) (r 8))) (withS [(8, 64), (9, ptr 2 64)] more)
    (fun t => t.cur.wait == .none && (t.cap 1).records.map FaultRec.code == [0x03]) = true := by decide +kernel
theorem test_xinfo_length : completes (.xinfo (ops m (r 6) (i 1) (i 1))) base (sv 6 0x40000) = true := by decide +kernel
theorem test_xderive_narrows : (match deriveExtent (more.cap 1) 0 (ptr 2 64) 64 0x043 with
    | .ok e => e.base == 0x20040 && e.comm == 64 && e.derived
    | .error _ => false) = true := by decide +kernel

def trapRec : FaultRec := { code := 0x15, cls := 4, action := 2, nested := false, word := 8, cap := 1, ep := 0, actor := 0, slot := 0, fkind := 0
                            seq := 1, stamp := 0, info0 := 5, info1 := 6, info2 := 0, info3 := 0 }
def trapped (next budget : Bool) (s : State) : State :=
  s.modF fun f => { f with trap := some { record := trapRec, retWord := 20, resumeNext := next, budget := budget } }
def wantTrap (s1 : State) (next budget : Bool) : Bool := s1.curF.trap.any fun t => t.resumeNext == next && t.budget == budget
theorem witness_TrapInstructions :
    [0, 65535].all (fun n => goes { op := 0x360, reads := fun _ => [(3, 4)] } (ops m (i n) .none .none) (withS [(4, 9)] base)
      (fun _ _ _ => (Operand.val (i n)).word == BitVec.ofNat 64 n)) = true
    ∧ goes { op := 0x360, reads := fun _ => [(3, 4)] } (ops m (i 65536) .none .none) (withS [(4, 9)] base) = true
    ∧ 65535 < ((Operand.val (i 65536)).word).toInt ∧ 2 < ((Operand.val (i 3)).word).toInt
    ∧ [0, 1, 2, 3].all (fun n => goes { op := 0x361 } (ops m (i n) .none .none) base (fun s1 _ _ => s1.curF.trap.isNone)) = true
    ∧ goes { op := 0x361 } (ops m (i 0) .none .none) (trapped true false base) (fun s1 _ _ => wantTrap s1 true false) = true
    ∧ goes { op := 0x361 } (ops m (i 1) .none .none) (trapped true false base) (fun s1 _ _ => wantTrap s1 true false) = true
    ∧ goes { op := 0x361 } (ops m (i 1) .none .none) (trapped false false base) (fun s1 _ _ => wantTrap s1 false false) = true
    ∧ goes { op := 0x361 } (ops m (i 2) .none .none) (trapped true false base) (fun s1 _ _ => wantTrap s1 true false && s1.curF.shadow.isNone
      && s1.settled s1.curF) = true
    ∧ goes { op := 0x361 } (ops m (i 0) .none .none) (inIq [ldItem .release] (trapped false true base))
      (fun s1 _ _ => wantTrap s1 false true && !(s1.settled s1.curF)) = true
    ∧ [0, 7].all (fun n => goes { op := 0x362 } (ops m (r 6) (i n) .none) base (fun s1 v _ => v.a.word == BitVec.ofNat 64 n && s1.curF.trap.isNone)
      && goes { op := 0x362 } (ops m (r 6) (i n) .none) (trapped true false base) (fun s1 _ _ => s1.curF.trap.isSome)) = true
    ∧ goes { op := 0x363 } (ops m (r 6) (r 4) .none) (at4 2 0 more) = true
    ∧ goes { op := 0x364, reads := fun o => pairReads 0 o.d } (ops m (r 8) .none .none) (withS [(8, 1), (9, 2)] (base.modCap 1 fun c => { c with contSlot := 2 }))
      (fun s1 _ _ => s1.curF.isActor && s1.curCap.contSlot == 2 && isOk (checkAccess s1.curCap 0 2 (16 * s1.curF.actor : Nat) 16 16 permW)) = true
    ∧ [r 7, v 3, p 2, t 3].all (fun a => goes { op := 0x365, unchecked := [1] } (ops m (r 6) a .none) base) = true
    ∧ goes { op := 0x366 } (ops m (r 6) (r 4) .none) (at4 2 0 more) (fun s1 _ _ => s1.curF.shadow.isNone) = true
    ∧ goes { op := 0x366 } (ops m (r 6) (v 3) .none) (withV [(3, 5, .i8)] base) (fun s1 _ _ => s1.curF.shadow.isNone) = true := by decide +kernel
theorem test_tret_resumes_behind : nexts (.tret (ops m (i 1) .none .none)) (trapped true false base) (fun t => t.curF.pc == 21 && t.curF.trap.isNone) = true := by
  decide +kernel
theorem test_fltrd_info : completes (.fltrd (ops m (r 6) (i 4) .none)) (trapped true false base) (sv 6 5) = true := by decide +kernel
def handled (policy : Nat) : State := (base.modCap 1 fun c => { c with policy := policy }).modF fun f =>
  let c := placedCode (0x20 * 2 ^ 86)
  { f with code := c.take 112 ++ [8] ++ c.drop 113 }
def handlerOk (s : State) (w : Nat) : Bool := match handlerFetch s s.curF w with | .ok _ => true | .error _ => false
theorem witness_FaultTaken :
    (base.slot 0 0).firing.isSome = true ∧ (base.caps.find 1).isSome = true ∧ (base.cap 1).state = .running ∧ bits (base.cap 1).policy 0 2 = 0
    ∧ bits ((handled 1).cap 1).policy 0 2 = 1 ∧ ((handled 1).cap 1).contSlot = 0xFF
    ∧ bits ((handled 2).cap 1).policy 0 2 = 2 ∧ clsPrecise ≠ clsMismatch ∧ codeEntry (handled 2).curF.code 0 = 8 ∧ handlerOk (handled 2) 8 = true
    ∧ handlerOk (base.modCap 1 fun c => { c with policy := 2 }) 0 = false
    ∧ (trapped true false base).curF.trap.isSome = true ∧ ((base.modCap 1 fun c => { c with contSlot := 2 }).cap 1).contSlot ≠ 0xFF := by decide +kernel
/-- The code extent may grow and has nothing committed; the firing waits for the first word of its handler. -/
def starved : State := growing 0 12 (((trapped true false base).modCap 1 fun c => { c with
  policy := 2, extents := (0, { base := 0x10000, home := 0, length := 4096, comm := 0, attr := 0x065, owner := 7 }) :: c.extents.drop 1 }).modF
    fun f => { f with pc := codeEntry f.code 0 })
theorem witness_FaultTaken_growth : starved.curF.trap.isSome = true ∧ starved.curF.unknown = [] ∧ (starved.chip (chipOf 0)).frozen = false
    ∧ (starved.growExtent 1 0 12).2 = false ∧ bits (starved.cap 1).policy 8 8 = 0 ∧ starved.curF.pc = codeEntry starved.curF.code 0
    ∧ (fetchGrowth (starved.cap 1) starved.curF.pc).isSome = true := by decide +kernel
/-- 21 R394: growth denied at the handler's first word is Handler-fetch, and the capsule terminates. -/
theorem test_handler_growth_denied : nexts (.stackGrowth 0 0) starved
    (fun t => (t.cap 1).state == .terminating && (t.cap 1).records.map (fun f => (f.code, f.info1)) == [(0x11, 0x06)]) = true := by decide +kernel
theorem test_handler_starts : ((handled 2).takeFault 0 0 ⟨0x0D, 4, 8⟩ clsPrecise 8 8).curF.pc = 8
    ∧ ((handled 2).takeFault 0 0 ⟨0x0D, 4, 8⟩ clsPrecise 8 8).cur.fltinfo0 = 4 := by decide +kernel
theorem test_policy_parks : ((base.modCap 1 fun c => { c with policy := 1, contSlot := 2 }).takeFault 0 0 ⟨0x0D, 4, 8⟩ clsPrecise 8 8 |>.cap 1).state
    = .parking 2 := by decide +kernel

/-! The machine outside the cores. -/

/-- A published slot of type ty: scopes device, the trailer's valid byte of the first lap. -/
def packet (ty : Nat) (body : List Byte) (signal : Nat) : List Byte :=
  toBytes 2 signal ++ zeros 6 ++ body ++ zeros (244 - body.length) ++ toBytes 4 (5 * 2 ^ 10 + 5 * 2 ^ 13 + ty * 2 ^ 20 + 2 ^ 24)
def cq (l : List Packet) : CQueue :=
  { desc := 0x20000, ring := 0x21000, slots := 4, priority := 1, enabled := true, signals := 0x22000, nsignals := 4, ownerKey := 0
    cap := none, regNo := 1, packets := l }
def queuedUp (l : List Packet) (s : State) : State := s.modChip 0 fun h => { h with queues := [(3, cq l)], looks := [3] }
def pk (ty : Nat) (body : List Byte) (signal : Nat := 0xFFFF) : Packet := { k := 0, bytes := packet ty body signal }
def fits (p : Packet) : Bool := !p.started && p.serial && !p.malformed 4 && !p.strayed 4
theorem witness_QueuesAndPackets_take :
    let s := memAt 0x21000 (packet 0 [] 0xFFFF) (queuedUp [] base)
    let s0 := s.seeDoorbells 0 3
    (s0.chip 0).frozen = false ∧ 3 ∈ (s0.chip 0).looks ∧ s0.queue 0 3 = some (cq []) ∧ s0.takable 0 (cq []) = true
    ∧ turn (s0.chip 0) ((s0.chip 0).queues.filter fun e => (s0.chip 0).looks.contains e.1 && s0.takable 0 e.2) = some 3 := by decide +kernel
theorem witness_QueuesAndPackets_packets :
    ((queuedUp [pk 0 []] base).queue 0 3).isSome = true ∧ fits (pk 0 []) = true ∧ (pk 0 []).ty = 0
    ∧ fits (pk 1 (toBytes 8 0x30000 ++ toBytes 4 1024)) = true ∧ (pk 1 []).ty = 1
    ∧ fits (pk 2 (toBytes 2 3 ++ List.replicate 10 0xFF)) = true ∧ (pk 2 []).ty = 2 ∧ fits (pk 3 (toBytes 2 3)) = true ∧ (pk 3 []).ty = 3
    ∧ (pk 4 []).malformed 4 = true ∧ (pk 3 (toBytes 2 4)).malformed 4 = false ∧ (pk 3 (toBytes 2 4)).strayed 4 = true
    ∧ { cq [] with aborting := true }.aborting = true ∧ (pk 0 []).resume = false
    ∧ { pk 0 [] with started := true, status := some 0 }.status = some 0 ∧ ((queuedUp [pk 0 []] base).chip 0).queues.wf = true
    ∧ (pk 0 [] 3).signal ≠ 0xFFFF ∧ (pk 0 [] 3).signal < (cq []).nsignals
    ∧ (base.atM .add .i64 0x22018 0 0).2.2 = false ∧ ((base.markM 0x22018).atM .add .i64 0x22018 0 0).2.2 = true
    ∧ base.errorWord 0 (cq []) = 0 ∧ (memAt 0x2002C [1] base).errorWord 0 (cq []) ≠ 0 := by decide +kernel
theorem witness_QueuesAndPackets_barriers :
    let p := pk 2 (toBytes 2 0 ++ toBytes 2 1 ++ List.replicate 8 0xFF)
    let rs := fun (s : State) => p.waits.map fun i => s.fwRead 0 ((cq []).signals + 8 * i) 8
    (rs base).all (fun r => !r.2 && ofBytes r.1 == 0) = true
    ∧ (rs { base with poison := [(0x22000 / 64, 0)] }).any Prod.snd = true
    ∧ (rs (memAt 0x22008 (List.replicate 8 0xFF) base)).any (fun r => bit (ofBytes r.1) 63) = true
    ∧ (rs (memAt 0x22008 [1] base)).any (fun r => ofBytes r.1 == 1) = true := by decide +kernel
def descBytes : List Byte := toBytes 8 0x21000 ++ toBytes 4 4 ++ toBytes 2 1 ++ toBytes 2 1 ++ toBytes 8 0x22000 ++ toBytes 2 4
  ++ zeros 38
/-- A host command of this opcode with tag 9 at the head of the ring, which stands at 0x1000 of host memory. -/
def asked (op : Nat) (s : State) : State := (memAt (keyOf 64 0x1000) (toBytes 2 op ++ toBytes 2 9) s).modChip 0 fun h => { h with
  bar0 := { h.bar0 with ringBase := 0x1000, slotCount := 16, tail := 1, complBase := 0x3000 } }
theorem witness_HostAndFirmware_command : let b := ((asked 3 base).chip 0).bar0
    b.head ≠ b.tail ∧ b.slotCount.toNat = 2 ^ (0 + 4) ∧ (List.range 11).all (fun i => (asked (i + 1) base).command 0 == some (i + 1, 9)) = true
    ∧ base.command 0 = none := by decide +kernel
def bell3 : Bell := { key := 0x21000, entry := 0, scope := .dev }
theorem witness_QueuesAndPackets_bells :
    (let s := (queuedUp [] base).modChip 0 fun h => { h with doorbells := [bell3, { bell3 with key := 0x99000 }] }
     bell3 ∈ (s.chip 0).doorbells ∧ s.rings bell3 = true ∧ (s.chip 0).bellQueue bell3 = some 3
     ∧ (s.chip 0).bellQueue { bell3 with key := 0x99000 } = none) := by decide +kernel
def reg1 : RegReq := { id := 7, cap := 1, ep := 0, slot := 0, fir := 1, key := 0x20000 }
theorem witness_QueuesAndPackets_answers :
    (let s := base.modSlot 0 0 fun x => { x with regLatest := 7 }
     (s.core 0).cap = some 1 ∧ (s.slot 0 0).regLatest = reg1.id) ∧ (base.slot 0 0).regLatest ≠ reg1.id
    ∧ ((base.modChip 0 fun h => { h with regReqs := [reg1] }).chip 0).regReqs = reg1 :: []
    ∧ { reg1 with drop := some 3 }.drop = some 3 ∧ ((queuedUp [] base).modQueue 0 3 fun c => { c with cap := some 1 }).queue 0 3
      = some { cq [] with cap := some 1 } := by decide +kernel
/-- 18 R344: the answer to an earlier registration of the slot is told to nobody. -/
theorem test_answer_of_earlier_request : (((base.modSlot 0 0 fun x => { x with regLatest := 8 }).answer reg1 5).slot 0 0).regResult = 0
    ∧ (((base.modSlot 0 0 fun x => { x with regLatest := 7 }).answer reg1 5).slot 0 0).regResult = 5 := by decide +kernel
theorem witness_QueuesAndPackets_registrations :
    ((asked 1 (memAt 0x20000 descBytes base)).registerHost 0 0x20000).isSome = true ∧ (base.registerHost 0 0x20000).isNone = true
    ∧ (asked 2 (queuedUp [] base)).queue 0 3 = some (cq []) ∧ (cq []).gone = false ∧ (asked 2 (queuedUp [] base)).command 0 = some (2, 9)
    ∧ (base.chip 0).boot = .ready ∧ (base.chip 0).frozen = false ∧ base.queue 0 7 = none
    ∧ { cq [] with gone := true }.gone = true
    ∧ (let dev : List Byte := toBytes 8 (ptr 3 0).toNat ++ (descBytes.take 0x10).drop 8 ++ toBytes 8 (ptr 3 2048).toNat ++ descBytes.drop 0x18
       (match (memAt 0x20000 dev more).registerDevice 0 { cap := 1, ep := 0, slot := 0, fir := 1, key := 0x20000 } with
        | .ok _ => true | .error _ => false) = true)
    ∧ (match more.registerDevice 0 { cap := 1, ep := 0, slot := 0, fir := 1, key := 0x20000 } with | .ok _ => false | .error _ => true) = true
    ∧ (base.core 0).cap = some 1 ∧ 3 ∉ (base.chip 0).looks ∧ (3 : Nat) < 1024 := by decide +kernel
theorem test_signal_packet : nexts (.packetStart 0 3 0) (queuedUp [pk 3 (toBytes 2 1 ++ zeros 6 ++ toBytes 8 9)] base)
    (fun t => t.mem.read 0x22008 1 == [9] && (t.queue 0 3).any fun c => c.packets.isEmpty) = true := by decide +kernel
/-- 11 R235, R238: a nop completes at its start, an aborted packet too, and the packet behind an abort that resumes does its work. -/
theorem test_nop_completes_at_start : nexts (.packetStart 0 3 0) (queuedUp [pk 0 [] 2] base)
    (fun t => t.mem.read 0x22010 8 == List.replicate 8 0xFF && (t.queue 0 3).any fun c => c.packets.isEmpty && !c.aborting) = true
    ∧ nexts (.packetStart 0 3 0) ((queuedUp [pk 0 [] 2] base).modQueue 0 3 fun c => { c with aborting := true })
      (fun t => t.mem.read 0x22010 8 == List.replicate 8 0xFF && (t.queue 0 3).any fun c => c.packets.isEmpty && c.aborting) = true := by
  decide +kernel
theorem test_packet_completes : nexts (.packetComplete 0 3 0) (queuedUp [{ pk 0 [] 2 with started := true, status := some 0 }] base)
    (fun t => t.mem.read 0x22010 8 == List.replicate 8 0xFF && (t.chip 0).msix == [5]) = true := by decide +kernel

def leaseEnt : LeaseEnt := { gen := 1, live := true, peer := 1, max := 4, min := 2 }
def lref : LeaseRef := { cap := 1, ent := 0, gen := 1, peer := 1 }
def asking : State := (pod2.modCap 1 fun c => { c with leases := [(0, leaseEnt)] }).modFabric 0 fun f => { f with queue := [lref] }
def granted : State := (pod2.modCap 1 fun c => { c with leases := [(0, { leaseEnt with state := .granted, wls := [0, 1] })] }).modFabric 0 fun f =>
  { f with granted := [lref], spare := f.spare.drop 2 }
def barredHead : State := granted.modFabric 0 fun f => { f with queue := [lref], unreachable := [1] }
theorem witness_FabricAndLeases :
    (barredHead.fabric 0).queue = [lref] ∧ (barredHead.fabric 0).granted = [lref]
    ∧ barredHead.grantable 0 lref < (barredHead.leaseOf lref).min ∧
    (asking.fabric 0).queue = [lref] ∧ (asking.chip 0).frozen = false ∧ (asking.leaseOf lref).min ≤ asking.grantable 0 lref
    ∧ (asking.caps.find 1).isSome = true ∧ (granted.fabric 0).granted = [lref]
    ∧ ((asking.fabric 0).takeTx 1).isSome = true ∧ ({ base := [(2, [4, 5])] } : Fabric).takeTx 1 = some (5, some 2, { base := [(2, [4])] })
    ∧ (let s := (granted.modFabric 1 fun f => { f with inbound := [(0, lref, [0, 1])], rspare := [] }).modFabric 0 fun f => { f with queue := [{ lref with ent := 0 }] }
       s.refusing 1 = true ∧ ((s.fabric 1).inbound.find? fun e => (s.fabric e.1).granted.contains e.2.1).isSome = true)
    ∧ ({ returning := some lref } : Wl).returning = some lref
    ∧ smallest (fun _ => 4) [1] = none ∧ smallest (fun _ => 3) [1] = some 1
    ∧ granted.isMember 0 1 = true ∧ (granted.chips.find 0).isSome = true ∧ ((granted.fabric 0).wls.get {} 1).state = .good
    ∧ (1 : Nat) ∈ (((granted.cap 1).leases.find? fun e => e.2.live && e.2.peer == 1).map fun e => e.2.wls).getD []
    ∧ ({ fails := [(6, 3)], seq := 9 } : Wl).fails.get 0 6 = 3 ∧ ({ fails := [(6, 3)], seq := 9 } : Wl).fails.get 0 7 < 3
    ∧ (∀ e ∈ ({ fails := [(6, 3)], seq := 9 } : Wl).fails, e.1 ≤ 6) ∧ 6 < ({ fails := [(6, 3)], seq := 9 } : Wl).seq
    ∧ (asking.fabric 1).takeRx 0 = (some 0, { asking.fabric 1 with rspare := ((asking.fabric 1).rspare).drop 1 })
    ∧ ({ rbase := [(2, [4, 5])] } : Fabric).takeRx 1 = (some 5, { rbase := [(2, [4])] })
    ∧ granted.packetSet 0 1 1 ≠ [] ∧ (granted.packetSet 0 1 1).Nodup
    ∧ (let p : FabricPacket := { peer := 1, cap := 1, flits := 4, wset := [0, 1], lanes := [0, 1] }
       0 ∈ p.lanes ∧ (1 : Nat) ∈ p.wset) ∧ (zeros 56).length = 56
    ∧ (granted.leaseOf lref).gen = lref.gen ∧ (granted.leaseOf lref).peer = lref.peer ∧ ({ state := .retraining } : Wl).state = .retraining ∧ 16 ≤ ({ bucket := 15 } : Wl).bucket + 1 := by decide +kernel
theorem test_lease_granted : nexts (.leaseGrant 0) asking (fun t => (t.leaseOf lref).wls == [0, 1, 2, 3] && (t.fabric 0).queue.isEmpty) = true := by decide +kernel
theorem test_lease_revoked : nexts (.leaseRevoke 0) barredHead
    (fun t => (t.leaseOf lref).state == .revoked && (t.leaseOf lref).wls.isEmpty) = true := by decide +kernel

/-- A sealed image of one actor, by the fields of Table 17.1; its seal stands in the cache. -/
def goodCode : List Byte := let c := placedCode (0x20 * 2 ^ 86)
  c.take 16 ++ toBytes 4 1 ++ (c.drop 20).take 92 ++ [8] ++ c.drop 113
def image (flags min dies placement : Nat) : List Byte :=
  toBytes 4 0x48414C41 ++ toBytes 2 1 ++ toBytes 2 0x160 ++ toBytes 4 960 ++ toBytes 4 flags ++ toBytes 8 5 ++ sha256 goodCode ++ toBytes 4 512
    ++ toBytes 2 4 ++ toBytes 2 1 ++ toBytes 2 min ++ toBytes 2 min ++ toBytes 1 placement ++ toBytes 1 dies ++ zeros 14
    ++ toBytes 2 0xFFFF ++ toBytes 2 0xFFFF ++ zeros 264
    ++ (placedExtents.flatMap fun e => Extent.bytes { e.2 with owner := 7, base := if flags = 16 ∧ e.1 = 1 then 0 else e.2.base })
    ++ zeros 32 ++ zeros 64 ++ zeros 384
def request (b : List Byte) : Admission := { origin := .packet 0 3 0, priority := 4, addr := 0x30000, image := b, length := b.length, ownerKey := some 5 }
def sealing (a : Admission) (s : State) : State := (memAt 0x10000 goodCode s).modChip 0 fun h => { h with
  config := some { resetConfig with keys := [{ id := 5, dieMask := 15, exponent := 3, modulus := 1 }], tags := [{ tag := 7, key := 5, reserve := 2 ^ 24 }] }
  regions := [{ owner := 7, host := false, base := 0, length := 2 ^ 30 }], admissions := [a] }
def starts : Verdict → Bool
  | .start cores _ _ _ => cores == [0]
  | _ => false
def takes0 : Verdict → Bool
  | .take vs => vs == [(1, 0)]
  | _ => false
theorem witness_CapsuleLife_refusal : ((sealing (request [0]) State.reset).nextAdmission 0).any (fun x => x.2.2 == .refuse 1 noDetail) = true := by
  decide +kernel
theorem witness_CapsuleLife_start : ((sealing (request (image 0 1 1 0)) State.reset |>.modChip 0 fun h => { h with
    sealCache := [(toBytes 32 58977096205505553006396956793784050032346641543522146566287943817574906390216, 5)] }).nextAdmission 0).any (fun x => starts x.2.2) = true := by decide +kernel
/-- A child that asks for every core of the chip, of which a capsule of lower priority holds one. -/
def childAd (b : List Byte) : Admission := { request b with
  origin := .child 1 0xFFFF false 0 0, length := 960, parent := placedExtents.map fun e => (e.1, { e.2 with owner := 7 }), sealed := zeros 32, placement := 2 }
def crowded : State := sealing (childAd (image 16 1024 15 2)) (base.modCap 1 fun c => { c with contSlot := 3 })
theorem witness_CapsuleLife_take : (crowded.nextAdmission 0).any (fun x => takes0 x.2.2) = true := by decide +kernel
theorem witness_CapsuleLife_wait :
    (((memAt 0x30000 (image 16 1024 15 2) (sealing (childAd []) crowded)).modCore 0 fun c => { c with vacating := true }).nextAdmission 0).any
      (fun x => x.2.2 == .wait) = true := by decide +kernel
def rec1 : FaultRec := { trapRec with cls := 3, seq := 1 }
def ended (st : CState) (s : State) : State := (s.modCap 1 fun c => { c with state := st }).modSlot 0 0 fun x => { x with firing := none }
theorem witness_CapsuleLife_ends :
    (let s := ended .running base
     s.workEnded 1 = true ∧ ((s.freeCapQuanta 1).reportDeferred 1).delivered 1 = true
       ∧ ((s.freeCapQuanta 1).reportDeferred 1).capReached 1 (((s.freeCapQuanta 1).reportDeferred 1).endScope (s.cap 1)) = true)
    ∧ (let s := ended .terminating base
       (((s.cap 1).cores).foldl State.dropJoint s).windedDown 1 = true ∧ (s.cap 1).state = .terminating
       ∧ ((((s.cap 1).cores).foldl State.dropJoint s).chip 0).frozen = false)
    ∧ (let s := ended (.parking 2) base
       let s1 := ((s.cap 1).cores.foldl State.dropJoint s).freeCapQuanta 1
       (∀ e ∈ (s.cap 1).cores, (s.core e).slotsFree = true) ∧ (∀ e ∈ (s.cap 1).cores, (s1.core e).idle = true ∧ (s1.core e).saving = false)
       ∧ s1.outstandingWork 1 = false ∧ (s.cap 1).parked = false ∧ { s.cap 1 with parked := true }.parked = true
       ∧ (s.cap 1).records = [] ∧ s1.capReached 1 (s1.endScope (s.cap 1)) = true)
    ∧ (let s := (ended .running (grant [1] base)).modCore 0 fun c => { c with vacating := true }
       let s1 := (s.dropJoint 0).freeQuanta 0
       (s.core 0).slotsFree = true ∧ (s1.core 0).idle = true ∧ s1.drained 0 = true ∧ (s.core 0).allTasks.length ≤ 1 ∧ s.nodesFit (s.cap 1) 0 [1] = true
       ∧ (s1.core 0).saving = false ∧ (s.chip 0).frozen = false ∧ ({ s.core 0 with saving := true } : Core).saving = true)
    ∧ (let s := ((ended .running base).modActor 1 0 fun a => { a with moving := true }).modCap 1 fun c => { c with remap := true }
       let c := s.cap 1
       c.remap = true ∧ c.movedActors ≠ [] ∧ (placeMoved c.movedActors (c.cores.map c.loadOf)).any (fun ps => s.entriesFree c ps) = true
       ∧ ∀ e ∈ c.cores, (s.core e).vacating = false)
    ∧ ((base.modCap 1 fun c => { c with records := [rec1] }).cap 1).records = [rec1]
    ∧ (let c := (base.modCap 1 fun c => { c with reportSlot := 3 }).cap 1
       c.reportSlot ≠ 0xFF ∧ (c.extents.find 3).any (fun e => decide (64 ≤ e.length ∧ rec1.seq - c.acked ≤ e.length / 64 ∧ 64 ≤ e.comm)) = true)
    ∧ ((base.modChip 0 fun h => { h with attests := [{ cap := 1, ctl := 0, ptr := 0, nonce := zeros 32, key := 0x20000, stamp := 0 }] }).chip 0).attests.length = 1
    ∧ base.caps.wf = true := by decide +kernel
/-- A record in each phase of its delivery: to be written, to be told of, told of. -/
def delivering (at_ : Option (Option Nat)) (told : Nat) : State := base.modCap 1 fun c => { c with records := [rec1], recAt := at_, told := told }
/-- 21 R405: step 4 of a save begins before anything of the core is written. -/
theorem test_preempt_save_begins : nexts (.preemptSave 0) ((ended .running ((grant [1] base).modCap 1 fun c => { c with contSlot := 3 })).modCore 0 fun c =>
    { c with vacating := true }) (fun t => (t.core 0).saving && (t.cap 1).cores == [0, 1] && t.mem == base.mem) = true := by decide +kernel
theorem witness_CapsuleLife_records :
    ((delivering none 0).cap 1).recAt = none ∧ ((delivering (some (some 0)) 0).cap 1).told < rec1.seq
    ∧ rec1.seq ≤ ((delivering (some none) 1).cap 1).told ∧ ((delivering none 0).chip 0).frozen = false
    ∧ (let c := (base.modCap 1 fun c => { c with reportSlot := 3, seen := 0 }).cap 1
       c.seen < rec1.seq ∧ ({ c with seen := 1 } : Capsule).seen = 1 ∧ (32 : Nat) < 64)
    ∧ ((ended .running base).modCore 0 fun k => { k with taker := some 9 }).workEnded 1 = true
    ∧ ((ended .running base).modCore 0 fun k => { k with taker := some 9 }).delivered 1 = true := by decide +kernel
/-- 21 R389, 22 R426: written at the offset of its sequence, told of once, and done with. -/
theorem test_record_written_again_at_its_offset :
    (let s := (delivering none 1).modCap 1 fun c => { c with reportSlot := 3 }
     nexts (.faultRecordDelivery 1) s (fun t => (t.cap 1).recAt == some (some 0) && t.entries.all (fun e => decide (0x30000 ≤ e.key ∧ e.key < 0x30040))
      && t.entries.length == 8 && (t.cap 1).records.length == 1) = true)
    ∧ nexts (.faultRecordDelivery 1) (delivering (some (some 0)) 1) (fun t => (t.cap 1).records.isEmpty && t.held.isEmpty) = true := by decide +kernel
theorem test_refusal_words : lget (refusalRecord (request [0]) 1 noDetail) 4 4 = 0xFFFFFFFF ∧ lget (refusalRecord (request [0]) 1 noDetail) 48 8 = 0x30000 := by decide +kernel
theorem test_completion_clears_cores : nexts (.capsuleCompletion 1) (ended .running base) (fun t => t.caps.isEmpty && (t.core 0).cap.isNone) = true := by decide +kernel

def staged : State := base.modChip 0 fun h => { h with staged := some { resetFirmware with version := 2 } }
theorem witness_HostAndFirmware :
    bits 0x1000 51 12 = 0 ∧ (base.chip 0).regions = [] ∧ bits (2 ^ 51) 51 12 ≠ 0
    ∧ (let s := base.modCap 1 fun c => { c with contSlot := 3 }
       s.eligible 1 = true ∧ (s.cap 1).state = .running ∧ (s.cap 1).contSlot ≠ 0xFF) ∧ base.caps.find 9 = none
    ∧ (rawKey 0 0x30000).isSome = true ∧ (rawKey 0 (2 ^ 52)).isNone = true ∧ (base.chip 0).staged = none
    ∧ (base.chip 0).drive0.good = true ∧ (base.chip 0).drive0.active = 0
    ∧ (staged.chip 0).staged.isSome = true ∧ (staged.chip 0).conts = []
    ∧ ((staged.modChip 0 fun h => { h with conts := [{ cap := 1, hash := zeros 32, layout := 2 }] }).chip 0).conts.find? (fun c => !(List.contains [1] c.layout)) ≠ none
    ∧ (base.chip 0).bar2 0 0x1000 8 = some 0x1000 ∧ base.entries = []
    ∧ (base.chip 0).bootFails = none ∧ ({ base.chip 0 with drive0 := {} } : Chip).bootFails = some 2
    ∧ ((base.modChip 0 (Chip.freeze 5)).chip 0).frozen = true ∧ (base.chip 0).boot = .ready ∧ homeOf 0x20000 < 64
    ∧ ({ base.chip 0 with telemetry := { corrected := [(0, 64)] } } : Chip).telemetry.corrected.get 0 0 = 64 := by decide +kernel
def bootingChip (h : Chip) : State := base.modChip 0 fun _ => { h with boot := .booting }
def mine : Region := { owner := 7, host := false, base := 0x1000, length := 4096 }
theorem witness_HostAndFirmware_commands :
    (asked 4 base).command 0 = some (4, 9) ∧ (asked 4 base).caps.find 9 = none
    ∧ (let s := (asked 4 base).modCap 1 fun c => { c with contSlot := 3 }
       s.takableCores 1 ≠ [] ∧ (s.cap 1).redundant = false ∧ (s.cap 1).chip = 0)
    ∧ (let s := ((asked 4 base).modCap 1 fun c => { c with contSlot := 3 }).modCore 0 fun k => { k with vacating := true }
       s.takableCores 1 = [] ∧ s.command 0 = some (4, 9))
    ∧ (let c : Region := { mine with owner := 8 }
       mine.owner ≠ c.owner ∧ c.base < mine.base + 4096 ∧ mine.base < c.base + c.length)
    ∧ 0x1000 + 4096 ≤ Config.firmwareBase ∧ ¬Config.firmwareBase + 4096 ≤ Config.firmwareBase
    ∧ (let c : ContEnt := { cap := 1, hash := toBytes 32 5, layout := 1 }
       c.hash = toBytes 32 5 ∧ c.hash ≠ toBytes 32 6) := by decide +kernel
theorem witness_HostAndFirmware_boots :
    (base.chip 0).boot ≠ .booting ∧ ((bootingChip (base.chip 0)).chip 0).boot = .booting
    ∧ (bootingChip (base.chip 0)).bootFailure 0 none = none ∧ (bootingChip (base.chip 0)).bootFailure 0 (some 8) = some 8
    ∧ ((bootingChip (base.chip 0)).chip 0).number 0 = 0 ∧ (bootingChip { base.chip 0 with drive0 := {} }).bootFailure 0 (some 3) = some 2
    ∧ (let b : RegBlock := { body := [1, 2, 3] }
       b.first = b.last ∧ (b.stopped [4, 5, 6] 2 1).recovered.body = [1, 2, 3] ∧ (b.stopped [4, 5, 6] 4 0).recovered.body = [4, 5, 6]
       ∧ (b.stopped [4, 5, 6] 2 1).body = [4, 2, 3] ∧ b.next = none ∧ (b.begin [4, 5, 6]).next = some [4, 5, 6]
       ∧ (b.begin [4, 5, 6]).first = (b.begin [4, 5, 6]).last ∧ b.body.take 4 ≠ toBytes 4 2)
    ∧ ((base.chip 0).drive.getD {}).image = some resetFirmware := by decide +kernel
/-- 22 R428: a reboot that falls upon the third of the four steps leaves the old block, and one behind the fourth the new. -/
theorem test_block_interrupted : (let b : RegBlock := { body := [1, 2, 3] }
    [0, 2, 3].all (fun k => ((b.begin [4, 5, 6]).interrupted k 1).recovered.body == [1, 2, 3]) = true
    ∧ ((b.begin [4, 5, 6]).interrupted 4 0).recovered.body = [4, 5, 6]) := by decide +kernel
/-- 21 R415, 04 R71: an error of a host-memory line poisons a load there. -/
theorem test_host_line_error : nexts (.uncorrectableError (.line (keyOf 64 0x1000))) base
    (fun t => poisonHit t.poison (keyOf 64 0x1000) 8 && t.chips == base.chips) = true := by decide +kernel
theorem witness_HostAndFirmware_atomics :
    (base.chip 0).bar2 0 0x1000 (64 / 8) = some 0x1000 ∧ 0x1000 % (64 / 8) = 0 ∧ (128 : Nat) ≠ 32 ∧ (128 : Nat) ≠ 64 := by decide +kernel
theorem test_host_cas_128 : nexts (.hostAtomic 0 0x1000 .cas 128 5 0) base (fun t => (t.chip 0).hostUnsupported && t.mem == base.mem) = true := by
  decide +kernel
/-- 21 R415: the page stays retired across boots. -/
theorem test_page_retired_on_drive : nexts (.uncorrectableError (.line 0x20000)) base
    (fun t => (t.chip 0).drive0.telemetry.retiredPages == [0x20]) = true := by decide +kernel
/-- The check value of the CRC-32 of Ethernet (19 R361), and of its parts: a flit that carries its own CRC passes. -/
theorem test_crc32_check : crc32 ([0x31, 0x32, 0x33, 0x34, 0x35, 0x36, 0x37, 0x38, 0x39].map (BitVec.ofNat 8)) = 0xCBF43926 := by decide +kernel
theorem test_assign_region : nexts (.assignRegion 0 9 7 0x1000 4096) (asked 3 base) (fun t => (t.chip 0).regions.length == 1
    && (t.chip 0).hostDone.map HostDone.status == [0] && (t.chip 0).bar0.head == 1) = true := by decide +kernel
theorem test_flr_freezes : nexts (.functionLevelReset 0) base (fun t => (t.chip 0).frozen) = true := by decide +kernel
theorem test_uncorrectable_poisons : nexts (.uncorrectableError (.line 0x20000)) base (fun t => poisonHit t.poison 0x20000 8) = true := by decide +kernel
theorem witness_RegisterFrame : completes (.add rrr) (withS [(4, 1), (5, 2)] base) (sv 6 3) = true
    ∧ completes (.vadd (ops (ty .i8) (v 3) (v 1) (v 2))) (withV [(1, 1, .i8), (2, 2, .i8)] base) (elv 1 3 0 3) = true
    ∧ completes (.ldiw { hdr := plainHdr, d := r 6, imm := 5 }) base (sv 6 5) = true
    ∧ completes (.vscale (ops m (v 60) (v 1) (v 2))) (withV [(1, 0, .mxf4), (2, 0, .raw)] base) (fun t => (t.cur.vreg 63).tag == .f32) = true := by
  decide +kernel
theorem witness_CanonicalKept : base.Canonical ∧ (match step base with | .next _ => true | _ => false) = true := by
  refine ⟨by unfold State.Canonical; decide +kernel, by decide +kernel⟩

/-! Further cases of the statements above. -/

/-- A freed guard, under strict last use and without. -/
def freedGuard (strict : Bool) : State := (base.modCap 1 fun c => { c with strict := strict }).modCur fun x => x.freeP 1
theorem witness_GuardedOut_strict : ((freedGuard true).cap 1).strict = true ∧ ((freedGuard true).cur.preg 1).freed = true
    ∧ (freedGuard true).cur.firing.isSome = true ∧ ((freedGuard false).cap 1).strict = false := by decide +kernel
/-- 03 R44: under strict last use a freed guard faults. -/
theorem test_freed_guard : nexts (.add (odd1 rrr)) (freedGuard true) (faultIs 0x04 3 1) = true := by decide +kernel
/-- 127 + 127 clamps at the first node of the tree, and the whole sum is clamped again. -/
theorem test_vred_saturates : completes (.vred (ops { m with mode := 1 } (r 6) (v 4) (i 0)))
    (withV [(4, vec 1 [127, 127, 0xFF], .i8)] base) (fun t => sv 6 126 t && t.cur.fstat == 0x20) = true := by decide +kernel
/-- 1 + 2^-24 lies between two encodings of f32; 2^-150 between the zero and the least subnormal; 2^128 above the largest. -/
theorem witness_RoundExact_inexact : let f := fmtOf .f32
    decodeF f 0x3F800000 = .fin false 0x800000 (-23) ∧ decodeF f 0x3F800001 = .fin false 0x800001 (-23)
    ∧ 0x800000 * 2 < (2 ^ 24 + 1 : Nat) ∧ (2 ^ 24 + 1 : Nat) < 0x800001 * 2
    ∧ decodeF f 0 = .fin false 0 (-149) ∧ decodeF f 1 = .fin false 1 (-149) ∧ decodeF f (maxF f false) = .fin false 0xFFFFFF 104
    ∧ (0xFFFFFF : Nat) * 2 ^ 1 < 2 ^ 25 - 1 ∧ (2 ^ 25 - 1 : Nat) < (0xFFFFFF + 1) * 2 ^ 1 ∧ (0xFFFFFF + 1 : Nat) ≤ 2 ^ 24
    ∧ FFmt.flush (fmtOf .bf16) = true ∧ (roundInt .rne false 1 (-1)).1.natAbs < 2 ^ (fmtOf .bf16).fbits
    ∧ (roundInt .rne false 255 (-1)).1.natAbs = 2 ^ (fmtOf .bf16).fbits := by decide +kernel
/-- 05 R83, R90 to R92: a tie, a tiny result, an overflow in two modes, and the flush of bf16. -/
theorem test_round_inexact : roundFin fmtF32 false .rne false (2 ^ 24 + 1) (-24) = (0x3F800000, 0x10)
    ∧ roundFin fmtF32 false .rup false 1 (-150) = (1, 0x18) ∧ roundFin fmtF32 false .rne true 1 128 = (0xFF800000, 0x14)
    ∧ roundFin fmtF32 false .rtz false 1 128 = (0x7F7FFFFF, 0x14) ∧ roundFin (fmtOf .bf16) false .rne true 1 (-130) = (0x8000, 0x18) := by
  decide +kernel
/-- 05 R103: 1.99 in an element of two magnitude bits clamps when its pair is the largest of the block. -/
theorem test_block_flags : (encodeLb .lb3 ((FV.fin false 255 (-7), RMode.rne) :: List.replicate 31 (FV.fin false 0 0, RMode.rne))).flags = 0x14
    ∧ (encodeMx .mxf4 [(FV.fin false 1 0, RMode.rne), (FV.fin false 1 (-140), RMode.rne)]).flags = 0x10 := by decide +kernel
/-- Two reductions of one core in one gateway queue, toward one reduction gateway. -/
def redR (id : Nat) : Remote := { remote (.put rkey 8 5) with id := id }
def redEnt (id key : Nat) : Entry := { entry (.gw 0 0) with id := id, key := key, op := some { eop with reqs := [id] } }
def twoReds : State := { ents [redEnt 50 rkey, redEnt 51 (rkey + 8 * 0x1000000)] base with remote := [redR 50, redR 51] }
theorem witness_EntryMovement_senders : (twoReds.entries[1]?).any (fun e => !twoReds.reductionFirst 1 e && reductionGate e.key == reductionGate rkey) = true
    ∧ twoReds.reductionFirst 0 (redEnt 50 rkey) = true ∧ twoReds.sendersMeet [redEnt 50 rkey] (redEnt 51 rkey) = true := by decide +kernel
/-- An earlier store of the firing toward the location of a remote atomic is still on its way. -/
theorem witness_RemoteEvents_waits :
    (ents [{ entry (.gw 0 0) with key := rkey }] (going amoR pod2)).atHome 1 50 [(rkey, 8)] = false
    ∧ (going amsgR takes).inWindow amsgR = true ∧ (going barR base).inWindow barR = true := by decide +kernel
/-- A nonce in the memory of chip 1, reachable and not. -/
def nonceAt (un : List Nat) : State := withS [(4, ptr 6 0), (5, ptr 2 0), (7, 0)] (pod2.modChip 0 fun h => { h with fabric := { h.fabric with unreachable := un } })
theorem witness_ExtentsAndCapsules_nonce : [[], [1]].all (fun un => goes { op := 0x352 } (ops m (r 7) (r 4) (r 5)) (nonceAt un) (fun s1 v _ =>
      passes s1 v.a.word 0 32 8 permR && passes s1 v.b.word 0 640 64 permW && !s1.remoteFull
      && (match chkOf s1 v.a.word 0 32 8 permR with
        | .ok key e => let l := s1.nonceLoad v.a.word key e; s1.plainReady l && s1.lostLoad l == !un.isEmpty
        | _ => false))) = true := by decide +kernel
theorem test_attest_lost : completes (.attest (ops m (r 7) (r 4) (r 5))) (nonceAt [1]) (fun t => t.iq.isEmpty) = true := by decide +kernel
/-- An error word the Parser wrote, on its way and at the end of it. -/
def written (p : Place) : Entry := { entry p with parser := true }
theorem witness_QueuesAndPackets_scopes :
    (ents [written (.dev 0)] base).parserReached 0 .sys = false ∧ (ents [written .pod] base).parserReached 0 .sys = true
    ∧ (ents [written (.dev 0)] base).parserReached 0 .dev = true ∧ (ents [entry (.dev 0)] base).parserReached 0 .sys = true
    ∧ (let done := { pk 0 [] 2 with started := true, status := some 0, bytes := (packet 0 [] 2).set 253 0xB8 }
       let s := ents [written (.dev 0)] (queuedUp [done, pk 0 []] base)
       bits done.trailer 10 3 = 6 ∧ (s.chip 0).completing = true ∧ s.ripe 0 = none ∧ ((queuedUp [done] base).ripe 0).isSome = true) := by decide +kernel
/-- 11 R237: a barrier with no signal completes at its first check, as it starts. -/
theorem test_empty_barrier : nexts (.packetStart 0 3 0) (queuedUp [pk 2 (List.replicate 12 0xFF) 2] base)
    (fun t => t.mem.read 0x22010 8 == List.replicate 8 0xFF && (t.queue 0 3).any fun c => c.packets.isEmpty) = true := by decide +kernel
/-- 21 R386: a deferred fault of a parking capsule gets its record before the save. -/
def owing : State := (ended (.parking 2) base).modCap 1 fun c => { c with deferred := [(0, { code := 0x10, info0 := 1, info1 := 0, names := [], opcode := 0x210 })] }
theorem witness_CapsuleLife_deferred :
    (let c := owing.cap 1
     let s1 := (c.cores.foldl State.dropJoint owing).freeCapQuanta 1
     ((s1.reportDeferred 1).cap 1).records.length = 1 ∧ (∀ e ∈ c.cores, (s1.core e).idle = true ∧ (s1.core e).saving = false))
    ∧ (let s := (ended .running base).modCap 1 fun c => { c with remap := true }
       (s.cap 1).state = .running ∧ (s.cap 1).remap = true) := by decide +kernel

end Sys2Proof.Machine.Test
end

section
/-!
Reading the fields of a list of bytes that `toBytes` has put together (R2).
-/
namespace Sys2Proof

@[simp] theorem length_toBytes (n x : Nat) : (toBytes n x).length = n := by
  induction n generalizing x with
  | zero => rfl
  | succ n ih => simp [toBytes, ih]

theorem ofBytes_toBytes (n x : Nat) : ofBytes (toBytes n x) = x % 256 ^ n := by
  induction n generalizing x with
  | zero => simp [toBytes, ofBytes, Nat.mod_one]
  | succ n ih =>
    calc ofBytes (toBytes (n + 1) x) = x % 256 + 256 * (x / 256 % 256 ^ n) := by simp [toBytes, ofBytes, ih]
      _ = x % 256 ^ (n + 1) := by rw [Nat.pow_succ', Nat.mod_mul]

theorem take_toBytes {k n : Nat} (x : Nat) (h : k ≤ n) : (toBytes n x).take k = toBytes k x := by
  induction k generalizing n x with
  | zero => simp [toBytes]
  | succ k ih =>
    obtain ⟨n, rfl⟩ : ∃ m, n = m + 1 := ⟨n - 1, by omega⟩
    simp [toBytes, ih (x / 256) (by omega : k ≤ n)]

theorem drop_toBytes (n k x : Nat) : (toBytes n x).drop k = toBytes (n - k) (x / 256 ^ k) := by
  induction k generalizing n x with
  | zero => simp
  | succ k ih =>
    cases n with
    | zero => simp [toBytes]
    | succ n => simp [toBytes, ih, Nat.div_div_eq_div_mul, Nat.pow_succ']

namespace Machine

theorem lget_append_left {b : List Byte} (r : List Byte) {off n : Nat} (h : off + n ≤ b.length) :
    lget (b ++ r) off n = lget b off n := by
  have hdrop : n ≤ (b.drop off).length := by simp; omega
  rw [lget, List.drop_append_of_le_length (by omega), List.take_append_of_le_length hdrop, lget]

theorem lget_append_right (b r : List Byte) (off n : Nat) : lget (b ++ r) (b.length + off) n = lget r off n := by
  rw [lget, List.drop_append, List.drop_eq_nil_of_le (by omega)]
  simp [lget]

/-- A field within a number's own bytes. -/
theorem lget_toBytes {n off k : Nat} (x : Nat) (h : off + k ≤ n) : lget (toBytes n x) off k = x / 256 ^ off % 256 ^ k := by
  rw [lget, drop_toBytes, take_toBytes _ (by omega), ofBytes_toBytes]

end Machine
end Sys2Proof
end

section
/-!
Refusal records (21 R414): what the host finds in the first words of one.
-/
namespace Sys2Proof.Machine

theorem lget_refusalRecord_head (a : Admission) (reason detail : Nat) {off k : Nat} (h : off + k ≤ 4) :
    lget (refusalRecord a reason detail) off k = (reason + 5 * 2 ^ 8) / 256 ^ off % 256 ^ k := by
  simp only [refusalRecord, List.append_assoc]
  rw [lget_append_left _ (by simpa using h), lget_toBytes _ h]

theorem lget_refusalRecord_detail (a : Admission) (reason detail : Nat) :
    lget (refusalRecord a reason detail) 4 4 = detail % 256 ^ 4 := by
  simp only [refusalRecord, List.append_assoc]
  have h := lget_append_right (toBytes 4 (reason + 5 * 2 ^ 8))
  simp only [length_toBytes] at h
  rw [h _ 0 4, lget_append_left _ (by simp), lget_toBytes _ (by omega)]
  simp

/-- A request whose image is not authentic leaves the owner and the hash out of its record. -/
theorem refusalRecord_unauthentic (a : Admission) (detail : Nat) {i : Nat} (hi : i < 40) :
    (refusalRecord a 1 detail)[8 + i]? = some 0 := by
  have hzero : toBytes 8 0 ++ zeros 32 = zeros 40 := by decide
  simp only [refusalRecord, List.append_assoc, bne_self_eq_false, Bool.false_eq_true, if_false]
  rw [← List.append_assoc (toBytes 4 _), List.getElem?_append_right (by simp)]
  rw [← List.append_assoc (toBytes 8 0), hzero, List.getElem?_append_left (by simp [zeros]; omega)]
  have hlen : (toBytes 4 (1 + 5 * 2 ^ 8) ++ toBytes 4 detail).length = 8 := by simp
  rw [hlen, Nat.add_sub_cancel_left, zeros, List.getElem?_replicate_of_lt hi]

end Sys2Proof.Machine
end

section
/-!
The end of a capsule (02 R23, 17 R336): what giving up its holdings and handing over its cores leave of capsules and cores.
-/
namespace Sys2Proof.Machine

@[simp] theorem State.hostReply_cores (s : State) (chip tag st : Nat) (r0 r1 : Word) (info : HostInfo) :
    (s.hostReply chip tag st r0 r1 info).cores = s.cores := rfl
@[simp] theorem State.hostReply_caps (s : State) (chip tag st : Nat) (r0 r1 : Word) (info : HostInfo) :
    (s.hostReply chip tag st r0 r1 info).caps = s.caps := rfl

theorem State.core_eq_of_cores {s t : State} (h : t.cores = s.cores) (ep : Nat) : t.core ep = s.core ep := by
  simp only [State.core, h]

/-- A core handed over is cleared, and may no longer be taken for its request; nothing of any capsule changes. -/
theorem State.handOver_cores (s : State) (ep : Nat) :
    (s.handOver ep).caps = s.caps ∧ ((s.handOver ep).cores = (s.modCore ep Core.cleared).cores
      ∨ (s.handOver ep).cores = ((s.modCore ep Core.cleared).modCore ep fun c => { c with taker := none }).cores) := by
  unfold State.handOver
  dsimp only
  split
  · exact ⟨rfl, .inl rfl⟩
  · split
    · exact ⟨rfl, .inl rfl⟩
    · split
      · exact ⟨rfl, .inr rfl⟩
      · split
        · exact ⟨rfl, .inr rfl⟩
        · exact ⟨rfl, .inr rfl⟩

@[simp] theorem State.handOver_caps (s : State) (ep : Nat) : (s.handOver ep).caps = s.caps := (s.handOver_cores ep).1

/-- A core handed over belongs to no capsule. -/
theorem State.cap_core_handOver_same (s : State) (ep : Nat) : ((s.handOver ep).core ep).cap = none := by
  obtain ⟨-, h | h⟩ := s.handOver_cores ep <;> simp [State.core_eq_of_cores h, Core.cleared]

theorem State.core_handOver_other (s : State) {ep e : Nat} (he : e ≠ ep) : (s.handOver ep).core e = s.core e := by
  obtain ⟨-, h | h⟩ := s.handOver_cores ep <;> simp [State.core_eq_of_cores h, State.core_modCore_other _ _ he]

theorem State.foldl_handOver_caps (l : List Nat) (s : State) : (l.foldl State.handOver s).caps = s.caps := by
  induction l generalizing s with
  | nil => rfl
  | cons ep l ih => rw [List.foldl_cons, ih, State.handOver_caps]

/-- Each core of a list handed over belongs to no capsule, and one that belonged to none before still belongs to none. -/
theorem State.cap_core_foldl_handOver {l : List Nat} {s : State} {ep : Nat} (h : ep ∈ l ∨ (s.core ep).cap = none) :
    ((l.foldl State.handOver s).core ep).cap = none := by
  induction l generalizing s with
  | nil => simpa using h
  | cons e l ih =>
    refine ih ?_
    by_cases he : ep = e
    · subst he
      exact .inr (s.cap_core_handOver_same ep)
    · rw [State.core_handOver_other s he]
      exact h.imp_left fun hm => (List.mem_cons.mp hm).resolve_left he

theorem State.modCap_caps_wf (s : State) (id : Nat) (f : Capsule → Capsule) (h : s.caps.wf = true) :
    (s.modCap id f).caps.wf = true := by
  unfold State.modCap
  split
  · exact AMap.wf_put _ _ _ h
  · exact h
theorem State.leaseReturn_caps_wf (s : State) (chip cap ent : Nat) (h : s.caps.wf = true) :
    (s.leaseReturn chip cap ent).caps.wf = true := s.modCap_caps_wf cap _ h
@[simp] theorem State.modQueue_caps (s : State) (chip q : Nat) (f : CQueue → CQueue) : (s.modQueue chip q f).caps = s.caps := by
  unfold State.modQueue
  split <;> rfl
@[simp] theorem State.unregister_caps (s : State) (chip q : Nat) : (s.unregister chip q).caps = s.caps := by
  simp [State.unregister]

theorem State.dropHoldings_caps_wf (s : State) (cap : Nat) (h : s.caps.wf = true) : (s.dropHoldings cap).caps.wf = true := by
  refine List.foldlRecOn (motive := fun t : State => t.caps.wf = true) _ _ ?_ fun t ht e _ => ?_
  · exact List.foldlRecOn (motive := fun t : State => t.caps.wf = true) _ _ h fun t ht e _ => t.leaseReturn_caps_wf _ cap e.1 ht
  · rw [State.unregister_caps]; exact ht

/-- A capsule that is removed is no longer there. -/
theorem State.find_removeCapsule (s : State) (cap : Nat) (h : s.caps.wf = true) : (s.removeCapsule cap).caps.find cap = none := by
  have hcaps : (s.removeCapsule cap).caps = (s.dropHoldings cap).caps.del cap := State.foldl_handOver_caps _ _
  rw [hcaps]
  exact AMap.find_del_same _ _ (s.dropHoldings_caps_wf cap h)

/-- The cores of a capsule that is removed belong to no capsule. -/
theorem State.cap_core_removeCapsule (s : State) {cap ep : Nat} (h : ep ∈ (s.cap cap).cores) :
    ((s.removeCapsule cap).core ep).cap = none :=
  State.cap_core_foldl_handOver (.inl (List.mem_append_left _ h))

end Sys2Proof.Machine
end

section
/-!
Admission (02 R21): an event decides one request, and does what its verdict says.
-/
namespace Sys2Proof.Machine

/-- The state in which a verdict takes effect: the pair of a seal that passed stands in the cache (R325). -/
def State.sealNoted (s : State) (chip : Nat) (a : Admission) : State :=
  if (check1 a).isNone && (check2 (s.chip chip) a).isNone then s.modChip chip fun h => h.cacheSeal a else s

/-- A request that was given a number when cores were taken for it keeps it; any other gets the next free one. -/
def State.requestId (s : State) (a : Admission) : Nat := if a.id = 0 then s.fresh else a.id

theorem State.requestId_of_numbered (s : State) {a : Admission} (h : a.id ≠ 0) : s.requestId a = a.id := if_neg h

/-- What a verdict does to the request at place i of a chip, once its seal's pair is in the cache. -/
def State.carryOut (s : State) (chip i : Nat) (a : Admission) : Verdict → State
  | .wait => s.modChip chip fun h => h.setAdmission i a
  | .refuse r d => (s.modChip chip fun h => h.dropAdmission i).refuse chip a r d
  | .start cores shadows actors es => (s.modChip chip fun h => h.dropAdmission i).start chip a cores shadows actors es
  | .take vs => (vs.map Prod.fst).eraseDups.foldl
      (fun t c => t.takeCores c ((vs.filter fun v => v.1 == c).map Prod.snd) (s.requestId a))
      (s.modChip chip fun h => h.setAdmission i { a with id := s.requestId a }).bump

theorem execCapsuleAdmission_decides {s : State} {chip i : Nat} {a : Admission} {v : Verdict} (hf : (s.chip chip).frozen = false)
    (hb : (s.chip chip).boot = .ready) (hnext : s.nextAdmission chip = some (i, a, v)) :
    execCapsuleAdmission chip s = .next ((s.sealNoted chip a).carryOut chip i a v) := by
  have hserves : ¬(((s.chip chip).frozen || (s.chip chip).boot != .ready) = true) := by simp [hf, hb]
  rw [execCapsuleAdmission, if_neg hserves, hnext]
  cases v <;> rfl

end Sys2Proof.Machine
end

section
/-!
Delivery (21 R389, 18 R356): each phase of a fault record's delivery, where its bytes go, and attestation reports.
-/
namespace Sys2Proof.Machine

theorem State.cap_of_find {s : State} {cap : Nat} {c : Capsule} (hc : s.caps.find cap = some c) : s.cap cap = c := by
  simp [State.cap, AMap.get_eq_find, hc]

/-- Where a record's place begins in a report extent: places go round by its sequence. -/
def Extent.recordAt (e : Extent) (r : FaultRec) : Nat := 64 * ((r.seq - 1) % (e.length / 64))

/-- The record lies within the committed bytes of the report extent: it is written at the place of its sequence. -/
theorem State.writeRecord_fits {s : State} {cap : Nat} {c : Capsule} {e : Extent} {r : FaultRec} (hc : s.caps.find cap = some c)
    (hslot : c.reportSlot ≠ 0xFF) (he : c.extents.find c.reportSlot = some e) (hlen : 64 ≤ e.length)
    (hroom : r.seq - c.acked ≤ e.length / 64) (hcomm : e.recordAt r + 64 ≤ e.comm) :
    s.writeRecord cap r
      = (s.fwWrite (.dev c.chip) c.chip cap (e.key c.reportSlot 0 (e.recordAt r)) r.bytes, some (e.recordAt r)) := by
  have hfit : ¬(e.length / 64 = 0 ∨ r.seq - c.acked > e.length / 64) := by omega
  rw [State.writeRecord, State.cap_of_find hc]
  dsimp only
  rw [if_neg hslot, he]
  dsimp only
  rw [if_neg hfit]
  simp only [Extent.recordAt] at hcomm
  simp [hcomm, Extent.recordAt]

/-- The report extent has no free place for the record: it is counted in the overflow, once. -/
theorem State.writeRecord_overflows {s : State} {cap : Nat} {c : Capsule} {e : Extent} {r : FaultRec}
    (hc : s.caps.find cap = some c) (hslot : c.reportSlot ≠ 0xFF) (he : c.extents.find c.reportSlot = some e)
    (hfull : e.length < 64 ∨ e.length / 64 < r.seq - c.acked) :
    s.writeRecord cap r = (if c.seen < r.seq then
        s.modCap cap fun c => { c with overflow := min (c.overflow + 1) (2 ^ 32 - 1), seen := r.seq } else s, none) := by
  have hnone : e.length / 64 = 0 ∨ r.seq - c.acked > e.length / 64 := by omega
  rw [State.writeRecord, State.cap_of_find hc]
  dsimp only
  rw [if_neg hslot, he]
  dsimp only
  rw [if_pos hnone]

/-- The word by which a fault message tells where the record was written: all ones where it was not. -/
def recordOffset : Option Nat → Word
  | some o => BitVec.ofNat 64 o
  | none => BitVec.allOnes 64

section
variable {s : State} {cap : Nat} {c : Capsule} {r : FaultRec} {rs : List FaultRec} (hc : s.caps.find cap = some c)
  (hf : (s.chip c.chip).frozen = false) (hr : c.records = r :: rs)
include hc hf hr

theorem execFaultRecordDelivery_writes (hat : c.recAt = none) :
    execFaultRecordDelivery cap s = .next (((((s.writeRecord cap r).1.modCap cap fun c =>
      { c with recAt := some (s.writeRecord cap r).2 }).noteCap cap).modChip c.chip fun h => { h with msix := h.msix ++ [1] })) := by
  simp only [execFaultRecordDelivery, hc, hr, hf, hat, Bool.false_eq_true, if_false]

theorem execFaultRecordDelivery_tells {at_ : Option Nat} (hat : c.recAt = some at_) (htold : c.told < r.seq) :
    execFaultRecordDelivery cap s = .next (
      let t := s.modCap cap fun c => { c with told := r.seq }
      if c.faultBox = 0xFFFF then t
      else t.postTyped (.firmware c.chip 3) cap c.faultBox [0] (mkMsg (wordAt r.bytes 0) (wordAt r.bytes 0x10) (recordOffset at_)
        r.info0 (if r.cls = 3 then c.deadline else r.stamp)) r.ep 3) := by
  simp only [execFaultRecordDelivery, hc, hr, hf, hat, htold, Bool.false_eq_true, if_false, if_true]
  rfl

theorem execFaultRecordDelivery_ends {at_ : Option Nat} (hat : c.recAt = some at_) (htold : r.seq ≤ c.told) :
    execFaultRecordDelivery cap s = .next (s.modCap cap fun c => { c with records := rs, recAt := none }) := by
  have hdone : ¬(c.told < r.seq) := by omega
  simp only [execFaultRecordDelivery, hc, hr, hf, hat, hdone, Bool.false_eq_true, if_false]

end

theorem execAttestReportDone_reports {s : State} {chip : Nat} {r : AttestReq} {rs : List AttestReq}
    (hf : (s.chip chip).frozen = false) (hr : (s.chip chip).attests = r :: rs) :
    execAttestReportDone chip s = .next (
      let c := s.cap r.cap
      let s1 := (s.modChip chip fun h => { h with attests := rs }).modCap r.cap fun c => { c with attesting := false }
      (s1.fwWrite (.dev chip) chip r.cap r.key ((s.chip chip).report c.sealed c.codeId r.nonce c.ownerKey)).postTyped
        (.firmware chip 5) r.cap (bits r.ctl.toNat 0 16) [0] (mkMsg 0 r.ctl r.ptr 0 r.stamp) (c.cores.headD 0) 3) := by
  simp only [execAttestReportDone, hr, hf, Bool.false_eq_true, if_false]

end Sys2Proof.Machine
end

section
/-!
Completion, parking and pre-emption (02 R23, 21 R392, R404 to R412): what each event does where its preconditions hold.
-/
namespace Sys2Proof.Machine

section
variable {s : State} {cap : Nat} {c : Capsule} (hc : s.caps.find cap = some c) (hf : (s.chip c.chip).frozen = false)
include hc

include hf in
theorem execCapsuleCompletion_running (hstate : c.state = .running) (hremap : c.remap = false) (hended : s.workEnded cap = true)
    (hdelivered : ((s.freeCapQuanta cap).reportDeferred cap).delivered cap = true)
    (hreached : ((s.freeCapQuanta cap).reportDeferred cap).capReached cap
      (((s.freeCapQuanta cap).reportDeferred cap).endScope c) = true) :
    execCapsuleCompletion cap s = .next (((s.freeCapQuanta cap).reportDeferred cap).complete cap) := by
  simp [execCapsuleCompletion, hc, hf, hstate, hremap, hended, hdelivered, hreached]

/-- A terminated capsule's partly formed joint operations are discarded first (R160). -/
theorem execCapsuleCompletion_terminating {s0 s1 : State} (hs0 : s0 = c.cores.foldl State.dropJoint s)
    (hs1 : s1 = (s0.freeCapQuanta cap).reportDeferred cap) (hstate : c.state = .terminating)
    (hended : s0.windedDown cap = true) (hf : (s0.chip c.chip).frozen = false) (hdelivered : s1.delivered cap = true)
    (hreached : s1.capReached cap (s1.endScope c) = true) : execCapsuleCompletion cap s = .next (s1.complete cap) := by
  subst hs1 hs0
  simp [execCapsuleCompletion, hc, hf, hstate, hended, hdelivered, hreached]

theorem execCapsuleCompletion_moving (hstate : c.state = .running) (hremap : c.remap = true) :
    execCapsuleCompletion cap s = .next s := by
  simp [execCapsuleCompletion, hc, hstate, hremap]

include hf in
/-- A parking capsule whose cores are idle: its deferred faults have been reported in `s2`, and what comes next is their
records' delivery, the save, or the end. -/
theorem execPark_idle {s0 s1 s2 : State} {reason : Nat} (hs0 : s0 = c.cores.foldl State.dropJoint s)
    (hs1 : s1 = s0.freeCapQuanta cap) (hs2 : s2 = s1.reportDeferred cap) (hstate : c.state = .parking reason)
    (hfree : ∀ e ∈ c.cores, (s.core e).slotsFree = true ∧ (s0.core e).slotsFree = true)
    (hidle : ∀ e ∈ c.cores, (s1.core e).idle = true ∧ (s1.core e).saving = false) (hwork : s1.outstandingWork cap = false) :
    execPark cap s = .next (if !(s2.cap cap).records.isEmpty then s2
      else if !c.parked then s2.parkSave cap reason
      else if s2.capReached cap (s2.endScope c) then (s2.reportEnd cap 0x0A).removeCapsule cap else s2) := by
  have hall : (c.cores.filter fun e => (s.core e).slotsFree) = c.cores := List.filter_eq_self.mpr fun e he => (hfree e he).1
  have hfree0 : (c.cores.all fun e => (s0.core e).slotsFree) = true := List.all_eq_true.mpr fun e he => (hfree e he).2
  have hidle1 : (c.cores.all fun e => (s1.core e).idle && !(s1.core e).saving) = true :=
    List.all_eq_true.mpr fun e he => by simp [hidle e he]
  subst hs2 hs1 hs0
  simp only [execPark, hc, hstate, hf, hall, hfree0, hidle1, hwork, Bool.not_true, Bool.or_self, Bool.false_eq_true, if_false]
  split
  · rfl
  · split
    · rfl
    · split <;> rfl

/-- A vacating core's save goes on while the capsule runs and its kept cores have room, or where a park came after it began. -/
theorem State.saveGoesOn_of {ep : Nat} (h : (c.state = .running ∧ s.heirsFit cap ep = true)
    ∨ ((∃ r, c.state = .parking r) ∧ (s.core ep).saving = true)) : s.saveGoesOn cap ep = true := by
  rw [State.saveGoesOn, State.cap_of_find hc]
  rcases h with ⟨hrun, hfit⟩ | ⟨⟨r, hpark⟩, hsaving⟩
  · rw [hrun]; exact hfit
  · rw [hpark]; exact hsaving

theorem State.heirsFit_of {ep : Nat} {kept : List Nat} (hkept : kept = c.cores.filter fun e => !(s.core e).vacating)
    (hnodes : s.nodesFit c ep kept = true)
    (htasks : (s.core ep).allTasks.length ≤ kept.foldl (fun n e => n + (Config.dequeDepth - (s.core e).deque.length)) 0) :
    s.heirsFit cap ep = true := by
  subst hkept
  simp [State.heirsFit, State.cap_of_find hc, hnodes, htasks]

include hf in
/-- Once every taken core is saved, and the kept cores have places and ready-set entries for the moved actors, these go on
there (R406). -/
theorem execPreemptInstall_installs {ps : List (Nat × Nat × Nat)} (hremap : c.remap = true) (hstate : c.state = .running)
    (hvac : ∀ e ∈ c.cores, (s.core e).vacating = false) (hplaces : placeMoved c.movedActors (c.cores.map c.loadOf) = some ps)
    (hentries : s.entriesFree c ps = true) :
    execPreemptInstall cap s = .next (
      let s2 := ps.foldl (fun s p => s.installActor cap p.1 p.2.1 p.2.2 (c.movedPriv.get [] p.1) (c.movedCode.get [] p.1))
        (s.moveQueues cap)
      let s3 := (s2.modCap cap fun c => { c with movedPriv := [], movedCode := [], remap := false }).renumber cap
      let s4 := c.cores.foldl (fun s e => s.modCore e fun k => k.endClaims (c.movedActors.map Prod.fst)) s3
      (c.movedActors.foldl (fun s e => s.resume cap e.1) s4).serveQueues cap) := by
  have hsaved : (c.cores.any fun e => (s.core e).vacating) = false := by simpa using hvac
  simp [execPreemptInstall, hc, hremap, hstate, hf, hsaved, hplaces, hentries]

end

/-- A vacating core that is idle and drained begins step 4 of its save at one event, and is saved at the next (R405). -/
theorem execPreemptSave_idle {s s1 : State} {ep cap : Nat} (hs1 : s1 = (s.dropJoint ep).freeQuanta ep)
    (hcap : (s.core ep).cap = some cap) (hvac : (s.core ep).vacating = true) (hgoes : s.saveGoesOn cap ep = true)
    (hf : (s.chip (chipOf ep)).frozen = false) (hfree : (s.core ep).slotsFree = true) (hidle : (s1.core ep).idle = true)
    (hdrained : s1.drained ep = true) :
    execPreemptSave ep s = .next (if (s1.core ep).saving then s1.saveCore cap ep
      else s1.modCore ep fun k => { k with saving := true }) := by
  subst hs1
  simp only [execPreemptSave, hcap, hvac, hgoes, hf, hfree, hidle, hdrained, Bool.not_true, Bool.or_self, Bool.false_eq_true, if_false]
  split <;> rfl

/-- A request marks the cores it takes of a capsule whose work has ended, and leaves the capsule alone (R24). -/
theorem State.takeCores_of_ended {s u : State} {cap id : Nat} {eps : List Nat}
    (hu : u = eps.foldl (fun s e => s.modCore e fun k => { k with taker := some id }) s) (hended : u.workEnded cap = true)
    (hdelivered : u.delivered cap = true) : s.takeCores cap eps id = u := by
  subst hu
  simp [State.takeCores, hended, hdelivered]

end Sys2Proof.Machine
end

section
/-!
The whole of a capsule's life, of the parts above.
-/
namespace Sys2Proof.Machine

/-- Settles O56: each event does what its equation above says where its preconditions hold; a capsule removed is found no
more, since its holdings' return keeps the map's form and handing over its cores keeps the map. -/
theorem capsuleLife : Obligations.CapsuleLife := by
  unfold Obligations.CapsuleLife
  refine ⟨?admission, ?refusal, ?delivery, ?places, ?attestation, ?life, ?taking, ?removal⟩
  case admission =>
    intro s chip i a v hf hb hnext s1 decides
    have hdecides : decides (s1.carryOut chip i a v) := execCapsuleAdmission_decides hf hb hnext
    refine ⟨?_, ?_, ?_, ?_⟩
    · rintro rfl; exact hdecides
    · rintro r d rfl; exact hdecides
    · rintro cs sh as es rfl; exact hdecides
    · rintro vs rfl; exact ⟨s1.requestId a, s1.requestId_of_numbered, hdecides⟩
  case refusal =>
    intro a reason detail hreason hdetail b
    refine ⟨?_, ?_, ?_, ?_⟩
    · rw [lget_refusalRecord_head a reason detail (by omega)]; omega
    · rw [lget_refusalRecord_head a reason detail (by omega)]; omega
    · rw [lget_refusalRecord_detail]; omega
    · rintro rfl i hi; exact refusalRecord_unauthentic a detail hi
  case delivery =>
    intro s cap c r rs hc hf hr w u t off
    exact ⟨execFaultRecordDelivery_writes hc hf hr, fun at_ hat htold => execFaultRecordDelivery_tells hc hf hr hat htold,
      fun at_ hat htold => execFaultRecordDelivery_ends hc hf hr hat htold⟩
  case places =>
    intro s cap c e r hc hslot he off
    refine ⟨fun hlen hroom hcomm => State.writeRecord_fits hc hslot he hlen hroom hcomm, fun hfull => ?_⟩
    rw [State.writeRecord_overflows hc hslot he hfull]
    refine ⟨rfl, fun hnew => ?_, fun hold => if_neg (by omega)⟩
    rw [if_pos hnew, State.cap_modCap_same s cap _ (by simp [hc]), State.cap_of_find hc]
    exact ⟨rfl, rfl⟩
  case attestation =>
    intro s chip r rs hf hr c s1
    exact execAttestReportDone_reports hf hr
  case life =>
    intro s cap c hc hf
    refine ⟨fun hstate hremap => execCapsuleCompletion_running hc hf hstate hremap,
      fun hstate => execCapsuleCompletion_terminating hc rfl rfl hstate,
      fun hstate => execCapsuleCompletion_moving hc hstate, ?_, ?_, ?_⟩
    · intro reason s0 s1 hstate hfree hidle hwork s2
      have hpark := execPark_idle hc hf rfl rfl rfl hstate hfree hidle hwork
      refine ⟨fun hrecords => ?_, fun hrecords hparked => ?_, fun hrecords hparked hreached => ?_⟩
      · exact hpark.trans (by rw [if_pos (by simpa using hrecords)])
      · exact hpark.trans (by rw [if_neg (by simpa using hrecords), if_pos (by simp [hparked])])
      · exact hpark.trans (by rw [if_neg (by simpa using hrecords), if_neg (by simp [hparked]), if_pos hreached])
    · intro ep hcap hvac hfree hf1 s1 kept hidle hdrained hlife
      have hgoes : s.saveGoesOn cap ep = true := State.saveGoesOn_of hc
        (hlife.imp_left fun ⟨hrun, hnodes, htasks⟩ => ⟨hrun, State.heirsFit_of hc rfl hnodes htasks⟩)
      have hsave := execPreemptSave_idle rfl hcap hvac hgoes hf1 hfree hidle hdrained
      exact ⟨fun hbegins => hsave.trans (congrArg _ (if_neg (ne_true_of_eq_false hbegins))),
        fun hsaving => hsave.trans (congrArg _ (if_pos hsaving))⟩
    · intro ps hremap hstate hvac hplaces hentries s2 s3 s4
      exact execPreemptInstall_installs hc hf hremap hstate hvac hplaces
        (List.all_eq_true.mpr fun e he => decide_eq_true (hentries e he))
  case taking =>
    intro s cap id eps u hended hdelivered
    exact State.takeCores_of_ended rfl hended hdelivered
  case removal =>
    intro s cap hwf
    exact ⟨s.find_removeCapsule cap hwf, fun ep hep => s.cap_core_removeCapsule hep⟩

end Sys2Proof.Machine
end
